-- ==== Sys2Proof/Word.lean ====
section
/-! DEFINITION. The words the part handles as bits, and the numbers that name its lines and groups. -/

namespace Sys2Proof

/-- One byte of a station's message lane (spec/09 R153). -/
abbrev Byte := BitVec 8

/-- A line: line 0 to line 7 (spec/00, Naming conventions). -/
abbrev LineNo := Fin 8

/-- A group: group 0 to group 3 (spec/00, Naming conventions). -/
abbrev GroupNo := Fin 4

/-- The eight lines in ascending order. -/
def allLines : List LineNo := [0, 1, 2, 3, 4, 5, 6, 7]

/-- The four groups in ascending order. -/
def allGroups : List GroupNo := [0, 1, 2, 3]

end Sys2Proof
end

