-- ==== Sys2Proof/Syntax.lean ====
section
/-! DEFINITION. The commands of the part: one constructor of `Instr` for each row of spec/opcode_table.json,
with the operands that the events and requests carry. -/

namespace Sys2Proof

/-- The four stations of the Berth Link (spec/00, Naming conventions). -/
inductive Station where
  | quay | vessel | panel | service
  deriving DecidableEq, Repr, Inhabited

/-- The four stations in the order of their slots in a frame (R147). -/
def allStations : List Station := [.quay, .vessel, .panel, .service]

/-- The level of a pin. -/
inductive PinLevel where
  | low | high
  deriving DecidableEq, Repr, Inhabited

/-- The levels of a line's four switch inputs at a sample instant (R1, R4). -/
structure SwitchPins where
  hookClosed : PinLevel
  hookOpen : PinLevel
  stowed : PinLevel
  driveFault : PinLevel
  deriving DecidableEq, Repr, Inhabited

/-- What an examination of a line's two encoder phases finds (R10, R14): phase A leading, phase B
leading, or both phases changed at once.  DESIGN CHOICE (log 7): the phase levels are not held. -/
inductive EncoderStep where
  | aLeads | bLeads | bothChanged
  deriving DecidableEq, Repr, Inhabited

/-- The fields of a group profile (R100), as numbers.  WRITE PROFILE carries every one of them; only a
profile that R101 passes is ever stored. -/
structure Profile where
  filterShift : Nat
  lock : Nat
  recover : Nat
  hold : Nat
  render : Nat
  warn : Nat
  trip : Nat
  snag : Nat
  slack : Nat
  renderDwell : Nat
  recoverDwell : Nat
  warnDwell : Nat
  tripDwell : Nat
  slackDwell : Nat
  allowance : Nat
  slackLength : Nat
  deployLength : Nat
  deploySpeed : Nat
  haulSpeed : Nat
  recoverSpeed : Nat
  slackSpeed : Nat
  rewindSpeed : Nat
  hookTime : Nat
  stallWindow : Nat
  deriving DecidableEq, Repr, Inhabited

/-- The fields of a line setup as the bytes of a message or of the setup store hold them (R172), before
any range check: a value outside R103 can stand here. -/
structure SetupFields where
  fitted : Byte
  group : Byte
  hand : Byte
  zeroOffset : BitVec 16
  rank : Byte
  capacity : BitVec 16
  deriving DecidableEq, Repr, Inhabited

/-- The image in the setup store (R108): eight line setups and a check word.  The width of the check word
is not stated, so it is a number (log 9). -/
structure StoreImage where
  setups : Vector SetupFields 8
  check : Nat
  deriving DecidableEq, Repr, Inhabited

/-- The commands, in the order of spec/opcode_table.json. -/
inductive Instr where
  | sampleEvent (n : LineNo) (sample : BitVec 12) (pins : SwitchPins)
  | countEvent (n : LineNo) (step : EncoderStep)
  | frameEvent (st : Station) (slot : BitVec 32)
  | powerOn
  | resetInputAssert
  | resetInputRelease
  | claim (st : Station) (groups : Byte) (option : Byte)
  | yieldGroups (st : Station) (groups : Byte)
  | query (st : Station)
  | deploy (st : Station) (lines : Byte)
  | engage (st : Station) (lines : Byte)
  | lock (st : Station) (lines : Byte)
  | hold (st : Station) (lines : Byte)
  | mark (st : Station) (lines : Byte)
  | release (st : Station) (lines : Byte) (option : Byte)
  | rewind (st : Station) (lines : Byte)
  | quickRelease (st : Station) (lines : Byte)
  | resetLine (st : Station) (lines : Byte)
  | readLines (st : Station) (first : Byte) (count : Byte)
  | readGroup (st : Station) (group : Byte)
  | readSetup (st : Station) (line : Byte)
  | clearFlags (st : Station) (lines : Byte) (flags : BitVec 16)
  | clearStation (st : Station) (indicators : Byte)
  | writeProfile (st : Station) (group : Byte) (profile : Profile)
  | writeBerth (st : Station) (scope : Byte) (stagger : Byte) (vesselLead : Byte)
  | writeLineSetup (st : Station) (line : Byte) (setup : SetupFields)
  | saveSetup (st : Station)
  | restart (st : Station)
  | deviceRestart (st : Station)
  | storeCompletion (readBack : Option StoreImage)
  | staggerExpiry
  | hookTimerExpiry (n : LineNo)
  | stallExpiry (n : LineNo)
  | derivation (n : LineNo)
  | gapAbort (st : Station)
  | presenceLoss (st : Station)
  | stanceChange (st : Station)
  | stopOnset (n : LineNo)
  | holderChangeHalt (n : LineNo)
  | inhibitOnset (n : LineNo)
  | inhibitLift (n : LineNo)
  | queueTake
  | powerLoss
  deriving DecidableEq, Repr

end Sys2Proof
end

