-- ==== Sys2Proof/Config.lean ====
section
/-! DEFINITION. The values that the manual leaves open: constants without a body, so that nothing can be
proved of the value they take. -/

namespace Sys2Proof

/-- The check word computed over the eight line setups of a stored image (R108).  The manual does not say
how it is computed.  DESIGN CHOICE, log 9. -/
opaque Config.checkWord : Vector SetupFields 8 → Nat

/-- FREE VALUE (log 11): the image drawn for the store when a save is abandoned (R111), from the number of the draw,
the image before the save and the image being written.  `Machine.abandonedImage` holds it to the limits of R111. -/
opaque Config.partialImage : Nat → StoreImage → StoreImage → StoreImage

/-- FREE VALUE (log 13): whether a watch whose count already stands above its dwell fires (true) or stands
(false) at a sample that meets its condition, from the count and the dwell.  R29 gives no row for it. -/
opaque Config.overDwellFires : Nat → Nat → Bool

end Sys2Proof
end

