-- ==== Sys2Proof/Decode.lean ====
section
/-! DEFINITION. Reading commands from bits: the opcode table gives no row any bits; a station's request
message (R154, R172) spells a request command.  After the reader, the writer of a request's body. -/

namespace Sys2Proof

/-- The command that a word of the opcode table spells.  The table gives no row any bits (log 30), so no
word spells a command. -/
def decodeTableWord (_nbits _w : Nat) : Option Instr := none

/-- Byte `i` of a message body, as a number. -/
def byteAt (body : List Byte) (i : Nat) : Nat := (body.getD i 0#8).toNat

/-- The two-byte quantity at byte `i`, most significant byte first (R172). -/
def wordAt (body : List Byte) (i : Nat) : Nat := byteAt body i * 256 + byteAt body (i + 1)

/-- The first of the two thresholds packed in the three bytes at `i` (R172, packed thresholds). -/
def packedFirst (body : List Byte) (i : Nat) : Nat := byteAt body i * 16 + byteAt body (i + 1) / 16

/-- The second of the two thresholds packed in the three bytes at `i` (R172, packed thresholds). -/
def packedSecond (body : List Byte) (i : Nat) : Nat := byteAt body (i + 1) % 16 * 256 + byteAt body (i + 2)

/-- The two bytes of a quantity, most significant first (R172). -/
def wordBytes (n : Nat) : List Byte := [BitVec.ofNat 8 (n / 256), BitVec.ofNat 8 n]

/-- Two 12-bit values in three bytes (R172, packed thresholds). -/
def packedBytes (a b : Nat) : List Byte :=
  [BitVec.ofNat 8 (a / 16), BitVec.ofNat 8 (a % 16 * 16 + b / 256), BitVec.ofNat 8 b]

/-- The profile carried by bytes 1 to 38 of a WRITE PROFILE body (R172). -/
def decodeProfile (body : List Byte) : Profile where
  filterShift := byteAt body 1
  lock := packedFirst body 2
  recover := packedSecond body 2
  hold := packedFirst body 5
  render := packedSecond body 5
  warn := packedFirst body 8
  trip := packedSecond body 8
  snag := packedFirst body 11
  slack := packedSecond body 11
  renderDwell := wordAt body 14
  recoverDwell := wordAt body 16
  warnDwell := wordAt body 18
  tripDwell := wordAt body 20
  slackDwell := wordAt body 22
  allowance := wordAt body 24
  slackLength := wordAt body 26
  deployLength := wordAt body 28
  deploySpeed := byteAt body 30
  haulSpeed := byteAt body 31
  recoverSpeed := byteAt body 32
  slackSpeed := byteAt body 33
  rewindSpeed := byteAt body 34
  hookTime := wordAt body 35
  stallWindow := wordAt body 37

/-- Bytes 1 to 38 of a WRITE PROFILE body (R172). -/
def encodeProfile (p : Profile) : List Byte :=
  [BitVec.ofNat 8 p.filterShift]
    ++ packedBytes p.lock p.recover ++ packedBytes p.hold p.render ++ packedBytes p.warn p.trip
    ++ packedBytes p.snag p.slack
    ++ wordBytes p.renderDwell ++ wordBytes p.recoverDwell ++ wordBytes p.warnDwell ++ wordBytes p.tripDwell
    ++ wordBytes p.slackDwell ++ wordBytes p.allowance ++ wordBytes p.slackLength ++ wordBytes p.deployLength
    ++ [BitVec.ofNat 8 p.deploySpeed, BitVec.ofNat 8 p.haulSpeed, BitVec.ofNat 8 p.recoverSpeed,
        BitVec.ofNat 8 p.slackSpeed, BitVec.ofNat 8 p.rewindSpeed]
    ++ wordBytes p.hookTime ++ wordBytes p.stallWindow

/-- Setup bytes 1 to 8 of a WRITE LINE SETUP body (R172). -/
def decodeSetup (body : List Byte) : SetupFields where
  fitted := body.getD 1 0#8
  group := body.getD 2 0#8
  hand := body.getD 3 0#8
  zeroOffset := body.getD 4 0#8 ++ body.getD 5 0#8
  rank := body.getD 6 0#8
  capacity := body.getD 7 0#8 ++ body.getD 8 0#8

/-- Setup bytes 1 to 8 (R172). -/
def encodeSetup (f : SetupFields) : List Byte :=
  [f.fitted, f.group, f.hand, f.zeroOffset.extractLsb' 8 8, f.zeroOffset.extractLsb' 0 8, f.rank,
   f.capacity.extractLsb' 8 8, f.capacity.extractLsb' 0 8]

/-- The kind codes of the requests, and the body length of each (R172, Kinds). -/
def requestLength (kind : Byte) : Option Nat :=
  match kind.toNat with
  | 0x10 => some 2
  | 0x11 => some 1
  | 0x12 => some 0
  | 0x20 | 0x21 | 0x22 | 0x23 | 0x24 => some 1
  | 0x25 => some 2
  | 0x26 | 0x27 | 0x28 => some 1
  | 0x30 => some 2
  | 0x31 | 0x32 => some 1
  | 0x40 => some 3
  | 0x41 => some 1
  | 0x50 => some 39
  | 0x51 => some 3
  | 0x52 => some 9
  | 0x53 | 0x60 => some 0
  | _ => none

/-- The kind code of a request command (R172, Kinds); none for the events. -/
def Instr.kind : Instr → Option Byte
  | .claim .. => some 0x10#8
  | .yieldGroups .. => some 0x11#8
  | .query _ => some 0x12#8
  | .deploy .. => some 0x20#8
  | .engage .. => some 0x21#8
  | .lock .. => some 0x22#8
  | .hold .. => some 0x23#8
  | .mark .. => some 0x24#8
  | .release .. => some 0x25#8
  | .rewind .. => some 0x26#8
  | .quickRelease .. => some 0x27#8
  | .resetLine .. => some 0x28#8
  | .readLines .. => some 0x30#8
  | .readGroup .. => some 0x31#8
  | .readSetup .. => some 0x32#8
  | .clearFlags .. => some 0x40#8
  | .clearStation .. => some 0x41#8
  | .writeProfile .. => some 0x50#8
  | .writeBerth .. => some 0x51#8
  | .writeLineSetup .. => some 0x52#8
  | .saveSetup _ => some 0x53#8
  | .restart _ => some 0x60#8
  | .sampleEvent .. | .countEvent .. | .frameEvent .. | .powerOn | .resetInputAssert | .resetInputRelease
  | .deviceRestart _ | .storeCompletion _ | .staggerExpiry | .hookTimerExpiry _ | .stallExpiry _ | .derivation _
  | .gapAbort _ | .presenceLoss _ | .stanceChange _ | .stopOnset _ | .holderChangeHalt _ | .inhibitOnset _
  | .inhibitLift _ | .queueTake | .powerLoss => none

/-- The request that a message of station `st` with this kind and this body spells (R155, R161, R172):
none for a kind that is no request's, and for a body whose length is not that of its kind. -/
def decodeRequest (st : Station) (kind : Byte) (body : List Byte) : Option Instr :=
  if requestLength kind = some body.length then
    match kind.toNat with
    | 0x10 => some (.claim st (body.getD 0 0#8) (body.getD 1 0#8))
    | 0x11 => some (.yieldGroups st (body.getD 0 0#8))
    | 0x12 => some (.query st)
    | 0x20 => some (.deploy st (body.getD 0 0#8))
    | 0x21 => some (.engage st (body.getD 0 0#8))
    | 0x22 => some (.lock st (body.getD 0 0#8))
    | 0x23 => some (.hold st (body.getD 0 0#8))
    | 0x24 => some (.mark st (body.getD 0 0#8))
    | 0x25 => some (.release st (body.getD 0 0#8) (body.getD 1 0#8))
    | 0x26 => some (.rewind st (body.getD 0 0#8))
    | 0x27 => some (.quickRelease st (body.getD 0 0#8))
    | 0x28 => some (.resetLine st (body.getD 0 0#8))
    | 0x30 => some (.readLines st (body.getD 0 0#8) (body.getD 1 0#8))
    | 0x31 => some (.readGroup st (body.getD 0 0#8))
    | 0x32 => some (.readSetup st (body.getD 0 0#8))
    | 0x40 => some (.clearFlags st (body.getD 0 0#8) (body.getD 1 0#8 ++ body.getD 2 0#8))
    | 0x41 => some (.clearStation st (body.getD 0 0#8))
    | 0x50 => some (.writeProfile st (body.getD 0 0#8) (decodeProfile body))
    | 0x51 => some (.writeBerth st (body.getD 0 0#8) (body.getD 1 0#8) (body.getD 2 0#8))
    | 0x52 => some (.writeLineSetup st (body.getD 0 0#8) (decodeSetup body))
    | 0x53 => some (.saveSetup st)
    | 0x60 => some (.restart st)
    | _ => none
  else none

/-- The body of a request command's message (R172, Request bodies); empty for the events. -/
def encodeBody : Instr → List Byte
  | .claim _ groups option => [groups, option]
  | .yieldGroups _ groups => [groups]
  | .deploy _ lines | .engage _ lines | .lock _ lines | .hold _ lines | .mark _ lines | .rewind _ lines
  | .quickRelease _ lines | .resetLine _ lines => [lines]
  | .release _ lines option => [lines, option]
  | .readLines _ first count => [first, count]
  | .readGroup _ group => [group]
  | .readSetup _ line => [line]
  | .clearFlags _ lines flags => [lines, flags.extractLsb' 8 8, flags.extractLsb' 0 8]
  | .clearStation _ indicators => [indicators]
  | .writeProfile _ group p => group :: encodeProfile p
  | .writeBerth _ scope stagger lead => [scope, stagger, lead]
  | .writeLineSetup _ line f => line :: encodeSetup f
  | .query _ | .saveSetup _ | .restart _ => []
  | .sampleEvent .. | .countEvent .. | .frameEvent .. | .powerOn | .resetInputAssert | .resetInputRelease
  | .deviceRestart _ | .storeCompletion _ | .staggerExpiry | .hookTimerExpiry _ | .stallExpiry _ | .derivation _
  | .gapAbort _ | .presenceLoss _ | .stanceChange _ | .stopOnset _ | .holderChangeHalt _ | .inhibitOnset _
  | .inhibitLift _ | .queueTake | .powerLoss => []

/-- The station that sends a request command. -/
def Instr.sender : Instr → Option Station
  | .claim st .. | .yieldGroups st .. | .query st | .deploy st .. | .engage st .. | .lock st .. | .hold st ..
  | .mark st .. | .release st .. | .rewind st .. | .quickRelease st .. | .resetLine st .. | .readLines st ..
  | .readGroup st .. | .readSetup st .. | .clearFlags st .. | .clearStation st .. | .writeProfile st ..
  | .writeBerth st .. | .writeLineSetup st .. | .saveSetup st | .restart st => some st
  | .sampleEvent .. | .countEvent .. | .frameEvent .. | .powerOn | .resetInputAssert | .resetInputRelease
  | .deviceRestart _ | .storeCompletion _ | .staggerExpiry | .hookTimerExpiry _ | .stallExpiry _ | .derivation _
  | .gapAbort _ | .presenceLoss _ | .stanceChange _ | .stopOnset _ | .holderChangeHalt _ | .inhibitOnset _
  | .inhibitLift _ | .queueTake | .powerLoss => none

end Sys2Proof
end

