-- ==== Sys2Proof/Machine/Types.lean ====
section
/-! DEFINITION. The parts of the state, block by block: what each block of the part holds, as plain data. -/

namespace Sys2Proof.Machine

/-! ### Line Sense Unit (spec/01) -/

/-- The accepted position of a switch input (R5, R6). -/
inductive Accepted where
  | unknown | inactive | active
  deriving DecidableEq, Repr, Inhabited

/-- A debounced switch input: its accepted position and its run count, 0..7 (R5). -/
structure Switch where
  accepted : Accepted
  run : Nat
  deriving DecidableEq, Repr, Inhabited

/-- The accepted hook position (R7). -/
inductive HookPos where
  | unknown | closed | opened | moving | invalid
  deriving DecidableEq, Repr, Inhabited

/-- What a Line Sense Unit holds (spec/01, table of items).  `heaving` is the sign of the last drive demand
that was not 0, which the direction lead keeps (R15, log 8). -/
structure Sense where
  hookClosed : Switch
  hookOpen : Switch
  stowed : Switch
  driveFault : Switch
  hook : HookPos
  samples : Nat
  payout : Int
  referenced : Bool
  invalidCount : Nat
  heaving : Bool
  deriving DecidableEq, Repr, Inhabited

/-! ### Tension Evaluator (spec/02) -/

/-- A direction of the tending watch (R31). -/
inductive TendDir where
  | render | recover
  deriving DecidableEq, Repr, Inhabited

/-- The outcome of a watch at a sample (R29). -/
inductive WatchOutcome where
  | none | fired | standing
  deriving DecidableEq, Repr, Inhabited

/-- What a Tension Evaluator holds (spec/02, table of items).  `filtered` is F; it has no value while the
line is not seeded (R25, R35). -/
structure Tension where
  filtered : Option Nat
  reported : Nat
  tendDir : Option TendDir
  tendCount : Nat
  deriving DecidableEq, Repr, Inhabited

/-! ### Protection Unit (spec/05) -/

/-- What a Protection Unit holds (spec/05, table of items). -/
structure Protection where
  warnWatch : Nat
  tripWatch : Nat
  inhibit : Bool
  deriving DecidableEq, Repr, Inhabited

/-! ### Line Control Unit (spec/03) -/

/-- The sixteen line states (R38), in the order of their codes (R172). -/
inductive LineState where
  | starting | notFitted | stowed | deploying | opened | engaging | hauling | locked
  | rendering | recovering | held | slipping | slacking | opening | rewinding | faulted
  deriving DecidableEq, Repr, Inhabited

/-- The fault causes (R57), in the order of their codes (R172). -/
inductive FaultCause where
  | payoutEnd | stall | hook | snag | sensor | drive
  deriving DecidableEq, Repr, Inhabited

/-- The flags of the flag word (R65), in the order of their bits (R172). -/
inductive Flag where
  | warn | trip | allow | limit | payoutEnd | stall | hook | snag | sensor | drive
  deriving DecidableEq, Repr, Inhabited

/-- The operation in flight (R36). -/
inductive CurrentCommand where
  | deploy | engage | lock | release | rewind | queue
  deriving DecidableEq, Repr, Inhabited

/-- The command record (R36).  Its default is the empty record. -/
structure CommandRecord where
  current : Option CurrentCommand := none
  slackStart : Option Int := none
  thenRewind : Bool := false
  restOnCompletion : Bool := false
  tripDeferred : Bool := false
  returnTo : Option FaultCause := none
  deriving DecidableEq, Repr, Inhabited

/-- A running hook timer: the hook time it started with and the sample periods passed (R55). -/
structure HookTimer where
  limit : Nat
  elapsed : Nat
  deriving DecidableEq, Repr, Inhabited

/-- The brake demand (R38). -/
inductive Brake where
  | apply | release | slip
  deriving DecidableEq, Repr, Inhabited

/-- The hook demand (R38). -/
inductive HookDemand where
  | none | openHook | closeHook
  deriving DecidableEq, Repr, Inhabited

/-- What a Line Control Unit holds (spec/03, section 3.1).  `hookTimer` is none while the timer is stopped
at 0 (R55). -/
structure Control where
  state : LineState
  lockMark : Option Int
  record : CommandRecord
  slackWatch : Nat
  hookTimer : Option HookTimer
  stallCounter : Nat
  startingCount : Nat
  cause : Option FaultCause
  flags : BitVec 10
  drive : Int
  brake : Brake
  hookDemand : HookDemand
  deriving DecidableEq, Repr, Inhabited

/-- What the four per-line blocks hold for one line, with the applied profile of R100, whether a taken profile write
waits for the line's next sample event (R102), and the profile of a new group that the line has taken and uses from
its next sample event (R105, R27; log 23). -/
structure Line where
  sense : Sense
  tension : Tension
  protection : Protection
  control : Control
  applied : Profile
  profileDue : Bool
  joined : Option Profile
  deriving DecidableEq, Repr, Inhabited

/-! ### Group Table (spec/06) -/

/-- The hand of a line (R14). -/
inductive Hand where
  | right | left
  deriving DecidableEq, Repr, Inhabited

/-- A line setup in force (R103): every field within its range. -/
structure LineSetup where
  fitted : Bool
  group : GroupNo
  hand : Hand
  zeroOffset : Nat
  rank : Fin 8
  capacity : Nat
  deriving DecidableEq, Repr, Inhabited

/-- The protection scope (R91, R106). -/
inductive Scope where
  | group | berth
  deriving DecidableEq, Repr, Inhabited

/-- The berth settings (R106). -/
structure BerthSettings where
  scope : Scope
  stagger : Nat
  vesselLead : Bool
  deriving DecidableEq, Repr, Inhabited

/-- The store state (R108). -/
inductive StoreState where
  | current | stale | saving
  deriving DecidableEq, Repr, Inhabited

/-- The source of the setups in force (R108). -/
inductive Source where
  | store | default
  deriving DecidableEq, Repr, Inhabited

/-- What the Group Table holds (spec/06), the applied profiles apart.  `saveCopy` is the copy taken at the
start of a save that is in progress (R109). -/
structure GroupTable where
  profiles : Vector Profile 4
  setups : Vector LineSetup 8
  settings : BerthSettings
  storeState : StoreState
  source : Source
  store : StoreImage
  saveCopy : Option StoreImage
  deriving DecidableEq, Repr, Inhabited

/-! ### Authority Arbiter (spec/07) -/

/-- An entry of a station in a group's record: its single mark (R116) and its watched set (R123). -/
structure Entry where
  station : Station
  single : Bool
  watched : Option (List LineNo)
  deriving DecidableEq, Repr, Inhabited

/-- The authority record of a group: both sets in rank order (R114). -/
structure GroupRecord where
  inService : List Entry
  waiting : List Entry
  deriving DecidableEq, Repr, Inhabited

/-! ### Berth Action Unit (spec/08) -/

/-- A running stagger timer (R143). -/
structure StaggerTimer where
  interval : Nat
  elapsed : Nat
  deriving DecidableEq, Repr, Inhabited

/-- A validated stance (R152). -/
inductive Stance where
  | idle | stop | releaseAll
  deriving DecidableEq, Repr, Inhabited

/-- An event that one block has handed to another and that the other has still to take, as an event of its
own: R120, R135, R92, R133, R142.  DESIGN CHOICE, log 5. -/
inductive DueEvent where
  | halt (n : LineNo)
  | stopOnset (n : LineNo)
  | inhibitOnset (n : LineNo)
  | inhibitLift (n : LineNo)
  | stance (st : Station) (before after : Stance)
  | queueTake
  deriving DecidableEq, Repr, Inhabited

/-- What the Berth Action Unit holds (spec/08, table of items).  `stagger` is none while the timer is idle. -/
structure BerthAction where
  stopped : Bool
  queue : List LineNo
  releaseAll : Bool
  stagger : Option StaggerTimer
  deriving DecidableEq, Repr, Inhabited

/-! ### Link Interface (spec/09) -/

/-- The presence of a station (R149). -/
inductive Presence where
  | absent | present
  deriving DecidableEq, Repr, Inhabited

/-- The receive lane (R153). -/
inductive RecvLane where
  | idle
  | oneLook (b : Byte)
  | taken
  deriving DecidableEq, Repr, Inhabited

/-- The incoming message (R154): the next byte expected, and the bytes so far. -/
inductive Incoming where
  | kind
  | length (kind : Byte)
  | body (kind : Byte) (length remaining : Nat) (bytes : List Byte)
  deriving DecidableEq, Repr, Inhabited

/-- The send lane (R156). -/
inductive SendLane where
  | idle
  | offering (b : Byte)
  | awaitingClear
  deriving DecidableEq, Repr, Inhabited

/-- The message in transfer: its bytes, the index of the next to offer, and whether it is the reply
(R156, R157). -/
structure Outgoing where
  bytes : List Byte
  next : Nat
  isReply : Bool
  deriving DecidableEq, Repr, Inhabited

/-- A reply in a reply slot: its kind and body, without the status header (R157). -/
structure Reply where
  kind : Byte
  body : List Byte
  deriving DecidableEq, Repr, Inhabited

/-- What the Link Interface holds for one station (spec/09, table of items), with the downstream slot that
the station receives in the next frame (R147). -/
structure Link where
  presence : Presence
  goodCount : Nat
  badCount : Nat
  candidate : Option (BitVec 4)
  stance : Stance
  recv : RecvLane
  incoming : Incoming
  gap : Nat
  send : SendLane
  outgoing : Option Outgoing
  replySlot : Option Reply
  groupMarks : Vector Bool 4
  lineMarks : Vector Bool 8
  linkError : Bool
  restartInd : Bool
  downstream : BitVec 32
  deriving DecidableEq, Repr, Inhabited

/-! ### Replies (spec/10) -/

/-- The outcome codes (R172). -/
inductive ReplyCode where
  | done | noChange | granted | queued | held | notHolder | badState | inhibited | stopped | releasing
  | notPermitted | badValue | restartPending | busy
  deriving DecidableEq, Repr, Inhabited

end Sys2Proof.Machine
end

