-- ==== Sys2Proof/Machine/Defaults.lean ====
section
/-! DEFINITION. The values after power-on and after a restart, block by block (R18, R35, R66, R98, R100, R103,
R106, R111, R132, R146, R160). -/

namespace Sys2Proof.Machine

/-- The default profile (R100). -/
def defaultProfile : Profile where
  filterShift := 2
  lock := 400
  recover := 280
  hold := 600
  render := 720
  warn := 900
  trip := 1100
  snag := 200
  slack := 60
  renderDwell := 20
  recoverDwell := 500
  warnDwell := 50
  tripDwell := 30
  slackDwell := 100
  allowance := 2000
  slackLength := 400
  deployLength := 6000
  deploySpeed := 40
  haulSpeed := 30
  recoverSpeed := 15
  slackSpeed := 20
  rewindSpeed := 50
  hookTime := 100
  stallWindow := 200

/-- The default setup of a line: fitted, RIGHT, no zero offset, ranked by its number, 40000 counts of drum
(R103), and grouped in pairs (R99). -/
def defaultSetup (n : LineNo) : LineSetup where
  fitted := true
  group := ⟨n.val / 2, by omega⟩
  hand := .right
  zeroOffset := 0
  rank := n
  capacity := 40000

/-- The eight default setups (R99, R103). -/
def defaultSetups : Vector LineSetup 8 :=
  #v[defaultSetup 0, defaultSetup 1, defaultSetup 2, defaultSetup 3, defaultSetup 4, defaultSetup 5,
     defaultSetup 6, defaultSetup 7]

/-- The default profiles of the four groups (R100). -/
def defaultProfiles : Vector Profile 4 := Vector.replicate 4 defaultProfile

/-- The default berth settings (R106). -/
def defaultSettings : BerthSettings where
  scope := .berth
  stagger := 25
  vesselLead := false

/-- The image that the setup store holds before anything has been saved: erased, every byte FFh and check
word 0.  DESIGN CHOICE, unsafe, log 10: the manual gives no first content of the store. -/
def erasedImage : StoreImage where
  setups := Vector.replicate 8
    { fitted := 0xFF#8, group := 0xFF#8, hand := 0xFF#8, zeroOffset := 0xFFFF#16, rank := 0xFF#8,
      capacity := 0xFFFF#16 }
  check := 0

/-- A switch input after a reset (R6). -/
def unknownSwitch : Switch where
  accepted := .unknown
  run := 0

/-- A Line Sense Unit after power-on (R18), which is also how it is held while its line is not fitted (R17):
positions unknown, counts 0, P 0 with the reference flag clear.  The sign behind the direction lead is a
DESIGN CHOICE, unsafe, log 8. -/
def senseAtPowerOn : Sense where
  hookClosed := unknownSwitch
  hookOpen := unknownSwitch
  stowed := unknownSwitch
  driveFault := unknownSwitch
  hook := .unknown
  samples := 0
  payout := 0
  referenced := false
  invalidCount := 0
  heaving := false

/-- A Tension Evaluator after power-on and after a restart (R35). -/
def tensionAtReset : Tension where
  filtered := none
  reported := 0
  tendDir := none
  tendCount := 0

/-- A Protection Unit after power-on and after a restart (R98). -/
def protectionAtReset : Protection where
  warnWatch := 0
  tripWatch := 0
  inhibit := false

/-- A Line Control Unit after power-on (R66). -/
def controlAtPowerOn : Control where
  state := .starting
  lockMark := none
  record := {}
  slackWatch := 0
  hookTimer := none
  stallCounter := 0
  startingCount := 0
  cause := none
  flags := 0#10
  drive := 0
  brake := .apply
  hookDemand := .none

/-- A line after power-on (R18, R35, R66, R98, R111). -/
def lineAtPowerOn : Line where
  sense := senseAtPowerOn
  tension := tensionAtReset
  protection := protectionAtReset
  control := controlAtPowerOn
  applied := defaultProfile
  profileDue := false
  joined := none

/-- An authority record after a reset (R132). -/
def emptyRecord : GroupRecord where
  inService := []
  waiting := []

/-- The Berth Action Unit after a reset (R146). -/
def berthAtReset : BerthAction where
  stopped := false
  queue := []
  releaseAll := false
  stagger := none

/-- The downstream slot composed from the values after power-on: marker 101101b, standing NONE, the RESTART
berth flag set, no offer, even parity (R147, R172).  DESIGN CHOICE, unsafe, log 15: the manual does not
say what a station receives before its first frame event. -/
def downstreamAtPowerOn : BitVec 32 := 0xB4040001#32

/-- The Link Interface's items of a station after power-on (R160). -/
def linkAtPowerOn : Link where
  presence := .absent
  goodCount := 0
  badCount := 0
  candidate := none
  stance := .idle
  recv := .idle
  incoming := .kind
  gap := 0
  send := .idle
  outgoing := none
  replySlot := none
  groupMarks := Vector.replicate 4 false
  lineMarks := Vector.replicate 8 false
  linkError := false
  restartInd := true
  downstream := downstreamAtPowerOn

/-- A line at an assertion of the reset input (R18, R35, R66, R98, R111): as after power-on, but the direction lead
keeps the level it last had, since the drive demand is 0 (R15, R16; log 8). -/
def Line.atAssertion (l : Line) : Line :=
  { lineAtPowerOn with sense := { senseAtPowerOn with heaving := l.sense.heaving } }

/-- A Line Sense Unit after a restart (R18): as after power-on, but P and its reference flag kept. -/
def Sense.atRestart (u : Sense) : Sense :=
  { senseAtPowerOn with payout := u.payout, referenced := u.referenced, heaving := u.heaving }

/-- A Line Control Unit after a restart (R66): as after power-on, but the lock mark kept. -/
def Control.atRestart (c : Control) : Control :=
  { controlAtPowerOn with lockMark := c.lockMark }

/-- A line after a restart (R18, R35, R66, R98, R111).  R17 holds a line that the loaded setups mark not
fitted at P 0 with the reference flag clear. -/
def Line.atRestart (fitted : Bool) (l : Line) : Line :=
  { lineAtPowerOn with
    sense := if fitted then l.sense.atRestart else { senseAtPowerOn with heaving := l.sense.heaving }
    control := l.control.atRestart }

/-- The Link Interface's items of a station after a restart (R160), the downstream slot left for
`restartPart`. -/
def Link.atRestart (k : Link) : Link :=
  { linkAtPowerOn with
    presence := k.presence
    goodCount := k.goodCount
    badCount := k.badCount
    send := match k.presence with
      | .present => .awaitingClear
      | .absent => .idle
    groupMarks := Vector.replicate 4 (k.presence == .present)
    lineMarks := Vector.replicate 8 (k.presence == .present)
    downstream := k.downstream }

end Sys2Proof.Machine
end

