-- ==== Sys2Proof/Machine/State.lean ====
section
/-! DEFINITION. The state of the part as plain data, the reasons a step can stop, and the state after reset. -/

namespace Sys2Proof.Machine

/-- The whole state of the part: everything the blocks hold, and the commands that wait. -/
structure State where
  /-- The supply is present (R66, R111). -/
  powered : Bool
  /-- The reset input is asserted (R18, R147). -/
  resetAsserted : Bool
  /-- The four per-line blocks of each line. -/
  lines : Vector Line 8
  /-- The Group Table. -/
  table : GroupTable
  /-- The authority records of the four groups (R114). -/
  records : Vector GroupRecord 4
  /-- The Berth Action Unit. -/
  berth : BerthAction
  /-- Events handed over and not yet taken, oldest first (log 5). -/
  due : List DueEvent
  /-- The Link Interface's items of each station, in slot order. -/
  links : Vector Link 4
  /-- The pending restart: the stations whose RESTART reply awaits its lane completion (R169). -/
  pendingRestart : List Station
  /-- The model's own counter of free values drawn (log 11). -/
  freeIndex : Nat
  /-- The commands that wait, first in first out. -/
  pending : List Instr
  deriving DecidableEq, Repr

/-- The reasons to stop with a fault.  There is none: the manual gives every event an effect, or says that
it has none. -/
inductive Fault where
  deriving DecidableEq, Repr

/-- The reasons to refuse a command. -/
inductive Refusal where
  /-- A command without a meaning in this model, by its mnemonic.  Only an arm of `exec` raises it; safe.
  No arm does: every command has its meaning. -/
  | notModelled (mnemonic : String)
  deriving DecidableEq, Repr

/-- The part right after power-on, its setup store never written: the load of R110 fails on the erased image
of log 10, so that the default setups are in force with store state STALE and source DEFAULT. -/
def State.reset : State where
  powered := true
  resetAsserted := false
  lines := Vector.replicate 8 lineAtPowerOn
  table :=
    { profiles := defaultProfiles
      setups := defaultSetups
      settings := defaultSettings
      storeState := .stale
      source := .default
      store := erasedImage
      saveCopy := none }
  records := Vector.replicate 4 emptyRecord
  berth := berthAtReset
  due := []
  links := Vector.replicate 4 linkAtPowerOn
  pendingRestart := []
  freeIndex := 0
  pending := []

end Sys2Proof.Machine
end

