-- ==== Sys2Proof/Machine/Flags.lean ====
section
/-! DEFINITION. The flag word of a line (R65, R172): its bits, latching and clearing, and what of a line's
change marks a notice. -/

namespace Sys2Proof.Machine

/-- The bit of the flag word that holds a flag (R172). -/
def Flag.bit : Flag → Nat
  | .warn => 0
  | .trip => 1
  | .allow => 2
  | .limit => 3
  | .payoutEnd => 4
  | .stall => 5
  | .hook => 6
  | .snag => 7
  | .sensor => 8
  | .drive => 9

/-- The flag word with one flag alone. -/
def Flag.mask (f : Flag) : BitVec 10 := 1#10 <<< f.bit

/-- The flag that a fault latches (R57). -/
def FaultCause.flag : FaultCause → Flag
  | .payoutEnd => .payoutEnd
  | .stall => .stall
  | .hook => .hook
  | .snag => .snag
  | .sensor => .sensor
  | .drive => .drive

/-- Whether a flag is latched in a flag word. -/
def flagSet (w : BitVec 10) (f : Flag) : Bool := w.getLsbD f.bit

/-- Whether a flag is latched on a line. -/
def Line.has (l : Line) (f : Flag) : Bool := flagSet l.control.flags f

/-- Latches a flag on a line (R65). -/
def Line.latch (f : Flag) (l : Line) : Line :=
  { l with control := { l.control with flags := l.control.flags ||| f.mask } }

/-- Clears the flags named by a mask on a line (R166). -/
def Line.clear (mask : BitVec 10) (l : Line) : Line :=
  { l with control := { l.control with flags := l.control.flags &&& ~~~mask } }

/-- WARN or TRIP is latched on a line (R91). -/
def Line.overloaded (l : Line) : Bool := l.has .warn || l.has .trip

/-- A change of a line's record that marks its notice (R65): a change of state, a flag latched that was
clear, a change of fault cause, a lock mark changed, made present or made absent.  DESIGN CHOICE, unsafe, log 36: the
record before the event is compared with the record after it, so that a RESET LINE which clears the fault cause and
derives FAULTED with the same cause again marks no notice. -/
def notable (old new : Control) : Bool :=
  old.state != new.state || (new.flags &&& ~~~old.flags) != 0#10 || old.cause != new.cause
    || old.lockMark != new.lockMark

end Sys2Proof.Machine
end

