-- ==== Sys2Proof/Machine/Operands.lean ====
section
/-! DEFINITION. What the operands of commands mean: pin levels, encoder phases, masks, and the fields that
writes carry with their ranges (R4, R14, R100, R101, R103, R106, R172); and the leads of a line (R14 to R16). -/

namespace Sys2Proof.Machine

/-! ### Pins in -/

/-- The position that a switch pin reads as: the low level is ACTIVE, the high level INACTIVE (spec/01,
section 1.3, with R4). -/
def PinLevel.reading : PinLevel → Accepted
  | .low => .active
  | .high => .inactive

/-- The largest magnitude of the payout counter (R12). -/
def payoutLimit : Int := 65535

/-- The direction of an encoder count in the part's own convention, after the line's hand (R10, R14): +1
paying out, -1 heaving in; none where both phases changed, which is no count. -/
def countDirection : Hand → EncoderStep → Option Int
  | .right, .aLeads => some 1
  | .right, .bLeads => some (-1)
  | .left, .aLeads => some (-1)
  | .left, .bLeads => some 1
  | _, .bothChanged => none

/-! ### Masks -/

/-- The lines named by a line mask, in ascending order (R172: bit n = line n). -/
def maskLines (mask : Byte) : List LineNo := allLines.filter fun n => mask.getLsbD n.val

/-- The groups named by a group mask, in ascending order (R172: bit g = group g). -/
def maskGroups (mask : Byte) : List GroupNo := allGroups.filter fun g => mask.getLsbD g.val

/-- The mask that names a set of lines. -/
def linesMask (ns : List LineNo) : Byte := ns.foldl (fun m n => m ||| (1#8 <<< n.val)) 0#8

/-- The mask that names a set of groups. -/
def groupsMask (gs : List GroupNo) : Byte := gs.foldl (fun m g => m ||| (1#8 <<< g.val)) 0#8

/-- The line that a line byte names.  A byte above 7 is malformed (R161) and reaches no use of this. -/
def lineOf (b : Byte) : LineNo := ⟨b.toNat % 8, Nat.mod_lt _ (by decide)⟩

/-- The group that a group byte names.  A byte above 3 is malformed (R161) and reaches no use of this. -/
def groupOf (b : Byte) : GroupNo := ⟨b.toNat % 4, Nat.mod_lt _ (by decide)⟩

/-! ### Fields of writes -/

/-- `a ≤ x ≤ b`. -/
def within (a b x : Nat) : Bool := a ≤ x && x ≤ b

/-- Every field of a profile lies in its range (R100). -/
def profileInRange (p : Profile) : Bool :=
  within 0 5 p.filterShift
    && [p.lock, p.recover, p.hold, p.render, p.warn, p.trip, p.snag, p.slack].all (within 0 4094)
    && [p.renderDwell, p.recoverDwell, p.warnDwell, p.tripDwell, p.slackDwell].all (within 1 4095)
    && within 0 8000 p.allowance && within 1 8000 p.slackLength && within 100 60000 p.deployLength
    && [p.deploySpeed, p.haulSpeed, p.recoverSpeed, p.slackSpeed, p.rewindSpeed].all (within 1 100)
    && within 10 500 p.hookTime && within 20 1000 p.stallWindow

/-- The thresholds keep both orderings of R101. -/
def profileOrdered (p : Profile) : Bool :=
  0 < p.slack && p.slack < p.recover && p.recover < p.lock && p.lock ≤ p.hold && p.hold < p.render
    && p.render ≤ p.warn && p.warn < p.trip && p.trip ≤ 4094
    && p.slack < p.snag && p.snag ≤ p.warn

/-- The value check of WRITE PROFILE (R101). -/
def profileValid (p : Profile) : Bool := profileInRange p && profileOrdered p

/-- The line setup that fields as sent or stored stand for; none where a field lies outside its range (R103,
R172). -/
def setupOfFields (f : SetupFields) : Option LineSetup :=
  if hg : f.group.toNat < 4 then
    if hr : f.rank.toNat < 8 then
      if f.fitted.toNat ≤ 1 && f.hand.toNat ≤ 1 && f.zeroOffset.toNat ≤ 1023
          && within 1000 60000 f.capacity.toNat then
        some
          { fitted := f.fitted == 1#8
            group := ⟨f.group.toNat, hg⟩
            hand := if f.hand == 1#8 then .left else .right
            zeroOffset := f.zeroOffset.toNat
            rank := ⟨f.rank.toNat, hr⟩
            capacity := f.capacity.toNat }
      else none
    else none
  else none

/-- The fields of a line setup as a message or the store holds them (R172). -/
def fieldsOfSetup (u : LineSetup) : SetupFields where
  fitted := if u.fitted then 1#8 else 0#8
  group := BitVec.ofNat 8 u.group.val
  hand := if u.hand = .left then 1#8 else 0#8
  zeroOffset := BitVec.ofNat 16 u.zeroOffset
  rank := BitVec.ofNat 8 u.rank.val
  capacity := BitVec.ofNat 16 u.capacity

/-- The berth settings that the three bytes of WRITE BERTH stand for; none where one lies outside its values
(R106, R172). -/
def settingsOfBytes (scope stagger lead : Byte) : Option BerthSettings :=
  if scope.toNat ≤ 1 && stagger.toNat ≤ 200 && lead.toNat ≤ 1 then
    some
      { scope := if scope == 1#8 then .berth else .group
        stagger := stagger.toNat
        vesselLead := lead == 1#8 }
  else none

/-- The three bytes of the berth settings (R172). -/
def bytesOfSettings (b : BerthSettings) : List Byte :=
  [if b.scope = .berth then 1#8 else 0#8, BitVec.ofNat 8 b.stagger, if b.vesselLead then 1#8 else 0#8]

/-! ### Pins out -/

/-- The leads of a line (R15, R16): the direction lead, the duty cycle of the speed lead in percent (0: held
low), and which of the brake and hook leads are driven active. -/
structure Leads where
  direction : PinLevel
  speedDuty : Nat
  applyLead : Bool
  releaseLead : Bool
  slipLead : Bool
  openLead : Bool
  closeLead : Bool
  deriving DecidableEq, Repr

/-- The level of the direction lead for a sign of the drive demand and a hand (R14). -/
def directionLead : Hand → Bool → PinLevel
  | .right, heaving => if heaving then .high else .low
  | .left, heaving => if heaving then .low else .high

/-- The leads of a line from its demands and its hand (R14, R15, R16). -/
def leadsOf (hand : Hand) (l : Line) : Leads where
  direction := directionLead hand l.sense.heaving
  speedDuty := l.control.drive.natAbs
  applyLead := l.control.brake == .apply
  releaseLead := l.control.brake == .release
  slipLead := l.control.brake == .slip
  openLead := l.control.hookDemand == .openHook
  closeLead := l.control.hookDemand == .closeHook

end Sys2Proof.Machine
end

