-- ==== Sys2Proof/Machine/Control.lean ====
section
/-! DEFINITION. What a Line Control Unit does to its own line: the sets of states, entering a state, faults,
derivation, completions, and the answers to each kind of report (spec/03, spec/04, and R87 to R90, R93). -/

namespace Sys2Proof.Machine

/-! ### Sets of states and demands -/

/-- The drive-powered states (R37). -/
def LineState.drivePowered : LineState → Bool
  | .deploying | .hauling | .recovering | .slacking | .rewinding => true
  | _ => false

/-- The payout states (R37). -/
def LineState.payout : LineState → Bool
  | .deploying | .slacking | .rendering | .slipping => true
  | _ => false

/-- The resting states (R37). -/
def LineState.resting : LineState → Bool
  | .deploying | .engaging | .hauling | .slacking | .opening | .rewinding => false
  | _ => true

/-- The states in which the hook stands closed without a test of its position (R37, FAULTED apart). -/
def LineState.attached : LineState → Bool
  | .hauling | .locked | .rendering | .recovering | .held | .slipping | .slacking => true
  | _ => false

/-- The states that tend (R67). -/
def LineState.tending : LineState → Bool
  | .locked | .rendering | .recovering => true
  | _ => false

/-- A line is in a hook-closed state (R37): FAULTED only while its accepted hook position is CLOSED. -/
def Line.hookClosed (l : Line) : Bool :=
  l.control.state.attached || l.control.state == .engaging
    || (l.control.state == .faulted && l.sense.hook == .closed)

/-- The drive demand of a state under a profile (R38). -/
def driveDemand (p : Profile) : LineState → Int
  | .deploying => p.deploySpeed
  | .hauling => -p.haulSpeed
  | .recovering => -p.recoverSpeed
  | .slacking => p.slackSpeed
  | .rewinding => -p.rewindSpeed
  | _ => 0

/-- The brake demand of a state (R38). -/
def brakeDemand : LineState → Brake
  | .deploying | .hauling | .recovering | .slacking | .rewinding => .release
  | .rendering | .slipping => .slip
  | _ => .apply

/-- The hook demand of a state (R38). -/
def hookDemandOf : LineState → HookDemand
  | .engaging => .closeHook
  | .opening => .openHook
  | _ => .none

/-- The states in which the hook timer runs (R55). -/
def LineState.timed : LineState → Bool
  | .engaging | .opening => true
  | _ => false

/-! ### Excursion and allowance -/

/-- The excursion E of a line, P - M; none without a lock mark (R68). -/
def Line.excursion (l : Line) : Option Int := l.control.lockMark.map fun m => l.sense.payout - m

/-- The render limit holds: E < Emax (R69). -/
def Line.renderLimit (l : Line) : Bool :=
  match l.excursion with
  | some e => e < l.applied.allowance
  | none => false

/-- The recover limit holds: E > -Emax (R69). -/
def Line.recoverLimit (l : Line) : Bool :=
  match l.excursion with
  | some e => -(l.applied.allowance : Int) < e
  | none => false

/-! ### Entering a state -/

/-- Sets the drive demand (R38), and with a demand that is not 0 the sign that the direction lead keeps (R15). -/
def Line.setDrive (d : Int) (l : Line) : Line :=
  { l with
    sense := { l.sense with heaving := if d = 0 then l.sense.heaving else decide (d < 0) }
    control := { l.control with drive := d } }

/-- Zeroes the tending watch (R32). -/
def Line.zeroTending (l : Line) : Line :=
  { l with tension := { l.tension with tendDir := none, tendCount := 0 } }

/-- A line enters state `x` with command record `r`.  The three demands become those of the state (R38); the
stall counter and the slack watch return to 0 (R52, R56, R57); the hook timer starts at 0 with the hook time
in force on entry to ENGAGING and OPENING, and stops otherwise (R55); the STARTING count is 0 (R40); a fault
cause is left behind (R57: present in FAULTED only); and the tending watch is zeroed when the line enters or
leaves LOCKED (R32). -/
def Line.enter (x : LineState) (r : CommandRecord) (l : Line) : Line :=
  let l' := if l.control.state = .locked ∨ x = .locked then l.zeroTending else l
  let l'' :=
    { l' with
      control :=
        { l'.control with
          state := x
          record := r
          slackWatch := 0
          stallCounter := 0
          startingCount := 0
          cause := none
          hookTimer := if x.timed then some { limit := l.applied.hookTime, elapsed := 0 } else none
          brake := brakeDemand x
          hookDemand := hookDemandOf x } }
  l''.setDrive (driveDemand l.applied x)

/-- Sets the lock mark to P (R49). -/
def Line.setMark (l : Line) : Line :=
  { l with control := { l.control with lockMark := some l.sense.payout } }

/-- The Line Sense Unit references the line: P made 0 and the reference flag set (R13). -/
def Line.reference (l : Line) : Line :=
  { l with sense := { l.sense with payout := 0, referenced := true } }

/-- A line enters FAULTED with a cause, and nothing is latched by this alone (R57, R89). -/
def Line.enterFaulted (c : Option FaultCause) (l : Line) : Line :=
  let l' := l.enter .faulted {}
  { l' with control := { l'.control with cause := c } }

/-- A fault arises in a state where it applies (R57): a line already FAULTED keeps its first cause; a SLIPPING
line that carries return-to-faulted goes to FAULTED with the recorded cause; in each case the new fault's
flag latches. -/
def Line.fault (c : FaultCause) (l : Line) : Line :=
  if l.control.state = .faulted then l.latch c.flag
  else if l.control.state = .slipping then
    (l.enterFaulted (some (l.control.record.returnTo.getD c))).latch c.flag
  else (l.enterFaulted (some c)).latch c.flag

/-- A trip takes a line to SLIPPING (R88): from FAULTED, the fault cause is recorded as return-to-faulted. -/
def Line.slip (l : Line) : Line :=
  l.enter .slipping { returnTo := if l.control.state = .faulted then l.control.cause else none }

/-- A line goes to REWINDING, or to STOWED at once where its accepted stowed position already stands ACTIVE,
with the referencing of R13 (R54).  DESIGN CHOICE, unsafe, log 39: at that event the demands go straight to those of
STOWED, so that the negative drive demand of REWINDING (R38) does not reach the direction lead, which keeps the level it
had (R15). -/
def Line.goRewind (r : CommandRecord) (l : Line) : Line :=
  if l.sense.stowed.accepted = .active then (l.enter .stowed {}).reference else l.enter .rewinding r

/-- Derivation (R41): the first row whose condition holds gives the state. -/
def Line.derive (fitted : Bool) (l : Line) : Line :=
  if !fitted then l.enter .notFitted {}
  else if l.sense.driveFault.accepted = .active then (l.enterFaulted (some .drive)).latch .drive
  else if l.sense.stowed.accepted = .active ∧ l.sense.hook = .opened then (l.enter .stowed {}).reference
  else if l.sense.stowed.accepted = .inactive ∧ l.sense.hook = .opened then l.enter .opened {}
  else if l.sense.stowed.accepted = .inactive ∧ l.sense.hook = .closed then l.enter .held {}
  else (l.enterFaulted (some .hook)).latch .hook

/-! ### Reports of the Line Sense Unit -/

/-- ENGAGING completes (R46). -/
def Line.engagingComplete (b : BerthAction) (l : Line) : Line :=
  if l.control.record.tripDeferred then l.slip
  else if b.stopped || l.protection.inhibit || l.control.record.restOnCompletion || b.releaseAll then
    l.enter .held {}
  else l.enter .hauling { current := l.control.record.current }

/-- OPENING completes (R53). -/
def Line.openingComplete (b : BerthAction) (l : Line) : Line :=
  if l.control.record.thenRewind && !b.stopped && !b.releaseAll && !l.control.record.restOnCompletion then
    l.goRewind { current := l.control.record.current }
  else l.enter .opened {}

/-- The accepted hook position has changed from `old` to `new` (R45, R53, R58).  DEDUCED, unsafe, log 37: OPENING completes
at a change to OPEN alone, so that a line which a queue head takes to OPENING while its accepted position still stands
OPEN does not complete by that position. -/
def Line.hookReport (b : BerthAction) (old new : HookPos) (l : Line) : Line :=
  match l.control.state with
  | .stowed | .opened | .deploying | .rewinding =>
    if new = .closed ∨ new = .invalid then l.fault .hook else l
  | .engaging =>
    if new = .closed then l.engagingComplete b
    else if new = .invalid then l.fault .hook
    else l
  | .opening =>
    if new = .opened then l.openingComplete b
    else if new = .invalid then l.fault .hook
    else l
  | .hauling | .locked | .rendering | .recovering | .held | .slipping | .slacking | .faulted =>
    if old = .closed ∧ new ≠ .closed then l.fault .hook else l
  | .starting | .notFitted => l

/-- The accepted stowed position has become ACTIVE: a REWINDING line is STOWED and referenced (R54). -/
def Line.stowedReport (l : Line) : Line :=
  if l.control.state = .rewinding then (l.enter .stowed {}).reference else l

/-- A drive-fault report (R60, R40): in STARTING the flag alone latches. -/
def Line.driveFaultReport (l : Line) : Line :=
  match l.control.state with
  | .notFitted => l
  | .starting => l.latch .drive
  | _ => l.fault .drive

/-- A sensor-fault report (R60). -/
def Line.sensorFaultReport (l : Line) : Line :=
  match l.control.state with
  | .starting | .notFitted => l
  | _ => l.fault .sensor

/-- A count report of direction `d` after P has moved (`limit`: P stood at its limit and did not move):
LIMIT latches on a limit count (R12); the stall counter of a drive-powered line is cleared (R56); END is
tested before the allowance (R59, R78); a render or a recovery ends at the allowance (R77, R79). -/
def Line.countReport (capacity : Nat) (d : Int) (limit : Bool) (l : Line) : Line :=
  let l1 := if limit then l.latch .limit else l
  let l2 :=
    if l1.control.state.drivePowered then { l1 with control := { l1.control with stallCounter := 0 } } else l1
  if l2.control.state.payout ∧ d = 1 ∧ ((capacity : Int) ≤ l2.sense.payout ∨ limit) then
    let l3 := if l2.control.state = .rendering ∧ !l2.renderLimit then l2.latch .allow else l2
    l3.fault .payoutEnd
  else if l2.control.state = .rendering ∧ !l2.renderLimit then (l2.latch .allow).enter .locked {}
  else if l2.control.state = .recovering ∧ !l2.recoverLimit then (l2.latch .allow).enter .locked {}
  else l2

/-! ### Watches and the tension report -/

/-- One step of a watch counter (R29).  A count above the dwell, which R29 gives no row for, holds at the
dwell; whether it fires is a FREE VALUE (log 13). -/
def watchStep (dwell count : Nat) (met : Bool) : Nat × WatchOutcome :=
  if !met then (0, .none)
  else if count + 1 < dwell then (count + 1, .none)
  else if count + 1 = dwell then (dwell, .fired)
  else if count = dwell then (dwell, .standing)
  else (dwell, if Config.overDwellFires count dwell then .fired else .standing)

/-- What the tension report says of the tending watch (R28). -/
inductive TendOutcome where
  | none
  | fired (d : TendDir)
  | standing (d : TendDir)
  deriving DecidableEq, Repr

/-- The tending watch outcome of a direction. -/
def tendOutcome (d : TendDir) : WatchOutcome → TendOutcome
  | .none => .none
  | .fired => .fired d
  | .standing => .standing d

/-- The render entry test (R70), with the ALLOW latch of R73 where the watch has fired. -/
def Line.renderEntry (fired : Bool) (l : Line) : Line :=
  if l.renderLimit then l.enter .rendering {}
  else if fired then l.latch .allow
  else l

/-- The recover entry test (R71), with the ALLOW latch of R73 where the watch has fired and the limit fails. -/
def Line.recoverEntry (stopped fired : Bool) (l : Line) : Line :=
  if !l.recoverLimit then (if fired then l.latch .allow else l)
  else if l.protection.inhibit || stopped then l
  else l.enter .recovering {}

/-- The slack watch and the length test of a SLACKING line (R52). -/
def Line.slackReport (l : Line) : Line :=
  let w := watchStep l.applied.slackDwell l.control.slackWatch (l.tension.reported ≤ l.applied.slack)
  let l' := { l with control := { l.control with slackWatch := w.1 } }
  if w.2 ≠ .none ∧ (l.applied.slackLength : Int) ≤ l.sense.payout - l.control.record.slackStart.getD 0 then
    l'.enter .opening { current := l.control.record.current, thenRewind := l.control.record.thenRewind }
  else l'

/-- A tension report (R28), with the tests of section 2.11 made against the line's reported tension: the
entry tests of LOCKED (R70, R71), render end (R76), recover end (R79), lock reached (R48), slack (R52), snag
(R59) and slip end (R89). -/
def Line.tensionReport (stopped : Bool) (o : TendOutcome) (l : Line) : Line :=
  match l.control.state with
  | .locked =>
    match o with
    | .none => l
    | .fired .render => l.renderEntry true
    | .standing .render => l.renderEntry false
    | .fired .recover => l.recoverEntry stopped true
    | .standing .recover => l.recoverEntry stopped false
  | .rendering => if l.tension.reported ≤ l.applied.hold then l.enter .locked {} else l
  | .recovering => if l.applied.lock ≤ l.tension.reported then l.enter .locked {} else l
  | .hauling => if l.applied.lock ≤ l.tension.reported then (l.enter .locked {}).setMark else l
  | .slacking => l.slackReport
  | .deploying | .rewinding => if l.applied.snag < l.tension.reported then l.fault .snag else l
  | .slipping =>
    if l.tension.reported ≤ l.applied.warn then
      match l.control.record.returnTo with
      | some c => l.enterFaulted (some c)
      | none => l.enter .held {}
    else l
  | .starting | .notFitted | .stowed | .opened | .engaging | .held | .opening | .faulted => l

/-! ### Reports of the Protection Unit -/

/-- A warn report latches WARN and changes no state (R85). -/
def Line.warnReport (l : Line) : Line := l.latch .warn

/-- A trip report (R86, R87): TRIP latches in every row. -/
def Line.tripReport (l : Line) : Line :=
  let l' := l.latch .trip
  match l.control.state with
  | .hauling | .locked | .rendering | .recovering | .held | .slacking => l'.slip
  | .faulted => if l.sense.hook = .closed then l'.slip else l'
  | .engaging =>
    { l' with control := { l'.control with record := { l'.control.record with tripDeferred := true } } }
  | .slipping | .opening | .starting | .notFitted | .stowed | .opened | .deploying | .rewinding => l'

/-- An inhibit onset (R93). -/
def Line.inhibitOnset (l : Line) : Line :=
  match l.control.state with
  | .hauling => l.enter .held {}
  | .recovering => l.enter .locked {}
  | _ => l

/-! ### Holder change, STOP onset, queue head -/

/-- A holder change halts a line's commanded motion (R62). -/
def Line.halt (l : Line) : Line :=
  match l.control.state with
  | .deploying | .rewinding => l.enter .opened {}
  | .hauling | .slacking => l.enter .held {}
  | .engaging =>
    { l with control := { l.control with record := { l.control.record with restOnCompletion := true } } }
  | .opening =>
    { l with
      control :=
        { l.control with
          record := { l.control.record with restOnCompletion := true, thenRewind := false } } }
  | _ => l

/-- A STOP onset (R63). -/
def Line.stopOnset (l : Line) : Line :=
  match l.control.state with
  | .deploying | .rewinding => l.enter .opened {}
  | .hauling | .slacking => l.enter .held {}
  | .recovering => l.enter .locked {}
  | _ => l

/-- The release queue's head opens a hook-closed line (R64); any other line is untouched. -/
def Line.queueHead (l : Line) : Line :=
  if l.hookClosed then l.enter .opening { current := some .queue } else l

/-! ### The close of a sample event, and expiries -/

/-- A stall expiry (R56, R59): it does not happen once the line has left the drive-powered states. -/
def Line.stallExpire (l : Line) : Line :=
  if l.control.state.drivePowered then l.fault .stall else l

/-- A hook timer expiry (R55): a stopped timer has none.  DEDUCED, unsafe, log 37: a line still in OPENING at its expiry is
faulted HOOK also where its accepted hook position has stood OPEN throughout. -/
def Line.hookExpire (l : Line) : Line :=
  if l.control.state.timed ∧ l.control.hookTimer.isSome then l.fault .hook else l

/-- Another sample period has passed for a running hook timer (R55, log 4). -/
def Line.advanceHookTimer (l : Line) : Line :=
  { l with
    control :=
      { l.control with
        hookTimer := l.control.hookTimer.map fun t => { t with elapsed := min (t.elapsed + 1) t.limit } } }

/-- The close in STARTING (R39, R40): the count advances, and at the eighth sample the state is derived. -/
def Line.closeStarting (fitted : Bool) (l : Line) : Line :=
  if l.control.state = .starting then
    let l' := { l with control := { l.control with startingCount := l.control.startingCount + 1 } }
    if 8 ≤ l'.control.startingCount then l'.derive fitted else l'
  else l

/-- The deploy length test of a DEPLOYING line (R39, R44). -/
def Line.closeDeploy (l : Line) : Line :=
  if l.control.state = .deploying ∧ (l.applied.deployLength : Int) ≤ l.sense.payout then l.enter .opened {}
  else l

/-- The stall counter of a drive-powered line advances, and reaching the stall window is the stall expiry
(R39, R56). -/
def Line.closeStall (l : Line) : Line :=
  if l.control.state.drivePowered then
    let l' := { l with control := { l.control with stallCounter := l.control.stallCounter + 1 } }
    if l.applied.stallWindow ≤ l'.control.stallCounter then l'.stallExpire else l'
  else l

/-- The close of a sample event (R39). -/
def Line.close (fitted : Bool) (l : Line) : Line := ((l.closeStarting fitted).closeDeploy).closeStall

/-! ### Profile application -/

/-- A line that has moved to another group uses the profile it took at the write, from its next sample event on (R105,
R27).  No watch is returned to 0, since R26 and R96 name the profile write alone; a drive-powered line takes the speed
of its group's profile (R38; log 23). -/
def Line.useJoined (p : Profile) (l : Line) : Line :=
  let l' := { l with applied := p, joined := none }
  if l'.control.state.drivePowered then l'.setDrive (driveDemand p l'.control.state) else l'

/-- A line takes its group's profile at the start of a sample event (R102): the watches are zeroed (R26, R52,
R96); RENDERING and RECOVERING are tested against the new allowance (R83); a drive-powered line takes the
new speed of its state (R38). -/
def Line.applyProfile (p : Profile) (l : Line) : Line :=
  let l' :=
    { l.zeroTending with
      protection := { l.protection with warnWatch := 0, tripWatch := 0 }
      control := { l.control with slackWatch := 0 }
      applied := p
      profileDue := false
      joined := none }
  if l'.control.state = .rendering ∧ !l'.renderLimit then (l'.latch .allow).enter .locked {}
  else if l'.control.state = .recovering ∧ !l'.recoverLimit then (l'.latch .allow).enter .locked {}
  else if l'.control.state.drivePowered then l'.setDrive (driveDemand p l'.control.state)
  else l'

end Sys2Proof.Machine
end

