-- ==== Sys2Proof/Machine/Sense.lean ====
section
/-! DEFINITION. The Line Sense Unit's own work (debounce, accepted hook position, invalid samples, payout
counter; spec/01) and the Tension Evaluator's (offset, filter, tending watch; spec/02). -/

namespace Sys2Proof.Machine

/-! ### Switch inputs -/

/-- One switch input takes a sample's reading (R5, R6).  `eighth` marks the eighth sample event after a reset or
fitting, at which an unknown input takes the level read. -/
def Switch.sample (eighth : Bool) (reading : Accepted) (w : Switch) : Switch :=
  if w.accepted = .unknown then
    if eighth then { accepted := reading, run := 0 } else { accepted := .unknown, run := 0 }
  else if reading = w.accepted then { accepted := w.accepted, run := 0 }
  else if 8 ≤ w.run + 1 then { accepted := reading, run := 0 }
  else { accepted := w.accepted, run := w.run + 1 }

/-- The accepted hook position from the two accepted switch positions (R7). -/
def hookPosition : Accepted → Accepted → HookPos
  | .active, .inactive => .closed
  | .inactive, .active => .opened
  | .inactive, .inactive => .moving
  | .active, .active => .invalid
  | .unknown, _ => .unknown
  | _, .unknown => .unknown

/-- The switch readings of a sample event are taken (R1 stage 1, R5, R6, R7). -/
def Sense.sampleSwitches (pins : SwitchPins) (u : Sense) : Sense :=
  let eighth := u.samples = 7
  let closed := u.hookClosed.sample eighth (PinLevel.reading pins.hookClosed)
  let opened := u.hookOpen.sample eighth (PinLevel.reading pins.hookOpen)
  { u with
    hookClosed := closed
    hookOpen := opened
    stowed := u.stowed.sample eighth (PinLevel.reading pins.stowed)
    driveFault := u.driveFault.sample eighth (PinLevel.reading pins.driveFault)
    hook := hookPosition closed.accepted opened.accepted
    samples := min (u.samples + 1) 8 }

/-! ### Load samples and counts -/

/-- A raw load sample is valid unless it is 4095, the converter's fault code (R2). -/
def sampleValid (sample : BitVec 12) : Bool := sample.toNat ≠ 4095

/-- The invalid-sample counter takes a sample (R3). -/
def Sense.sampleLoad (valid : Bool) (u : Sense) : Sense :=
  { u with invalidCount := if valid then 0 else min (u.invalidCount + 1) 8 }

/-- A count of direction `d` is a limit count: it would carry P beyond its range (R12). -/
def Sense.atLimit (d : Int) (u : Sense) : Bool :=
  decide (payoutLimit < u.payout + d) || decide (u.payout + d < -payoutLimit)

/-- A count of direction `d` moves P; a limit count leaves P and clears the reference flag (R11, R12). -/
def Sense.count (d : Int) (u : Sense) : Sense :=
  if u.atLimit d then { u with referenced := false } else { u with payout := u.payout + d }

/-- A phase skip counts nothing and clears the reference flag (R10, R13). -/
def Sense.skip (u : Sense) : Sense := { u with referenced := false }

/-! ### Tension -/

/-- The load t: the sample less the zero offset, 0 where that is negative (R21). -/
def loadOf (sample : BitVec 12) (zeroOffset : Nat) : Nat := sample.toNat - zeroOffset

/-- One step of the filter toward 16 t (R22): the quotient of the difference by 2^k, truncated toward zero. -/
def filterStep (k f t : Nat) : Nat := ((f : Int) + Int.tdiv (16 * (t : Int) - f) (2 ^ k)).toNat

/-- F after a valid sample: seeded to 16 t (R25), or stepped (R22). -/
def filteredAfter (k : Nat) (f : Option Nat) (t : Nat) : Nat :=
  match f with
  | none => 16 * t
  | some f => filterStep k f t

/-- A valid sample forms F and T (R21 to R25). -/
def Tension.sample (k t : Nat) (e : Tension) : Tension :=
  { e with filtered := some (filteredAfter k e.filtered t), reported := filteredAfter k e.filtered t / 16 }

/-- The count of the tending watch in direction `d`: 0 where it stands in the other direction (R31). -/
def Tension.countIn (d : TendDir) (e : Tension) : Nat := if e.tendDir = some d then e.tendCount else 0

/-- One step of the tending watch against the reported tension (R31), for a line that is LOCKED at the tending
watch stage (R32). -/
def Tension.tendStep (p : Profile) (e : Tension) : Tension × TendOutcome :=
  if p.render < e.reported then
    let w := watchStep p.renderDwell (e.countIn .render) true
    ({ e with tendDir := some .render, tendCount := w.1 }, tendOutcome .render w.2)
  else if e.reported < p.recover then
    let w := watchStep p.recoverDwell (e.countIn .recover) true
    ({ e with tendDir := some .recover, tendCount := w.1 }, tendOutcome .recover w.2)
  else ({ e with tendDir := none, tendCount := 0 }, .none)

end Sys2Proof.Machine
end

