-- ==== Sys2Proof/Machine/Ops.lean ====
section
/-! DEFINITION. Reading and writing the state: lines, setups, groups, stations; notice marks, indicators, events
handed over; and the conditions that several blocks read. -/

namespace Sys2Proof.Machine

/-! ### Reading and writing by name -/

/-- The place of a station in the order of slots (R147). -/
def Station.index : Station → Fin 4
  | .quay => 0
  | .vessel => 1
  | .panel => 2
  | .service => 3

/-- What the per-line blocks hold for line `n`. -/
def State.line (s : State) (n : LineNo) : Line := s.lines[n]

/-- Replaces what the per-line blocks hold for line `n`. -/
def State.putLine (n : LineNo) (l : Line) (s : State) : State := { s with lines := s.lines.set n l }

/-- The setup in force of line `n` (R103). -/
def State.setup (s : State) (n : LineNo) : LineSetup := s.table.setups[n]

/-- The profile of group `g` as last written (R100). -/
def State.profile (s : State) (g : GroupNo) : Profile := s.table.profiles[g]

/-- The authority record of group `g` (R114). -/
def State.record (s : State) (g : GroupNo) : GroupRecord := s.records[g]

/-- Replaces the authority record of group `g`. -/
def State.putRecord (g : GroupNo) (r : GroupRecord) (s : State) : State := { s with records := s.records.set g r }

/-- The Link Interface's items of station `st`. -/
def State.link (s : State) (st : Station) : Link := s.links[Station.index st]

/-- Replaces the Link Interface's items of station `st`. -/
def State.putLink (st : Station) (k : Link) (s : State) : State :=
  { s with links := s.links.set (Station.index st) k }

/-- Changes the Link Interface's items of station `st`. -/
def State.onLink (st : Station) (f : Link → Link) (s : State) : State := s.putLink st (f (s.link st))

/-- The part runs: it has its supply and its reset input is not asserted (R18, R147). -/
def State.running (s : State) : Bool := s.powered && !s.resetAsserted

/-- A station is PRESENT (R149). -/
def State.present (s : State) (st : Station) : Bool := (s.link st).presence == .present

/-- A line's setup marks it fitted (R17). -/
def State.fitted (s : State) (n : LineNo) : Bool := (s.setup n).fitted

/-- The fitted lines whose setups name group `g`, in ascending order (R99). -/
def State.groupLines (s : State) (g : GroupNo) : List LineNo :=
  allLines.filter fun n => s.fitted n && (s.setup n).group == g

/-! ### Conditions over all lines -/

/-- Some line, fitted or not, meets a condition. -/
def State.anyLine (s : State) (p : Line → Bool) : Bool := allLines.any fun n => p (s.line n)

/-- The RELEASE condition of the berth flags and the status header (R145, R168). -/
def State.releasing (s : State) : Bool := !s.berth.queue.isEmpty || s.anyLine (·.control.state == .opening)

/-- The ALARM condition of the berth flags (R147). -/
def State.alarm (s : State) : Bool := s.anyLine fun l => l.control.state == .faulted || l.overloaded

/-- Whether a line's haul inhibit is to be in force (R91): some fitted line within its scope is overloaded. -/
def State.inhibitOf (s : State) (n : LineNo) : Bool :=
  s.fitted n && allLines.any fun m =>
    s.fitted m && (s.table.settings.scope == .berth || (s.setup m).group == (s.setup n).group)
      && (s.line m).overloaded

/-! ### Notice marks and indicators -/

/-- Marks a line's notice pending for every PRESENT station (R65, R158). -/
def State.markLine (n : LineNo) (s : State) : State :=
  allStations.foldl (init := s) fun s st =>
    s.onLink st fun k => if k.presence = .present then { k with lineMarks := k.lineMarks.set n true } else k

/-- Marks a group's authority notice pending for every PRESENT station (R130, R158). -/
def State.markGroup (g : GroupNo) (s : State) : State :=
  allStations.foldl (init := s) fun s st =>
    s.onLink st fun k => if k.presence = .present then { k with groupMarks := k.groupMarks.set g true } else k

/-- Latches a station's link-error indicator (R159). -/
def State.latchLinkError (st : Station) (s : State) : State := s.onLink st fun k => { k with linkError := true }

/-! ### Events handed over -/

/-- Hands over an event, behind those handed over before (log 5). -/
def State.handOver (e : DueEvent) (s : State) : State := { s with due := s.due ++ [e] }

/-- Hands over several events in order. -/
def State.handOverAll (es : List DueEvent) (s : State) : State := { s with due := s.due ++ es }

/-- Takes an event that was handed over: the oldest of its kind leaves the list. -/
def State.takeDue (e : DueEvent) (s : State) : State := { s with due := s.due.erase e }

end Sys2Proof.Machine
end

