-- ==== Sys2Proof/Machine/Arbiter.lean ====
section
/-! DEFINITION. The Authority Arbiter (spec/07): ranks, claims, removal of entries, re-evaluation, holder changes,
single-command authority; and the one operation through which a line's record changes, which hands on what
R65 names. -/

namespace Sys2Proof.Machine

/-! ### Ranks and records -/

/-- The stations in rank order, highest first (R113). -/
def rankOrder (vesselLead : Bool) : List Station :=
  if vesselLead then [.panel, .vessel, .quay, .service] else [.panel, .quay, .vessel, .service]

/-- The rank of a station, 0 the highest (R113). -/
def rank (vesselLead : Bool) : Station → Nat
  | .panel => 0
  | .quay => if vesselLead then 2 else 1
  | .vessel => if vesselLead then 1 else 2
  | .service => 3

/-- One station outranks another (R113). -/
def outranks (vesselLead : Bool) (a b : Station) : Bool := rank vesselLead a < rank vesselLead b

/-- The entry of a station in a set. -/
def entryOf (st : Station) (es : List Entry) : Option Entry := es.find? (·.station == st)

/-- A set put in the rank order in force (R114, R119). -/
def inRankOrder (vesselLead : Bool) (es : List Entry) : List Entry :=
  (rankOrder vesselLead).filterMap fun st => entryOf st es

/-- A set without a station's entry. -/
def withoutStation (st : Station) (es : List Entry) : List Entry := es.filter fun e => e.station != st

/-- The active holder of a group: the first of its in-service set (R114). -/
def GroupRecord.holder (r : GroupRecord) : Option Station := r.inService.head?.map (·.station)

/-- A station's entry in a group, in either set. -/
def GroupRecord.entry (r : GroupRecord) (st : Station) : Option Entry := entryOf st (r.inService ++ r.waiting)

/-- A group's record without a station's entry (R117, R122, R124). -/
def GroupRecord.without (st : Station) (r : GroupRecord) : GroupRecord where
  inService := withoutStation st r.inService
  waiting := withoutStation st r.waiting

/-- Re-evaluation of a group (R119): both sets in rank order; the first pending station moves in where it
outranks the first in service, or none is in service. -/
def reevaluated (vesselLead : Bool) (r : GroupRecord) : GroupRecord :=
  let serving := inRankOrder vesselLead r.inService
  let waiting := inRankOrder vesselLead r.waiting
  match waiting, serving with
  | [], _ => { inService := serving, waiting := [] }
  | e :: rest, [] => { inService := [e], waiting := rest }
  | e :: rest, h :: t =>
    if outranks vesselLead e.station h.station then { inService := e :: h :: t, waiting := rest }
    else { inService := h :: t, waiting := e :: rest }

/-- A set holds an entry of the same station and the same single mark. -/
def holdsLike (es : List Entry) (e : Entry) : Bool := es.any fun f => f.station == e.station && f.single == e.single

/-- Two sets hold the same stations with the same single marks, in whatever order. -/
def sameEntries (es fs : List Entry) : Bool := es.all (holdsLike fs) && fs.all (holdsLike es)

/-- A change of a record that marks its notice (R130): an entry added, removed or moved between the sets, a change of
the active holder, a single mark set or removed.  A change of the order below the holder, and the recording of a
watched set, are none. -/
def recordChanged (old new : GroupRecord) : Bool :=
  old.holder != new.holder || !sameEntries old.inService new.inService || !sameEntries old.waiting new.waiting

/-- A claim of one group (R115, R116): the record after it, and the outcome. -/
def claimed (vesselLead : Bool) (st : Station) (single : Bool) (r : GroupRecord) : GroupRecord × ReplyCode :=
  let e : Entry := { station := st, single := single, watched := none }
  if (entryOf st r.inService).isSome then (r, .held)
  else if (entryOf st r.waiting).isSome then (r, .queued)
  else if r.inService.all fun m => outranks vesselLead st m.station then
    ({ r with inService := inRankOrder vesselLead (e :: r.inService) }, .granted)
  else ({ r with waiting := inRankOrder vesselLead (e :: r.waiting) }, .queued)

/-! ### Changing a group's record -/

/-- The active holder of a group (R114). -/
def State.holder (s : State) (g : GroupNo) : Option Station := (s.record g).holder

/-- Station `st` is active holder of at least one group (R129, R168). -/
def State.holds (s : State) (st : Station) : Bool := allGroups.any fun g => s.holder g == some st

/-- A group's record changes (R120, R130): a change that R130 names marks the group's authority notice; a change of
the active holder is handed to each fitted line of the group. -/
def State.setRecord (g : GroupNo) (r : GroupRecord) (s : State) : State :=
  let s1 := s.putRecord g r
  let s2 := if recordChanged (s.record g) r then s1.markGroup g else s1
  if (s.record g).holder = r.holder then s2 else s2.handOverAll ((s.groupLines g).map DueEvent.halt)

/-- A station's entry leaves a group, which is re-evaluated (R117, R122, R124).  Without an entry nothing
changes. -/
def State.removeEntry (st : Station) (g : GroupNo) (s : State) : State :=
  if ((s.record g).entry st).isSome then
    s.setRecord g (reevaluated s.table.settings.vesselLead ((s.record g).without st))
  else s

/-- Every group is re-evaluated in ascending order (R121). -/
def State.reevaluateAll (s : State) : State :=
  allGroups.foldl (init := s) fun s g => s.setRecord g (reevaluated s.table.settings.vesselLead (s.record g))

/-! ### Single-command authority -/

/-- Every line of a set is in a resting state (R124). -/
def State.allResting (s : State) (ns : List LineNo) : Bool := ns.all fun n => (s.line n).control.state.resting

/-- An entry whose watched set is recorded passes the single-command test (R124). -/
def State.singleDone (s : State) (e : Entry) : Bool :=
  e.single && match e.watched with
    | some ns => s.allResting ns
    | none => false

/-- The single-command test of the entries of a group that watch line `n` (R124), in the order in which the
record holds them.  DESIGN CHOICE, unsafe, log 20: where several entries pass at one change of state, each removal that
changes the active holder is a holder change of its own (R120) and hands the halts of the group over again. -/
def State.testGroup (n : LineNo) (g : GroupNo) (s : State) : State :=
  ((s.record g).inService ++ (s.record g).waiting).foldl (init := s) fun s e =>
    if (e.watched.getD []).contains n && s.singleDone e then s.removeEntry e.station g else s

/-- The single-command test at a change of state of line `n` (R124), in every group. -/
def State.singleTest (n : LineNo) (s : State) : State :=
  allGroups.foldl (init := s) fun s g => s.testGroup n g

/-- Changes the record of line `n`, and hands on what R65 names: a line notice for a notable change, and the
single-command test for a change of state. -/
def State.onLine (n : LineNo) (f : Line → Line) (s : State) : State :=
  let old := (s.line n).control
  let s1 := s.putLine n (f (s.line n))
  let s2 := if notable old (f (s.line n)).control then s1.markLine n else s1
  if old.state = (f (s.line n)).control.state then s2 else s2.singleTest n

/-- Sets the watched set of a station's entry in a group (R123).  It is no change that marks a notice (R130). -/
def State.setWatched (st : Station) (g : GroupNo) (ns : List LineNo) (s : State) : State :=
  let upd := fun e : Entry => if e.station = st then { e with watched := some ns } else e
  s.putRecord g { s.record g with inService := (s.record g).inService.map upd }

/-- Recording of the watched set in one group after a line command, and the test that follows it (R123, R124):
`taken` are the lines for which the command was taken. -/
def State.recordWatchedIn (st : Station) (taken : List LineNo) (g : GroupNo) (s : State) : State :=
  let mine := taken.filter fun n => (s.setup n).group == g
  match entryOf st (s.record g).inService with
  | some e =>
    if e.single && e.watched.isNone && s.holder g == some st && !mine.isEmpty then
      let s1 := s.setWatched st g mine
      if s1.allResting mine then s1.removeEntry st g else s1
    else s
  | none => s

/-- Recording of the watched sets after a line command, group by group (R123, R124, R163). -/
def State.recordWatched (st : Station) (taken : List LineNo) (s : State) : State :=
  allGroups.foldl (init := s) fun s g => s.recordWatchedIn st taken g

end Sys2Proof.Machine
end

