-- ==== Sys2Proof/Machine/Protection.lean ====
section
/-! DEFINITION. The Protection Unit (spec/05): re-evaluation of the haul inhibits, and the protection stage of a
sample event. -/

namespace Sys2Proof.Machine

/-- Sets a line's record of its haul inhibit (R92). -/
def Line.setInhibit (v : Bool) (l : Line) : Line :=
  { l with protection := { l.protection with inhibit := v } }

/-- Sets a line's warn and trip watches. -/
def Line.setWatches (warn trip : Nat) (l : Line) : Line :=
  { l with protection := { l.protection with warnWatch := warn, tripWatch := trip } }

/-- The Protection Unit of line `n` compares its new inhibit with the old (R92): an onset or a lift is handed
over as an event of that line, but for the line `own`, whose onset belongs to its own sample event (R84). -/
def State.reevaluateInhibit (own : Option LineNo) (n : LineNo) (s : State) : State :=
  let new := s.inhibitOf n
  if (s.line n).protection.inhibit = new then s
  else
    let s1 := s.putLine n ((s.line n).setInhibit new)
    if own = some n then s1 else s1.handOver (if new then .inhibitOnset n else .inhibitLift n)

/-- The haul inhibits are re-evaluated (R92). -/
def State.reevaluateInhibits (own : Option LineNo) (s : State) : State :=
  allLines.foldl (init := s) fun s n => s.reevaluateInhibit own n

/-- The re-evaluation that follows a latch of WARN or TRIP on line `n` (R84 stage 3): the line's own onset is
taken at once, after its watch report. -/
def State.afterLatch (n : LineNo) (s : State) : State :=
  let s1 := s.reevaluateInhibits (some n)
  if !(s.line n).protection.inhibit && (s1.line n).protection.inhibit then s1.onLine n Line.inhibitOnset else s1

/-- The protection stage of a sample event at which T is handed over (R84, R85, R86). -/
def State.protectionStage (n : LineNo) (s : State) : State :=
  let l := s.line n
  let p := l.applied
  if l.has .warn then
    let w := watchStep p.tripDwell l.protection.tripWatch (p.trip < l.tension.reported)
    let s1 := s.putLine n (l.setWatches 0 w.1)
    if w.2 = .none then s1
    else
      let s2 := s1.onLine n Line.tripReport
      if l.has .trip then s2 else s2.afterLatch n
  else
    let w := watchStep p.warnDwell l.protection.warnWatch (p.warn < l.tension.reported)
    if w.2 = .fired then
      ((s.putLine n (l.setWatches 0 0)).onLine n Line.warnReport).afterLatch n
    else s.putLine n (l.setWatches w.1 0)

end Sys2Proof.Machine
end

