-- ==== Sys2Proof/Machine/Berth.lean ====
section
/-! DEFINITION. The Berth Action Unit (spec/08): the berth stop, the release queue, the release-all and the
stagger. -/

namespace Sys2Proof.Machine

/-- A queue take becomes due, unless one is due already (R142). -/
def State.dueTake (s : State) : State := if s.due.contains .queueTake then s else s.handOver .queueTake

/-- The lines of a list that an append adds to a queue: those not already in it, in order, each once (R137). -/
def newEntries (queue : List LineNo) : List LineNo → List LineNo
  | [] => []
  | n :: ns => if queue.contains n then newEntries queue ns else n :: newEntries (queue ++ [n]) ns

/-- Lines join the tail of the release queue, those already queued passed over (R137).  A queue take follows
where an entry was added while the stagger timer is idle (R142). -/
def State.appendQueue (ns : List LineNo) (s : State) : State :=
  let fresh := newEntries s.berth.queue ns
  let s1 := { s with berth := { s.berth with queue := s.berth.queue ++ fresh } }
  if fresh.isEmpty || s.berth.stagger.isSome then s1 else s1.dueTake

/-- Some PRESENT station's validated stance is STOP (R134). -/
def State.stopWanted (s : State) : Bool := allStations.any fun st => s.present st && (s.link st).stance == .stop

/-- The berth STOPPED condition is recomputed (R134); an onset is handed to every line, fitted or not (R135),
and an end is handed to none (R136). -/
def State.recomputeStopped (s : State) : State :=
  let s1 := { s with berth := { s.berth with stopped := s.stopWanted } }
  if !s.berth.stopped && s.stopWanted then s1.handOverAll (allLines.map .stopOnset) else s1

/-- The lines in order of release rank, lowest first, equal ranks by line number (R138, R103). -/
def State.byRank (s : State) (ns : List LineNo) : List LineNo :=
  allLines.flatMap fun r => ns.filter fun n => (s.setup n).rank == r

/-- A release-all starts (R138). -/
def State.startReleaseAll (s : State) : State :=
  let selected := allLines.filter fun n => (s.line n).hookClosed && !s.berth.queue.contains n
  let s1 := s.appendQueue (s.byRank selected)
  if s1.berth.queue.isEmpty then s1 else { s1 with berth := { s1.berth with releaseAll := true } }

/-- The Berth Action Unit takes a stance change (R133). -/
def State.takeStance (st : Station) (before after : Stance) (s : State) : State :=
  let s1 := s.recomputeStopped
  if after = .releaseAll ∧ before ≠ .releaseAll then
    if st = .panel then s1.startReleaseAll else s1.latchLinkError st
  else s1

/-- The head `n` of the release queue is taken, `rest` the queue behind it (R142, R144): release-all in progress
is cleared where the last entry leaves. -/
def State.popQueue (rest : List LineNo) (s : State) : State :=
  { s with
    berth := { s.berth with queue := rest, releaseAll := s.berth.releaseAll && !rest.isEmpty } }

/-- A queue take (R142, R143, R144): the head leaves the queue and its line is asked to open its hook.  Opened
with an interval above 0, the stagger timer starts; otherwise the next take follows while the queue is
non-empty. -/
def State.queueTake (s : State) : State :=
  match s.berth.queue with
  | [] => s
  | n :: rest =>
    let opened := (s.line n).hookClosed
    let interval := s.table.settings.stagger
    let s1 := (s.popQueue rest).onLine n Line.queueHead
    if opened && interval != 0 then
      { s1 with berth := { s1.berth with stagger := some { interval := interval, elapsed := 0 } } }
    else if rest.isEmpty then s1 else s1.dueTake

/-- The stagger timer runs out (R143): it becomes idle, and a queue take follows if the queue is non-empty. -/
def State.staggerExpire (s : State) : State :=
  let s1 := { s with berth := { s.berth with stagger := none } }
  if s.berth.queue.isEmpty then s1 else s1.dueTake

/-- One 10 ms period of the Berth Action Unit's own time base passes (R143, log 4). -/
def State.staggerTick (s : State) : State :=
  match s.berth.stagger with
  | none => s
  | some t =>
    if t.interval ≤ t.elapsed + 1 then s.staggerExpire
    else { s with berth := { s.berth with stagger := some { t with elapsed := t.elapsed + 1 } } }

end Sys2Proof.Machine
end

