-- ==== Sys2Proof/Machine/LineSteps.lean ====
section
/-! DEFINITION. The stages of a line's sample event and of its count event, over the whole state (R1, R8, R19,
R28, R39, R84, R102). -/

namespace Sys2Proof.Machine

/-- A waiting profile write is applied at the start of the sample event (R102); without one, a profile that the line
took at a change of its group comes into use (R105, R27). -/
def State.profileStage (n : LineNo) (s : State) : State :=
  if (s.line n).profileDue then s.onLine n (Line.applyProfile (s.profile (s.setup n).group))
  else
    match (s.line n).joined with
    | some p => s.onLine n (Line.useJoined p)
    | none => s

/-- The accepted hook position of line `n` has changed (R8): the line takes the report, and an ENGAGING completion
during a release-all appends the line to the release queue (R141). -/
def State.hookChange (n : LineNo) (old new : HookPos) (s : State) : State :=
  let completes := (s.line n).control.state = .engaging ∧ new = .closed
  let s1 := s.onLine n (Line.hookReport s.berth old new)
  if completes ∧ s1.berth.releaseAll then s1.appendQueue [n] else s1

/-- The switch readings of a sample are debounced, and the changes handed to the Line Control Unit in the order
hook position, stowed, drive fault (R5 to R9, log 18). -/
def State.switchStage (n : LineNo) (pins : SwitchPins) (s : State) : State :=
  let old := (s.line n).sense
  let new := old.sampleSwitches pins
  let s1 := s.putLine n { s.line n with sense := new }
  let s2 := if new.hook = old.hook then s1 else s1.hookChange n old.hook new.hook
  let s3 :=
    if new.stowed.accepted = .active ∧ old.stowed.accepted ≠ .active then s2.onLine n Line.stowedReport else s2
  if new.driveFault.accepted = .active ∧ old.driveFault.accepted ≠ .active then
    s3.onLine n Line.driveFaultReport
  else s3

/-- The load sample is tested and counted, and a sensor fault reported at the eighth invalid sample of a run and
at each further one (R2, R3, R8). -/
def State.sensorStage (n : LineNo) (sample : BitVec 12) (s : State) : State :=
  let new := (s.line n).sense.sampleLoad (sampleValid sample)
  let s1 := s.putLine n { s.line n with sense := new }
  if new.invalidCount = 8 then s1.onLine n Line.sensorFaultReport else s1

/-- The Tension Evaluator's computation and hand-over, and then the protection stage (R19, R28, R84).  An invalid
sample ends after the validity stage (R20). -/
def State.tensionStage (n : LineNo) (sample : BitVec 12) (s : State) : State :=
  if sampleValid sample then
    let l := s.line n
    let e := l.tension.sample l.applied.filterShift (loadOf sample (s.setup n).zeroOffset)
    let w := if l.control.state = .locked then e.tendStep l.applied else (e, TendOutcome.none)
    let s1 := s.putLine n { l with tension := w.1 }
    (s1.onLine n (Line.tensionReport s1.berth.stopped w.2)).protectionStage n
  else s

/-- The sample event of a line (R1, R39): for a fitted line the waiting profile write, the reports of the Line
Sense Unit, the tension report and the protection stage; then the close, for every line. -/
def State.sampleEvent (n : LineNo) (sample : BitVec 12) (pins : SwitchPins) (s : State) : State :=
  let s0 := s.putLine n (s.line n).advanceHookTimer
  let s1 :=
    if s.fitted n then
      (((s0.profileStage n).switchStage n pins).sensorStage n sample).tensionStage n sample
    else s0
  s1.onLine n (Line.close (s.fitted n))

/-- The count event of a line (R10 to R13): of a line that is not fitted there is none (R17). -/
def State.countEvent (n : LineNo) (step : EncoderStep) (s : State) : State :=
  if s.fitted n then
    let l := s.line n
    match countDirection (s.setup n).hand step with
    | none => s.putLine n { l with sense := l.sense.skip }
    | some d =>
      (s.putLine n { l with sense := l.sense.count d }).onLine n
        (Line.countReport (s.setup n).capacity d (l.sense.atLimit d))
  else s

end Sys2Proof.Machine
end

