-- ==== Sys2Proof/Machine/Formats.lean ====
section
/-! DEFINITION. The formats of slots, replies, notices and the status header (R168, R171, R172), read from the
state. -/

namespace Sys2Proof.Machine

/-! ### Codes (R172) -/

/-- The code of an outcome. -/
def ReplyCode.code : ReplyCode → Byte
  | .done => 0x01#8
  | .noChange => 0x02#8
  | .granted => 0x03#8
  | .queued => 0x04#8
  | .held => 0x05#8
  | .notHolder => 0x06#8
  | .badState => 0x07#8
  | .inhibited => 0x08#8
  | .stopped => 0x09#8
  | .releasing => 0x0A#8
  | .notPermitted => 0x0B#8
  | .badValue => 0x0C#8
  | .restartPending => 0x0D#8
  | .busy => 0x0E#8

/-- The code of a line state. -/
def LineState.code : LineState → Byte
  | .starting => 0x00#8
  | .notFitted => 0x01#8
  | .stowed => 0x02#8
  | .deploying => 0x03#8
  | .opened => 0x04#8
  | .engaging => 0x05#8
  | .hauling => 0x06#8
  | .locked => 0x07#8
  | .rendering => 0x08#8
  | .recovering => 0x09#8
  | .held => 0x0A#8
  | .slipping => 0x0B#8
  | .slacking => 0x0C#8
  | .opening => 0x0D#8
  | .rewinding => 0x0E#8
  | .faulted => 0x0F#8

/-- The code of a fault cause, 00h for none. -/
def causeCode : Option FaultCause → Byte
  | none => 0x00#8
  | some .payoutEnd => 0x01#8
  | some .stall => 0x02#8
  | some .hook => 0x03#8
  | some .snag => 0x04#8
  | some .sensor => 0x05#8
  | some .drive => 0x06#8

/-- The code of a station. -/
def Station.code : Station → Byte
  | .quay => 1#8
  | .vessel => 2#8
  | .panel => 3#8
  | .service => 4#8

/-- The code of a store state. -/
def StoreState.code : StoreState → Byte
  | .current => 0x00#8
  | .stale => 0x01#8
  | .saving => 0x02#8

/-- The code of a source. -/
def Source.code : Source → Byte
  | .store => 0x00#8
  | .default => 0x01#8

/-- The kind codes of the notices. -/
def authorityNoticeKind : Byte := 0x70#8

/-- The kind code of the line notice. -/
def lineNoticeKind : Byte := 0x71#8

/-! ### Records -/

/-- A two-byte quantity, most significant byte first. -/
def bytes16 (x : BitVec 16) : List Byte := [x.extractLsb' 8 8, x.extractLsb' 0 8]

/-- A signed three-byte quantity, two's complement, most significant byte first. -/
def bytes24 (x : Int) : List Byte :=
  let v := BitVec.ofInt 24 x
  [v.extractLsb' 16 8, v.extractLsb' 8 8, v.extractLsb' 0 8]

/-- The flag word as two bytes. -/
def flagBytes (w : BitVec 10) : List Byte := bytes16 (w.zeroExtend 16)

/-- A Bool as a bit of a byte. -/
def bit (b : Bool) (i : Nat) : Byte := if b then 1#8 <<< i else 0#8

/-- The line record that READ LINES and line notices carry (R164, R172). -/
def lineRecordBytes (l : Line) : List Byte :=
  [l.control.state.code, causeCode l.control.cause] ++ flagBytes l.control.flags
    ++ bytes16 (BitVec.ofNat 16 l.tension.reported) ++ bytes24 l.sense.payout
    ++ [bit l.sense.referenced 0 ||| bit l.control.lockMark.isSome 1] ++ bytes24 (l.excursion.getD 0)

/-- An entry byte: the station code, and the single mark in bit 7 (R172). -/
def entryByte (e : Entry) : Byte := Station.code e.station ||| bit e.single 7

/-- The four entry bytes of a set, unused ones 00h (R172). -/
def entryBytes (es : List Entry) : List Byte := (es.map entryByte ++ List.replicate 4 0#8).take 4

/-- The authority record of a group (R126, R172). -/
def recordBytes (r : GroupRecord) : List Byte :=
  [match r.holder with
    | some st => Station.code st
    | none => 0#8]
    ++ [BitVec.ofNat 8 r.inService.length] ++ entryBytes r.inService
    ++ [BitVec.ofNat 8 r.waiting.length] ++ entryBytes r.waiting

/-! ### Status header and downstream slot -/

/-- The status header of a message to station `st`, computed now (R168, R172). -/
def State.header (s : State) (st : Station) : Byte :=
  bit (s.link st).restartInd 7 ||| bit (s.link st).linkError 6 ||| bit s.berth.stopped 5 ||| bit s.releasing 4
    ||| bit (s.anyLine (·.control.state == .faulted)) 3 ||| bit (s.anyLine (·.has .trip)) 2
    ||| bit (s.anyLine (·.has .warn)) 1 ||| bit (s.holds st) 0

/-- The standing code of station `st` (R129, R172). -/
def State.standing (s : State) (st : Station) : BitVec 4 :=
  if s.holds st then 0b0001#4
  else if allGroups.any fun g => (entryOf st (s.record g).inService).isSome then 0b0010#4
  else if allGroups.any fun g => (entryOf st (s.record g).waiting).isSome then 0b0100#4
  else 0b0000#4

/-- The marker pattern of every slot (R172). -/
def slotMarker : BitVec 6 := 0b101101#6

/-- The parity of a slot: whether an odd number of its bits is set. -/
def oddParity (slot : BitVec 32) : Bool := (List.range 32).foldl (fun p i => p ^^ slot.getLsbD i) false

/-- The upstream slot is good (R148): the marker stands and the 32 bits have even parity. -/
def slotGood (slot : BitVec 32) : Bool := slot.extractLsb' 26 6 == slotMarker && !oddParity slot

/-- A Bool as one bit. -/
def oneBit (b : Bool) : BitVec 1 := if b then 1#1 else 0#1

/-- The byte that the send lane offers; 00h while its offer is clear (R172). -/
def SendLane.byte : SendLane → Byte
  | .offering b => b
  | .idle | .awaitingClear => 0#8

/-- The send lane's offer bit (R156). -/
def SendLane.offers : SendLane → Bool
  | .offering _ => true
  | .idle | .awaitingClear => false

/-- The receive lane's take bit (R153). -/
def RecvLane.takes : RecvLane → Bool
  | .taken => true
  | .idle | .oneLook _ => false

/-- The downstream slot of station `st`, composed now (R147, R172). -/
def State.compose (s : State) (st : Station) : BitVec 32 :=
  let k := s.link st
  let bits : BitVec 31 :=
    slotMarker ++ s.standing st ++ oneBit s.berth.stopped ++ oneBit s.releasing ++ oneBit s.alarm
      ++ oneBit k.restartInd ++ k.send.byte ++ oneBit k.send.offers ++ oneBit k.recv.takes ++ 0#7
  let even := bits ++ 0#1
  if oddParity even then bits ++ 1#1 else even

/-- The downstream slot of station `st` is composed for the next frame (R147). -/
def State.composeSlot (st : Station) (s : State) : State :=
  let slot := s.compose st
  s.onLink st fun k => { k with downstream := slot }

/-! ### Notices -/

/-- The body of a group's authority notice (R171, R172). -/
def State.groupNotice (s : State) (g : GroupNo) : List Byte := BitVec.ofNat 8 g.val :: recordBytes (s.record g)

/-- The body of a line's notice (R171, R172). -/
def State.lineNotice (s : State) (n : LineNo) : List Byte := BitVec.ofNat 8 n.val :: lineRecordBytes (s.line n)

end Sys2Proof.Machine
end

