-- ==== Sys2Proof/Machine/Resets.lean ====
section
/-! DEFINITION. The setup store and its load (R108 to R111), power-on, the reset input, the restart (R169, R170),
loss of power, and what a loss of presence does (R150, R122). -/

namespace Sys2Proof.Machine

/-! ### Setup store -/

/-- The line setups of a stored image; none where a field of one lies outside its range (R110). -/
def setupsOfImage (img : StoreImage) : Option (Vector LineSetup 8) :=
  match setupOfFields img.setups[0], setupOfFields img.setups[1], setupOfFields img.setups[2],
    setupOfFields img.setups[3], setupOfFields img.setups[4], setupOfFields img.setups[5],
    setupOfFields img.setups[6], setupOfFields img.setups[7] with
  | some a, some b, some c, some d, some e, some f, some g, some h => some #v[a, b, c, d, e, f, g, h]
  | _, _, _, _, _, _, _, _ => none

/-- The image of the setups in force, with its check word (R109). -/
def imageOfSetups (us : Vector LineSetup 8) : StoreImage :=
  let fs : Vector SetupFields 8 :=
    #v[fieldsOfSetup us[0], fieldsOfSetup us[1], fieldsOfSetup us[2], fieldsOfSetup us[3],
       fieldsOfSetup us[4], fieldsOfSetup us[5], fieldsOfSetup us[6], fieldsOfSetup us[7]]
  { setups := fs, check := Config.checkWord fs }

/-- The two checks of a load (R110): the line setups of an image whose every field is in range and whose check word
matches the eight setups; none where either check fails. -/
def checkedSetups (img : StoreImage) : Option (Vector LineSetup 8) :=
  if img.check = Config.checkWord img.setups then setupsOfImage img else none

/-- The load of the line setups (R110): those of the stored image if it passes both checks, else the defaults. -/
def GroupTable.load (t : GroupTable) : GroupTable :=
  match checkedSetups t.store with
  | some us => { t with setups := us, storeState := .current, source := .store }
  | none => { t with setups := defaultSetups, storeState := .stale, source := .default }

/-- What the store holds after a save that is abandoned (R111), from the image before the save, the image being written
and the FREE VALUE drawn (log 11): the image before where nothing was written, the one being written where it was
complete, and else a partly written image, which fails a check of the load.  A draw that is neither of the two and
would pass is given a check word that does not match. -/
def abandonedImage (before written draw : StoreImage) : StoreImage :=
  if draw = before ∨ draw = written ∨ checkedSetups draw = none then draw
  else { draw with check := Config.checkWord draw.setups + 1 }

/-- Profiles and berth settings return to their defaults (R111). -/
def GroupTable.defaults (t : GroupTable) : GroupTable :=
  { t with profiles := defaultProfiles, settings := defaultSettings }

/-- A save in progress is abandoned where it stands (R111): what the store then holds
is a FREE VALUE within the limits of R111 (`abandonedImage`, log 11).  DESIGN CHOICE, unsafe, log 38: the store state is STALE from the abandonment until the next load,
where the event table of R108 and R111 name no change. -/
def State.abandonSave (s : State) : State :=
  match s.table.saveCopy with
  | none => s
  | some img =>
    { s with
      freeIndex := s.freeIndex + 1
      table :=
        { s.table with
          store := abandonedImage s.table.store img (Config.partialImage s.freeIndex s.table.store img)
          saveCopy := none
          storeState := .stale } }

/-! ### Power-on, reset input, loss of power -/

/-- Every block takes its power-on values (R18, R35, R66, R98, R111, R132, R146, R160, R169); the line setups,
the store and the queue of commands are left as they are. -/
def State.powerOnValues (s : State) : State :=
  { s with
    lines := Vector.replicate 8 lineAtPowerOn
    table := s.table.defaults
    records := Vector.replicate 4 emptyRecord
    berth := berthAtReset
    due := []
    links := Vector.replicate 4 linkAtPowerOn
    pendingRestart := [] }

/-- The line setups are loaded (R110).  A hand that the load changes acts on the direction lead at once (log 8). -/
def State.load (s : State) : State := { s with table := s.table.load }

/-- Power-on (R66, R110).  A save still in progress was abandoned by the loss of power that went before. -/
def State.powerOn (s : State) : State := { s.abandonSave.powerOnValues.load with powered := true }

/-- The eight lines at an assertion of the reset input. -/
def State.linesAtAssertion (s : State) : Vector Line 8 :=
  #v[(s.line 0).atAssertion, (s.line 1).atAssertion, (s.line 2).atAssertion, (s.line 3).atAssertion,
    (s.line 4).atAssertion, (s.line 5).atAssertion, (s.line 6).atAssertion, (s.line 7).atAssertion]

/-- The reset input is asserted (R18, R111, R147): a save in progress is abandoned, every block takes its
power-on values, and they are held until the release; the direction leads keep their levels (R15, R16).  Without its
supply the part only finds the input asserted when power returns (log 17). -/
def State.assertReset (s : State) : State :=
  if s.powered then
    { s.abandonSave.powerOnValues with lines := s.linesAtAssertion, resetAsserted := true }
  else { s with resetAsserted := true }

/-- The reset input is released (R110, R147): the line setups are loaded, and the link clock starts.  An input
that is not asserted is not released. -/
def State.releaseReset (s : State) : State :=
  if s.resetAsserted then
    if s.powered then { s.load with resetAsserted := false } else { s with resetAsserted := false }
  else s

/-- A loss of power stops the part and abandons a save in progress (R111). -/
def State.losePower (s : State) : State := { s.abandonSave with powered := false }

/-! ### Restart -/

/-- The line after a restart under the setups loaded at it (R18, R17). -/
def State.restartLine (n : LineNo) (s : State) : State := s.putLine n ((s.line n).atRestart (s.fitted n))

/-- The stations whose slot in a frame lies no later than station `st`'s: the slot they receive in the next frame
has been composed already when a restart falls at `st`'s frame event (R147, log 15). -/
def slotsUpTo (st : Station) : List Station := allStations.filter fun x => Station.index x ≤ Station.index st

/-- The restart (R170), at a frame event of station `st`: every block takes its restart values, the line setups
being loaded first (R110). -/
def State.restartPart (st : Station) (s : State) : State :=
  let s1 := { s with table := { s.table.defaults with saveCopy := none } }.load
  let s2 := allLines.foldl (init := s1) fun s n => s.restartLine n
  let s3 := allStations.foldl (init := s2) fun s x => s.onLink x Link.atRestart
  let s4 :=
    { s3 with
      records := Vector.replicate 4 emptyRecord
      berth := berthAtReset
      due := []
      pendingRestart := [] }
  (slotsUpTo st).foldl (init := s4) fun s x => s.composeSlot x

/-! ### Loss of presence -/

/-- The Link Interface's items of a station that becomes ABSENT (R149, R150): its bad-slot count stands at 64. -/
def Link.lost (k : Link) : Link :=
  { k with
    presence := .absent
    goodCount := 0
    badCount := 64
    stance := .idle
    candidate := none
    incoming := .kind
    recv := .idle
    gap := 0
    outgoing := none
    send := .idle
    replySlot := none
    groupMarks := Vector.replicate 4 false
    lineMarks := Vector.replicate 8 false }

/-- A station becomes ABSENT (R150): its stance returns to IDLE, which is a stance change unless it was IDLE
(R133); its messages, reply and marks go; it leaves the pending restart (R169); and the Arbiter removes it
from every group in ascending order (R122). -/
def State.losePresence (st : Station) (s : State) : State :=
  let before := (s.link st).stance
  let s1 := s.onLink st Link.lost
  let s2 := if before = .idle then s1 else s1.handOver (.stance st before .idle)
  let s3 := { s2 with pendingRestart := s2.pendingRestart.filter (· != st) }
  allGroups.foldl (init := s3) fun s g => s.removeEntry st g

end Sys2Proof.Machine
end

