-- ==== Sys2Proof/Machine/LineCommands.lean ====
section
/-! DEFINITION. Requests in general (R155, R161, R162) and the line commands: the checks each line is taken
through and the effect on a line that takes the command (R43 to R54, R61, R82, R127, R140, R163). -/

namespace Sys2Proof.Machine

/-! ### Taking a request -/

/-- Places a reply in a station's reply slot (R157, R161). -/
def State.placeReply (st : Station) (kind : Byte) (body : List Byte) (s : State) : State :=
  s.onLink st fun k => { k with replySlot := some { kind := kind, body := body } }

/-- A request event of station `st` whose message has the kind and length of its request (R155, R161): an ABSENT
station has none (R122); a message that arrives while the reply slot is occupied, or that is malformed, is
discarded with link error; any other is taken. -/
def State.requestEvent (st : Station) (bodyOk : Bool) (take : State → State) (s : State) : State :=
  if !s.present st then s
  else if (s.link st).replySlot.isSome || !bodyOk then s.latchLinkError st
  else take s

/-- A station's restart indicator is set (R159). -/
def State.restartSet (s : State) (st : Station) : Bool := (s.link st).restartInd

/-! ### Line commands -/

/-- The station may command the line: it is active holder of the line's group (R127). -/
def State.permitted (s : State) (st : Station) (n : LineNo) : Bool := s.holder (s.setup n).group == some st

/-- The lines of a command are taken one after another (R163): each gives the state after it and its outcome. -/
def takeLines (f : LineNo → State → State × ReplyCode) : List LineNo → State → State × List ReplyCode
  | [], s => (s, [])
  | n :: ns, s =>
    let a := f n s
    let b := takeLines f ns a.1
    (b.1, a.2 :: b.2)

/-- An outcome with which a command is taken for a line (R43, R123). -/
def ReplyCode.isTaken : ReplyCode → Bool
  | .done | .noChange => true
  | _ => false

/-- The lines for which a command was taken. -/
def takenLines (ns : List LineNo) (codes : List ReplyCode) : List LineNo :=
  ((ns.zip codes).filter fun x => x.2.isTaken).map (·.1)

/-- A line command (R163): RESTART_PENDING for every line while the restart indicator is set; otherwise each line
in turn, then the watched sets and their test, then the reply.  The permission of every line is that of the record as
it stands at the request event, before the first line is taken, so that no line's outcome depends on another's (R43,
R127; log 35).  DESIGN CHOICE, log 34: a request with line mask 0 from a sender whose restart indicator is set has the
result RESTART_PENDING (R163), not DONE (R162). -/
def State.lineCommand (st : Station) (kind lines : Byte)
    (f : (LineNo → Bool) → LineNo → State → State × ReplyCode) (s : State) : State :=
  let ns := maskLines lines
  if s.restartSet st then
    s.placeReply st kind
      ([ReplyCode.restartPending.code, lines] ++ ns.map fun _ => ReplyCode.restartPending.code)
  else
    let a := takeLines (f (s.permitted st)) ns s
    (a.1.recordWatched st (takenLines ns a.2)).placeReply st kind
      ([ReplyCode.done.code, lines] ++ a.2.map ReplyCode.code)

/-- A line takes a command: its record changes, and the outcome is DONE. -/
def State.doLine (n : LineNo) (f : Line → Line) (s : State) : State × ReplyCode := (s.onLine n f, .done)

/-- DEPLOY of one line (R43, R44). -/
def deployLine (permit : LineNo → Bool) (n : LineNo) (s : State) : State × ReplyCode :=
  let l := s.line n
  if !permit n then (s, .notHolder)
  else if s.berth.stopped then (s, .stopped)
  else if s.berth.releaseAll then (s, .releasing)
  else if !((l.control.state == .stowed || l.control.state == .opened) && l.sense.referenced) then (s, .badState)
  else if (s.setup n).capacity < l.applied.deployLength then (s, .badValue)
  else if l.control.state = .opened ∧ (l.applied.deployLength : Int) ≤ l.sense.payout then (s, .noChange)
  else s.doLine n (Line.enter .deploying { current := some .deploy })

/-- ENGAGE of one line (R43, R45). -/
def engageLine (permit : LineNo → Bool) (n : LineNo) (s : State) : State × ReplyCode :=
  if !permit n then (s, .notHolder)
  else if s.berth.releaseAll then (s, .releasing)
  else if (s.line n).control.state ≠ .opened then (s, .badState)
  else s.doLine n (Line.enter .engaging { current := some .engage })

/-- LOCK of one line (R43, R47). -/
def lockLine (permit : LineNo → Bool) (n : LineNo) (s : State) : State × ReplyCode :=
  let l := s.line n
  if !permit n then (s, .notHolder)
  else if s.berth.releaseAll then (s, .releasing)
  else if l.control.state.tending then (s, .noChange)
  else if l.control.state ≠ .held then (s, .badState)
  else if l.applied.lock ≤ l.tension.reported then s.doLine n fun l => (l.enter .locked {}).setMark
  else if s.berth.stopped then (s, .stopped)
  else if l.protection.inhibit then (s, .inhibited)
  else s.doLine n (Line.enter .hauling { current := some .lock })

/-- HOLD of one line (R43, R50). -/
def holdLine (permit : LineNo → Bool) (n : LineNo) (s : State) : State × ReplyCode :=
  if !permit n then (s, .notHolder)
  else
    match (s.line n).control.state with
    | .locked | .rendering | .recovering | .hauling | .slacking => s.doLine n (Line.enter .held {})
    | .deploying | .rewinding => s.doLine n (Line.enter .opened {})
    | _ => (s, .badState)

/-- MARK of one line (R43, R49, R82). -/
def markLine (permit : LineNo → Bool) (n : LineNo) (s : State) : State × ReplyCode :=
  if !permit n then (s, .notHolder)
  else
    match (s.line n).control.state with
    | .locked | .held => s.doLine n Line.setMark
    | _ => (s, .badState)

/-- RELEASE of one line (R43, R51). -/
def releaseLine (thenRewind : Bool) (permit : LineNo → Bool) (n : LineNo) (s : State) : State × ReplyCode :=
  let l := s.line n
  if !permit n then (s, .notHolder)
  else if s.berth.stopped then (s, .stopped)
  else if s.berth.releaseAll then (s, .releasing)
  else
    match l.control.state with
    | .locked | .rendering | .recovering | .held | .hauling =>
      s.doLine n
        (Line.enter .slacking
          { current := some .release, slackStart := some l.sense.payout, thenRewind := thenRewind })
    | _ => (s, .badState)

/-- REWIND of one line (R43, R54). -/
def rewindLine (permit : LineNo → Bool) (n : LineNo) (s : State) : State × ReplyCode :=
  if !permit n then (s, .notHolder)
  else if s.berth.stopped then (s, .stopped)
  else if s.berth.releaseAll then (s, .releasing)
  else if (s.line n).control.state ≠ .opened then (s, .badState)
  else s.doLine n (Line.goRewind { current := some .rewind })

/-- RESET LINE of one line (R43, R61). -/
def resetLineOne (permit : LineNo → Bool) (n : LineNo) (s : State) : State × ReplyCode :=
  if !permit n then (s, .notHolder)
  else if (s.line n).control.state ≠ .faulted then (s, .badState)
  else s.doLine n (Line.derive (s.fitted n))

/-- QUICK RELEASE of one line (R140). -/
def quickReleaseLine (st : Station) (permit : LineNo → Bool) (n : LineNo) (s : State) : State × ReplyCode :=
  let l := s.line n
  if !(permit n || st == .panel) then (s, .notHolder)
  else if !l.hookClosed then (s, if l.control.state = .opening then .noChange else .badState)
  else if s.berth.queue.contains n then (s, .noChange)
  else (s.appendQueue [n], .done)

end Sys2Proof.Machine
end

