-- ==== Sys2Proof/WellFormed.lean ====
section
/-! DEFINITION. Which commands are well formed: the body checks of the Request Unit (R161), and that each
field of a profile fits the bytes that carry it (R172). -/

namespace Sys2Proof

/-- A group mask names groups only: its upper four bits are clear (R161). -/
def groupMaskOk (mask : Byte) : Bool := mask &&& 0xF0#8 == 0#8

/-- An option byte of CLAIM or RELEASE is 00h or 01h (R161). -/
def optionOk (option : Byte) : Bool := option == 0#8 || option == 1#8

/-- A group number is 0..3 (R161). -/
def groupNoOk (group : Byte) : Bool := group.toNat ≤ 3

/-- A line number is 0..7 (R161). -/
def lineNoOk (line : Byte) : Bool := line.toNat ≤ 7

/-- The count of READ LINES is 1..8 (R161). -/
def countOk (count : Byte) : Bool := 1 ≤ count.toNat && count.toNat ≤ 8

/-- The flag mask of CLEAR FLAGS has bits 10 to 15 clear (R161). -/
def flagMaskOk (mask : BitVec 16) : Bool := mask &&& 0xFC00#16 == 0#16

/-- The indicator mask of CLEAR STATION has bits 2 to 7 clear (R161). -/
def indicatorMaskOk (mask : Byte) : Bool := mask &&& 0xFC#8 == 0#8

/-- Each field fits the bits that WRITE PROFILE gives it (R172): a byte, twelve packed bits or two bytes. -/
def Profile.fits (p : Profile) : Bool :=
  [p.filterShift, p.deploySpeed, p.haulSpeed, p.recoverSpeed, p.slackSpeed, p.rewindSpeed].all (· < 256)
    && [p.lock, p.recover, p.hold, p.render, p.warn, p.trip, p.snag, p.slack].all (· < 4096)
    && [p.renderDwell, p.recoverDwell, p.warnDwell, p.tripDwell, p.slackDwell, p.allowance, p.slackLength,
        p.deployLength, p.hookTime, p.stallWindow].all (· < 65536)

/-- The body checks of R161.  A request that fails them is malformed; every other command has none. -/
def Instr.bodyOk : Instr → Bool
  | .claim _ groups option => groupMaskOk groups && optionOk option
  | .yieldGroups _ groups => groupMaskOk groups
  | .release _ _ option => optionOk option
  | .readLines _ first count => lineNoOk first && countOk count
  | .readGroup _ group => groupNoOk group
  | .readSetup _ line => lineNoOk line
  | .clearFlags _ _ flags => flagMaskOk flags
  | .clearStation _ indicators => indicatorMaskOk indicators
  | .writeProfile _ group _ => groupNoOk group
  | .writeLineSetup _ line _ => lineNoOk line
  | .sampleEvent .. | .countEvent .. | .frameEvent .. | .powerOn | .resetInputAssert | .resetInputRelease
  | .query _ | .deploy .. | .engage .. | .lock .. | .hold .. | .mark .. | .rewind .. | .quickRelease ..
  | .resetLine .. | .writeBerth .. | .saveSetup _ | .restart _ | .deviceRestart _ | .storeCompletion _
  | .staggerExpiry | .hookTimerExpiry _ | .stallExpiry _ | .derivation _ | .gapAbort _ | .presenceLoss _
  | .stanceChange _ | .stopOnset _ | .holderChangeHalt _ | .inhibitOnset _ | .inhibitLift _ | .queueTake
  | .powerLoss => true

/-- Each numeric field fits the bytes that carry it. -/
def Instr.fieldsFit : Instr → Bool
  | .writeProfile _ _ p => p.fits
  | .sampleEvent .. | .countEvent .. | .frameEvent .. | .powerOn | .resetInputAssert | .resetInputRelease
  | .claim .. | .yieldGroups .. | .query _ | .deploy .. | .engage .. | .lock .. | .hold .. | .mark ..
  | .release .. | .rewind .. | .quickRelease .. | .resetLine .. | .readLines .. | .readGroup .. | .readSetup ..
  | .clearFlags .. | .clearStation .. | .writeBerth .. | .writeLineSetup .. | .saveSetup _ | .restart _
  | .deviceRestart _ | .storeCompletion _ | .staggerExpiry | .hookTimerExpiry _ | .stallExpiry _ | .derivation _
  | .gapAbort _ | .presenceLoss _ | .stanceChange _ | .stopOnset _ | .holderChangeHalt _ | .inhibitOnset _
  | .inhibitLift _ | .queueTake | .powerLoss => true

/-- A well-formed command. -/
def WellFormed (i : Instr) : Bool := i.bodyOk && i.fieldsFit

end Sys2Proof
end

