-- ==== Sys2Proof/Machine/Requests.lean ====
section
/-! DEFINITION. The requests that are no line commands, as the Request Unit takes them: authority (R115 to R118,
R126), reads (R164, R165), clears (R166, R167), writes (R101, R104 to R107, R109) and RESTART (R169). -/

namespace Sys2Proof.Machine

/-! ### Authority requests -/

/-- CLAIM takes one group (R115, R116). -/
def claimGroup (st : Station) (single : Bool) (g : GroupNo) (s : State) : State × ReplyCode :=
  let c := claimed s.table.settings.vesselLead st single (s.record g)
  (s.setRecord g c.1, c.2)

/-- YIELD takes one group (R117). -/
def yieldGroup (st : Station) (g : GroupNo) (s : State) : State × ReplyCode :=
  if ((s.record g).entry st).isSome then (s.removeEntry st g, .done) else (s, .noChange)

/-- The groups of a request are taken one after another (R115, R117). -/
def takeGroups (f : GroupNo → State → State × ReplyCode) : List GroupNo → State → State × List ReplyCode
  | [], s => (s, [])
  | g :: gs, s =>
    let a := f g s
    let b := takeGroups f gs a.1
    (b.1, a.2 :: b.2)

/-- CLAIM (R115, R162). -/
def takeClaim (st : Station) (groups option : Byte) (s : State) : State :=
  let a := takeGroups (claimGroup st (option == 1#8)) (maskGroups groups) s
  a.1.placeReply st 0x10#8 ([ReplyCode.done.code, groups] ++ a.2.map ReplyCode.code)

/-- The groups that a YIELD names: those of its mask, or for mask 0 those that the station actively holds
(R117, R118). -/
def yieldNames (s : State) (st : Station) (groups : Byte) : List GroupNo :=
  if groups = 0#8 then allGroups.filter fun g => s.holder g == some st else maskGroups groups

/-- YIELD (R117, R118, R162). -/
def takeYield (st : Station) (groups : Byte) (s : State) : State :=
  let gs := yieldNames s st groups
  let a := takeGroups (yieldGroup st) gs s
  a.1.placeReply st 0x11#8 ([ReplyCode.done.code, groupsMask gs] ++ a.2.map ReplyCode.code)

/-- QUERY (R126). -/
def takeQuery (st : Station) (s : State) : State :=
  s.placeReply st 0x12#8 (ReplyCode.done.code :: allGroups.flatMap fun g => recordBytes (s.record g))

/-! ### Reads -/

/-- The lines that READ LINES names: `count` lines from `first`, wrapping from line 7 to line 0 (R164). -/
def readNames (first count : Nat) : List LineNo :=
  (List.range count).map fun i => ⟨(first + i) % 8, Nat.mod_lt _ (by decide)⟩

/-- READ LINES (R164). -/
def takeReadLines (st : Station) (first count : Byte) (s : State) : State :=
  s.placeReply st 0x30#8
    ([ReplyCode.done.code, first, count]
      ++ (readNames first.toNat count.toNat).flatMap fun n => lineRecordBytes (s.line n))

/-- READ GROUP (R165). -/
def takeReadGroup (st : Station) (group : Byte) (s : State) : State :=
  let g := groupOf group
  s.placeReply st 0x31#8
    ([ReplyCode.done.code, group] ++ encodeProfile (s.profile g) ++ [linesMask (s.groupLines g)]
      ++ bytesOfSettings s.table.settings ++ recordBytes (s.record g))

/-- READ SETUP (R165). -/
def takeReadSetup (st : Station) (line : Byte) (s : State) : State :=
  s.placeReply st 0x32#8
    ([ReplyCode.done.code, line] ++ encodeSetup (fieldsOfSetup (s.setup (lineOf line)))
      ++ [s.table.storeState.code, s.table.source.code])

/-! ### Clears -/

/-- The effect of clearing WARN or TRIP on a line's Protection Unit and command record (R95, R97): the trip watch
returns to 0, and a clear of TRIP discards trip deferred. -/
def Line.afterClear (tripCleared : Bool) (l : Line) : Line :=
  { l with
    protection := { l.protection with tripWatch := 0 }
    control :=
      { l.control with
        record :=
          { l.control.record with tripDeferred := if tripCleared then false else l.control.record.tripDeferred } } }

/-- CLEAR FLAGS takes one line (R128, R166): the outcome, and the flag word before the clear. -/
def clearLine (st : Station) (flags : BitVec 16) (n : LineNo) (s : State) : State × ReplyCode × BitVec 10 :=
  let l := s.line n
  let word := l.control.flags
  let named := word &&& flags.truncate 10
  if !(s.permitted st n || st == .panel) then (s, .notHolder, word)
  else if named = 0#10 then (s, .noChange, word)
  else
    let s1 := s.putLine n (l.clear named)
    if flagSet named .warn || flagSet named .trip then
      ((s1.putLine n ((s1.line n).afterClear (flagSet named .trip))).reevaluateInhibits none, .done, word)
    else (s1, .done, word)

/-- The lines of CLEAR FLAGS are taken one after another (R166). -/
def clearLines (st : Station) (flags : BitVec 16) :
    List LineNo → State → State × List (ReplyCode × BitVec 10)
  | [], s => (s, [])
  | n :: ns, s =>
    let a := clearLine st flags n s
    let b := clearLines st flags ns a.1
    (b.1, a.2 :: b.2)

/-- CLEAR FLAGS (R166). -/
def takeClearFlags (st : Station) (lines : Byte) (flags : BitVec 16) (s : State) : State :=
  let a := clearLines st flags (maskLines lines) s
  a.1.placeReply st 0x40#8
    ([ReplyCode.done.code, lines] ++ a.2.flatMap fun x => ReplyCode.code x.1 :: flagBytes x.2)

/-- CLEAR STATION (R167). -/
def takeClearStation (st : Station) (indicators : Byte) (s : State) : State :=
  let k := s.link st
  let s1 := s.onLink st fun k =>
    { k with
      linkError := k.linkError && !indicators.getLsbD 0
      restartInd := k.restartInd && !indicators.getLsbD 1 }
  s1.placeReply st 0x41#8 [ReplyCode.done.code, bit k.linkError 0 ||| bit k.restartInd 1]

/-! ### Writes -/

/-- A reply that carries an outcome alone (R162). -/
def State.answer (st : Station) (kind : Byte) (c : ReplyCode) (s : State) : State :=
  s.placeReply st kind [c.code]

/-- A taken WRITE PROFILE (R101, R102): the group's profile is replaced, and each fitted line of the group is to
apply it at its next sample event. -/
def State.writeProfile (g : GroupNo) (p : Profile) (s : State) : State :=
  let s1 := { s with table := { s.table with profiles := s.table.profiles.set g p } }
  (s.groupLines g).foldl (init := s1) fun s n => s.putLine n { s.line n with profileDue := true }

/-- WRITE PROFILE (R101). -/
def takeWriteProfile (st : Station) (group : Byte) (p : Profile) (s : State) : State :=
  let g := groupOf group
  if s.restartSet st then s.answer st 0x50#8 .restartPending
  else if s.holder g != some st then s.answer st 0x50#8 .notHolder
  else if !profileValid p then s.answer st 0x50#8 .badValue
  else (s.writeProfile g p).answer st 0x50#8 .done

/-- The station is active holder of every group that has a fitted line (R106). -/
def State.holdsAllFitted (s : State) (st : Station) : Bool :=
  allGroups.all fun g => (s.groupLines g).isEmpty || s.holder g == some st

/-- A taken WRITE BERTH (R106, R107): the settings are replaced; a change of scope re-evaluates the inhibits, and a
change of vessel-lead every group. -/
def State.writeBerth (b : BerthSettings) (s : State) : State :=
  let old := s.table.settings
  let s1 := { s with table := { s.table with settings := b } }
  let s2 := if old.scope = b.scope then s1 else s1.reevaluateInhibits none
  if old.vesselLead = b.vesselLead then s2 else s2.reevaluateAll

/-- WRITE BERTH (R106). -/
def takeWriteBerth (st : Station) (scope stagger lead : Byte) (s : State) : State :=
  if s.restartSet st then s.answer st 0x51#8 .restartPending
  else if !s.holdsAllFitted st then s.answer st 0x51#8 .notHolder
  else
    match settingsOfBytes scope stagger lead with
    | none => s.answer st 0x51#8 .badValue
    | some b => (s.writeBerth b).answer st 0x51#8 .done

/-- A line made not fitted (R17, R34, R42, R96). -/
def Line.unfit (l : Line) : Line :=
  let l' := l.enter .notFitted {}
  { l' with
    sense := { senseAtPowerOn with heaving := l'.sense.heaving }
    tension := tensionAtReset
    protection := { l'.protection with warnWatch := 0, tripWatch := 0 }
    control := { l'.control with lockMark := none }
    profileDue := false
    joined := none }

/-- A line made fitted (R17, R34, R40, R102): it starts as after a reset, with its group's profile. -/
def Line.fit (p : Profile) (l : Line) : Line :=
  let l' := { l with applied := p, profileDue := false, joined := none }.enter .starting {}
  { l' with sense := { senseAtPowerOn with heaving := l'.sense.heaving } }

/-- The setup write acts on the line (R105): the fitted field first, then a change of group, by which the line takes
the new group's profile `p` and uses it from its next sample event.  A write for the old group that still waits is
dropped (log 23). -/
def Line.takeSetup (old new : LineSetup) (p : Profile) (l : Line) : Line :=
  let l1 :=
    if old.fitted && !new.fitted then l.unfit
    else if !old.fitted && new.fitted then l.fit p
    else l
  if old.group = new.group then l1 else { l1 with joined := some p, profileDue := false }

/-- A taken WRITE LINE SETUP (R104, R105, R108).  DESIGN CHOICE, unsafe, log 33: a write that fits a line still in
STARTING leaves its state STARTING, so no change of state marks its notice, although R105 speaks of one for every
change of fitted. -/
def State.writeSetup (n : LineNo) (u : LineSetup) (s : State) : State :=
  let old := s.setup n
  let s1 :=
    { s with
      table :=
        { s.table with
          setups := s.table.setups.set n u
          storeState := if s.table.storeState = StoreState.current then StoreState.stale else s.table.storeState } }
  let s2 := s1.onLine n (Line.takeSetup old u (s.profile u.group))
  if old.fitted = u.fitted ∧ old.group = u.group then s2 else s2.reevaluateInhibits none

/-- The line may have its setup written (R104, check 5): STOWED, NOT_FITTED, or STARTING under a setup that says
not fitted. -/
def State.setupWritable (s : State) (n : LineNo) : Bool :=
  let x := (s.line n).control.state
  x == .stowed || x == .notFitted || (x == .starting && !s.fitted n)

/-- WRITE LINE SETUP (R104). -/
def takeWriteLineSetup (st : Station) (line : Byte) (f : SetupFields) (s : State) : State :=
  let n := lineOf line
  let heldNew := if h : f.group.toNat < 4 then s.holder ⟨f.group.toNat, h⟩ == some st else true
  if s.restartSet st then s.answer st 0x52#8 .restartPending
  else if st != .service then s.answer st 0x52#8 .notPermitted
  else if !(s.holder (s.setup n).group == some st && heldNew) then s.answer st 0x52#8 .notHolder
  else if s.table.storeState = .saving then s.answer st 0x52#8 .busy
  else if !s.setupWritable n then s.answer st 0x52#8 .badState
  else
    match setupOfFields f with
    | none => s.answer st 0x52#8 .badValue
    | some u => (s.writeSetup n u).answer st 0x52#8 .done

/-- A taken SAVE SETUP starts the save (R109). -/
def State.startSave (s : State) : State :=
  { s with table := { s.table with saveCopy := some (imageOfSetups s.table.setups), storeState := .saving } }

/-- SAVE SETUP (R109, R169). -/
def takeSaveSetup (st : Station) (s : State) : State :=
  if s.restartSet st then s.answer st 0x53#8 .restartPending
  else if st != .service then s.answer st 0x53#8 .notPermitted
  else if s.table.storeState = .saving ∨ s.pendingRestart ≠ [] then s.answer st 0x53#8 .busy
  else s.startSave.answer st 0x53#8 .done

/-- The end of a save (R109): the image read back is compared with the copy taken at the start.  `readBack` is the
image that the store then holds where it is not the one written. -/
def State.completeSave (readBack : Option StoreImage) (s : State) : State :=
  match s.table.saveCopy with
  | none => s
  | some img =>
    { s with
      table :=
        { s.table with
          store := readBack.getD img
          saveCopy := none
          storeState := if readBack.all (· == img) then StoreState.current else StoreState.stale } }

/-! ### Restart -/

/-- RESTART (R169). -/
def takeRestart (st : Station) (s : State) : State :=
  if !(st == .panel || st == .service) then s.answer st 0x60#8 .notPermitted
  else if !s.berth.queue.isEmpty || s.table.storeState == .saving then s.answer st 0x60#8 .busy
  else
    { s with
      pendingRestart := if s.pendingRestart.contains st then s.pendingRestart else s.pendingRestart ++ [st] }.answer
      st 0x60#8 .done

end Sys2Proof.Machine
end

