-- ==== Sys2Proof/Machine/RequestEvents.lean ====
section
/-! DEFINITION. The request events (R154, R161): one for each request kind, from the message that has passed the
tests of its kind and length to the reply in the reply slot; and the choice among them for a decoded message. -/

namespace Sys2Proof.Machine

/-- The request event of CLAIM (R115, R116). -/
def claimEvent (st : Station) (groups option : Byte) (s : State) : State :=
  s.requestEvent st (Instr.bodyOk (.claim st groups option)) (takeClaim st groups option)

/-- The request event of YIELD (R117, R118). -/
def yieldEvent (st : Station) (groups : Byte) (s : State) : State :=
  s.requestEvent st (Instr.bodyOk (.yieldGroups st groups)) (takeYield st groups)

/-- The request event of QUERY (R126). -/
def queryEvent (st : Station) (s : State) : State :=
  s.requestEvent st (Instr.bodyOk (.query st)) (takeQuery st)

/-- The request event of DEPLOY (R44, R163). -/
def deployEvent (st : Station) (lines : Byte) (s : State) : State :=
  s.requestEvent st (Instr.bodyOk (.deploy st lines)) (State.lineCommand st 0x20#8 lines deployLine)

/-- The request event of ENGAGE (R45, R163). -/
def engageEvent (st : Station) (lines : Byte) (s : State) : State :=
  s.requestEvent st (Instr.bodyOk (.engage st lines)) (State.lineCommand st 0x21#8 lines engageLine)

/-- The request event of LOCK (R47, R163). -/
def lockEvent (st : Station) (lines : Byte) (s : State) : State :=
  s.requestEvent st (Instr.bodyOk (.lock st lines)) (State.lineCommand st 0x22#8 lines lockLine)

/-- The request event of HOLD (R50, R163). -/
def holdEvent (st : Station) (lines : Byte) (s : State) : State :=
  s.requestEvent st (Instr.bodyOk (.hold st lines)) (State.lineCommand st 0x23#8 lines holdLine)

/-- The request event of MARK (R49, R82, R163). -/
def markEvent (st : Station) (lines : Byte) (s : State) : State :=
  s.requestEvent st (Instr.bodyOk (.mark st lines)) (State.lineCommand st 0x24#8 lines markLine)

/-- The request event of REWIND (R54, R163). -/
def rewindEvent (st : Station) (lines : Byte) (s : State) : State :=
  s.requestEvent st (Instr.bodyOk (.rewind st lines)) (State.lineCommand st 0x26#8 lines rewindLine)

/-- The request event of QUICK RELEASE (R140, R163). -/
def quickReleaseEvent (st : Station) (lines : Byte) (s : State) : State :=
  s.requestEvent st (Instr.bodyOk (.quickRelease st lines)) (State.lineCommand st 0x27#8 lines (quickReleaseLine st))

/-- The request event of RESET LINE (R61, R163). -/
def resetLineEvent (st : Station) (lines : Byte) (s : State) : State :=
  s.requestEvent st (Instr.bodyOk (.resetLine st lines)) (State.lineCommand st 0x28#8 lines resetLineOne)

/-- The request event of RELEASE (R51, R163). -/
def releaseEvent (st : Station) (lines option : Byte) (s : State) : State :=
  s.requestEvent st (Instr.bodyOk (.release st lines option)) (State.lineCommand st 0x25#8 lines (releaseLine (option == 1#8)))

/-- The request event of READ LINES (R164). -/
def readLinesEvent (st : Station) (first count : Byte) (s : State) : State :=
  s.requestEvent st (Instr.bodyOk (.readLines st first count)) (takeReadLines st first count)

/-- The request event of READ GROUP (R165). -/
def readGroupEvent (st : Station) (group : Byte) (s : State) : State :=
  s.requestEvent st (Instr.bodyOk (.readGroup st group)) (takeReadGroup st group)

/-- The request event of READ SETUP (R165). -/
def readSetupEvent (st : Station) (line : Byte) (s : State) : State :=
  s.requestEvent st (Instr.bodyOk (.readSetup st line)) (takeReadSetup st line)

/-- The request event of CLEAR FLAGS (R166). -/
def clearFlagsEvent (st : Station) (lines : Byte) (flags : BitVec 16) (s : State) : State :=
  s.requestEvent st (Instr.bodyOk (.clearFlags st lines flags)) (takeClearFlags st lines flags)

/-- The request event of CLEAR STATION (R167). -/
def clearStationEvent (st : Station) (indicators : Byte) (s : State) : State :=
  s.requestEvent st (Instr.bodyOk (.clearStation st indicators)) (takeClearStation st indicators)

/-- The request event of WRITE PROFILE (R101). -/
def writeProfileEvent (st : Station) (group : Byte) (p : Profile) (s : State) : State :=
  s.requestEvent st (Instr.bodyOk (.writeProfile st group p)) (takeWriteProfile st group p)

/-- The request event of WRITE BERTH (R106). -/
def writeBerthEvent (st : Station) (scope stagger lead : Byte) (s : State) : State :=
  s.requestEvent st (Instr.bodyOk (.writeBerth st scope stagger lead)) (takeWriteBerth st scope stagger lead)

/-- The request event of WRITE LINE SETUP (R104). -/
def writeLineSetupEvent (st : Station) (line : Byte) (f : SetupFields) (s : State) : State :=
  s.requestEvent st (Instr.bodyOk (.writeLineSetup st line f)) (takeWriteLineSetup st line f)

/-- The request event of SAVE SETUP (R109). -/
def saveSetupEvent (st : Station) (s : State) : State :=
  s.requestEvent st (Instr.bodyOk (.saveSetup st)) (takeSaveSetup st)

/-- The request event of RESTART (R169). -/
def restartEvent (st : Station) (s : State) : State :=
  s.requestEvent st (Instr.bodyOk (.restart st)) (takeRestart st)

/-- The request event of a request command; the other commands have none. -/
def dispatchRequest (i : Instr) (s : State) : State :=
  match i with
  | .claim st groups option => claimEvent st groups option s
  | .yieldGroups st groups => yieldEvent st groups s
  | .query st => queryEvent st s
  | .deploy st lines => deployEvent st lines s
  | .engage st lines => engageEvent st lines s
  | .lock st lines => lockEvent st lines s
  | .hold st lines => holdEvent st lines s
  | .mark st lines => markEvent st lines s
  | .rewind st lines => rewindEvent st lines s
  | .quickRelease st lines => quickReleaseEvent st lines s
  | .resetLine st lines => resetLineEvent st lines s
  | .release st lines option => releaseEvent st lines option s
  | .readLines st first count => readLinesEvent st first count s
  | .readGroup st group => readGroupEvent st group s
  | .readSetup st line => readSetupEvent st line s
  | .clearFlags st lines flags => clearFlagsEvent st lines flags s
  | .clearStation st indicators => clearStationEvent st indicators s
  | .writeProfile st group p => writeProfileEvent st group p s
  | .writeBerth st scope stagger lead => writeBerthEvent st scope stagger lead s
  | .writeLineSetup st line f => writeLineSetupEvent st line f s
  | .saveSetup st => saveSetupEvent st s
  | .restart st => restartEvent st s
  | .sampleEvent .. | .countEvent .. | .frameEvent .. | .powerOn | .resetInputAssert | .resetInputRelease
  | .deviceRestart _ | .storeCompletion _ | .staggerExpiry | .hookTimerExpiry _ | .stallExpiry _ | .derivation _
  | .gapAbort _ | .presenceLoss _ | .stanceChange _ | .stopOnset _ | .holderChangeHalt _ | .inhibitOnset _
  | .inhibitLift _ | .queueTake | .powerLoss => s

end Sys2Proof.Machine
end

