-- ==== Sys2Proof/Machine/Link.lean ====
section
/-! DEFINITION. The Link Interface (spec/09): the frame event of a station, stage by stage. -/

namespace Sys2Proof.Machine

/-! ### Presence -/

/-- A station that becomes PRESENT (R149, R151): its good-slot count stands at 4, every notice is marked for it, and its
lanes start anew. -/
def Link.gained (k : Link) : Link :=
  { k with
    presence := .present
    goodCount := 4
    badCount := 0
    groupMarks := Vector.replicate 4 true
    lineMarks := Vector.replicate 8 true
    recv := .idle
    incoming := .kind
    gap := 0
    send := .awaitingClear
    outgoing := none
    replySlot := none
    candidate := none
    stance := .idle }

/-- Presence is decided by the slot received, good or bad (R149). -/
def State.presenceStep (st : Station) (good : Bool) (s : State) : State :=
  let k := s.link st
  match k.presence, good with
  | .absent, true =>
    if 4 ≤ k.goodCount + 1 then s.onLink st Link.gained
    else s.onLink st fun k => { k with goodCount := k.goodCount + 1 }
  | .absent, false => s.onLink st fun k => { k with goodCount := 0 }
  | .present, true => s.onLink st fun k => { k with badCount := 0 }
  | .present, false =>
    if 64 ≤ k.badCount + 1 then s.losePresence st
    else s.onLink st fun k => { k with badCount := k.badCount + 1 }

/-! ### Stance -/

/-- The stance of a code; none for an unknown code (R172). -/
def stanceOf (code : BitVec 4) : Option Stance :=
  if code = 0b0110#4 then some .idle
  else if code = 0b1001#4 then some .stop
  else if code = 0b1100#4 then some .releaseAll
  else none

/-- The stance code of a good slot is read (R152). -/
def State.stanceStep (st : Station) (code : BitVec 4) (s : State) : State :=
  let k := s.link st
  let s1 := s.onLink st fun k => { k with candidate := some code }
  match stanceOf code with
  | none => s1.latchLinkError st
  | some x =>
    if k.candidate = some code ∧ x ≠ k.stance then
      (s1.onLink st fun k => { k with stance := x }).handOver (.stance st k.stance x)
    else s1

/-! ### Receiving -/

/-- One step of the receive lane (R153): the lane after it, and the byte latched, if any. -/
def recvStep (offer : Bool) (b : Byte) : RecvLane → RecvLane × Option Byte
  | .idle => if offer then (.oneLook b, none) else (.idle, none)
  | .oneLook c => if offer then (if b = c then (.taken, some b) else (.oneLook b, none)) else (.idle, none)
  | .taken => if offer then (.taken, none) else (.idle, none)

/-- A completed message is tested (R155) and, where it passes, handed to the Request Unit (R161).  The reply
slot is tested by the request event itself. -/
def State.messageComplete (st : Station) (kind : Byte) (length : Nat) (bytes : List Byte) (s : State) : State :=
  let all := kind :: BitVec.ofNat 8 length :: bytes
  if all.all (· == 0x00#8) || all.all (· == 0xFF#8) then s.latchLinkError st
  else
    match decodeRequest st kind bytes with
    | none => s.latchLinkError st
    | some i => dispatchRequest i s

/-- Sets the incoming message of a station. -/
def State.setIncoming (st : Station) (m : Incoming) (s : State) : State :=
  s.onLink st fun k => { k with incoming := m }

/-- A latched byte is taken into the incoming message (R154). -/
def State.takeByte (st : Station) (b : Byte) (s : State) : State :=
  let s0 := s.onLink st fun k => { k with gap := 0 }
  match (s.link st).incoming with
  | .kind => s0.setIncoming st (.length b)
  | .length kind =>
    if 40 < b.toNat then (s0.setIncoming st .kind).latchLinkError st
    else if b = 0#8 then (s0.setIncoming st .kind).messageComplete st kind 0 []
    else s0.setIncoming st (.body kind b.toNat b.toNat [])
  | .body kind length remaining bytes =>
    if remaining ≤ 1 then (s0.setIncoming st .kind).messageComplete st kind length (bytes ++ [b])
    else s0.setIncoming st (.body kind length (remaining - 1) (bytes ++ [b]))

/-- The gap abort (R154): the part-received message is discarded and link error latches. -/
def State.abortGap (st : Station) (s : State) : State :=
  s.onLink st fun k => { k with incoming := .kind, gap := 0, linkError := true }

/-- A frame event of a PRESENT station at which no byte is latched (R154): the gap count of a part-received message
advances, and at 32 the message is aborted. -/
def State.gapStep (st : Station) (s : State) : State :=
  let k := s.link st
  if k.incoming = .kind then s
  else if 32 ≤ k.gap + 1 then s.abortGap st
  else s.onLink st fun k => { k with gap := k.gap + 1 }

/-- The receive lane takes a good slot (R153, R154). -/
def State.receiveStep (st : Station) (offer : Bool) (b : Byte) (s : State) : State :=
  let r := recvStep offer b (s.link st).recv
  let s1 := s.onLink st fun k => { k with recv := r.1 }
  match r.2 with
  | some x => s1.takeByte st x
  | none => s1.gapStep st

/-! ### Sending -/

/-- The last byte of the message in transfer is taken (R156): the lane completion.  That of a reply empties the
reply slot; that of a RESTART reply in the pending restart restarts the part (R170). -/
def State.laneCompletion (st : Station) (isReply : Bool) (s : State) : State :=
  let s1 := s.onLink st fun k =>
    { k with send := .awaitingClear, outgoing := none, replySlot := if isReply then none else k.replySlot }
  if isReply && s.pendingRestart.contains st then s1.restartPart st else s1

/-- The send lane takes a good slot's take bit (R156). -/
def State.sendStep (st : Station) (take : Bool) (s : State) : State :=
  let k := s.link st
  match k.send with
  | .idle => s
  | .offering _ =>
    if take then
      match k.outgoing with
      | some o =>
        if o.next < o.bytes.length then s.onLink st fun k => { k with send := .awaitingClear }
        else s.laneCompletion st o.isReply
      | none => s.onLink st fun k => { k with send := .awaitingClear }
    else s
  | .awaitingClear =>
    if take then s
    else
      match k.outgoing with
      | some o =>
        match o.bytes[o.next]? with
        | some b =>
          s.onLink st fun k => { k with send := .offering b, outgoing := some { o with next := o.next + 1 } }
        | none => s.onLink st fun k => { k with send := .idle }
      | none => s.onLink st fun k => { k with send := .idle }

/-- A message to a station: the status header, a kind byte, a body length byte and the body (R172). -/
def State.message (s : State) (st : Station) (kind : Byte) (body : List Byte) : List Byte :=
  s.header st :: kind :: BitVec.ofNat 8 body.length :: body

/-- A transfer begins with a message (R157): its first byte is offered. -/
def State.offerMessage (st : Station) (bytes : List Byte) (isReply : Bool) (s : State) : State :=
  s.onLink st fun k =>
    { k with
      send := .offering (bytes.headD 0#8)
      outgoing := some { bytes := bytes, next := 1, isReply := isReply } }

/-- A transfer begins where there is something to send (R157): the reply, else the authority notice of the lowest
group marked, else the line notice of the lowest line marked. -/
def State.beginTransfer (st : Station) (s : State) : State :=
  let k := s.link st
  match k.replySlot with
  | some r => s.offerMessage st (s.message st r.kind r.body) true
  | none =>
    match allGroups.find? fun g => k.groupMarks[g] with
    | some g =>
      (s.onLink st fun k => { k with groupMarks := k.groupMarks.set g false }).offerMessage st
        (s.message st authorityNoticeKind (s.groupNotice g)) false
    | none =>
      match allLines.find? fun n => k.lineMarks[n] with
      | some n =>
        (s.onLink st fun k => { k with lineMarks := k.lineMarks.set n false }).offerMessage st
          (s.message st lineNoticeKind (s.lineNotice n)) false
      | none => s

/-! ### The frame event -/

/-- The stance code of an upstream slot (R172). -/
def slotStance (slot : BitVec 32) : BitVec 4 := slot.extractLsb' 22 4

/-- The lane byte of an upstream slot (R172). -/
def slotByte (slot : BitVec 32) : Byte := slot.extractLsb' 14 8

/-- The offer bit of an upstream slot (R172). -/
def slotOffer (slot : BitVec 32) : Bool := slot.getLsbD 13

/-- The take bit of an upstream slot (R172). -/
def slotTake (slot : BitVec 32) : Bool := slot.getLsbD 12

/-- The content of a good slot of a PRESENT station is used (R152 to R157).  A transfer begins only where the send
lane was IDLE before the step of R156, and, for a reply placed at this very slot, at a later one (R157,
log 14). -/
def State.contentStep (st : Station) (slot : BitVec 32) (s : State) : State :=
  let s1 := s.stanceStep st (slotStance slot)
  let s2 := s1.receiveStep st (slotOffer slot) (slotByte slot)
  let placed := (s1.link st).replySlot.isNone && (s2.link st).replySlot.isSome
  if (s2.link st).send = .idle then
    if placed then s2 else s2.beginTransfer st
  else s2.sendStep st (slotTake slot)

/-- The frame event of a station (R147 to R157): the slot received is taken, and the next one composed. -/
def State.frameEvent (st : Station) (slot : BitVec 32) (s : State) : State :=
  let s1 := s.presenceStep st (slotGood slot)
  let s2 :=
    if s1.present st then (if slotGood slot then s1.contentStep st slot else s1.gapStep st) else s1
  s2.composeSlot st

end Sys2Proof.Machine
end

