-- ==== Sys2Proof/Machine/LineEvents.lean ====
section
/-! DEFINITION. The meanings of the events of one line: its samples, counts, expiries and derivation, and the
events that other blocks have handed to it. -/

namespace Sys2Proof.Machine

/-- An event of the running part.  While the supply is absent or the reset input is asserted the part has no
such event (R18, R111, R147) and nothing changes (log 6). -/
def whileRunning (f : State → State) (s : State) : Host.Outcome State Fault Refusal :=
  .next (if s.running then f s else s)

/-- An event that was handed over and is still to be taken, taken with its effect `f`.  One that was not handed
over does not arise, and nothing changes (log 5). -/
def State.takeHanded (e : DueEvent) (f : State → State) (s : State) : State :=
  if s.due.contains e then f (s.takeDue e) else s

/-- SAMPLE_EVENT (R1). -/
def execSampleEvent (n : LineNo) (sample : BitVec 12) (pins : SwitchPins) (s : State) :
    Host.Outcome State Fault Refusal :=
  whileRunning (State.sampleEvent n sample pins) s

/-- COUNT_EVENT (R10). -/
def execCountEvent (n : LineNo) (step : EncoderStep) (s : State) : Host.Outcome State Fault Refusal :=
  whileRunning (State.countEvent n step) s

/-- HOOK_TIMER_EXPIRY (R55). -/
def execHookTimerExpiry (n : LineNo) (s : State) : Host.Outcome State Fault Refusal :=
  whileRunning (State.onLine n Line.hookExpire) s

/-- STALL_EXPIRY (R56), as an event of its own (log 3). -/
def execStallExpiry (n : LineNo) (s : State) : Host.Outcome State Fault Refusal :=
  whileRunning (State.onLine n Line.stallExpire) s

/-- Derivation of a line in STARTING (R40, R41). -/
def Line.deriveStarting (fitted : Bool) (l : Line) : Line :=
  if l.control.state = .starting then l.derive fitted else l

/-- DERIVATION (R41), as an event of its own (log 3). -/
def execDerivation (n : LineNo) (s : State) : Host.Outcome State Fault Refusal :=
  whileRunning (fun s => s.onLine n (Line.deriveStarting (s.fitted n))) s

/-- STOP_ONSET of one line (R63, R135). -/
def execStopOnset (n : LineNo) (s : State) : Host.Outcome State Fault Refusal :=
  whileRunning (State.takeHanded (.stopOnset n) (State.onLine n Line.stopOnset)) s

/-- HOLDER_CHANGE_HALT of one line (R62, R120). -/
def execHolderChangeHalt (n : LineNo) (s : State) : Host.Outcome State Fault Refusal :=
  whileRunning (State.takeHanded (.halt n) (State.onLine n Line.halt)) s

/-- INHIBIT_ONSET of one line (R93). -/
def execInhibitOnset (n : LineNo) (s : State) : Host.Outcome State Fault Refusal :=
  whileRunning (State.takeHanded (.inhibitOnset n) (State.onLine n Line.inhibitOnset)) s

/-- INHIBIT_LIFT of one line (R94): the event is taken and no line state changes. -/
def execInhibitLift (n : LineNo) (s : State) : Host.Outcome State Fault Refusal :=
  whileRunning (State.takeHanded (.inhibitLift n) id) s

end Sys2Proof.Machine
end

