-- ==== Sys2Proof/Machine/RequestMeanings.lean ====
section
/-! DEFINITION. The meanings of the requests: each is the request event of a message that has come in with the kind
and the length of its request (R154, R155, R161; log 2). -/

namespace Sys2Proof.Machine

/-- CLAIM (R115). -/
def execClaim (st : Station) (groups option : Byte) (s : State) : Host.Outcome State Fault Refusal :=
  whileRunning (claimEvent st groups option) s

/-- YIELD (R117). -/
def execYield (st : Station) (groups : Byte) (s : State) : Host.Outcome State Fault Refusal :=
  whileRunning (yieldEvent st groups) s

/-- QUERY (R126). -/
def execQuery (st : Station) (s : State) : Host.Outcome State Fault Refusal := whileRunning (queryEvent st) s

/-- DEPLOY (R44). -/
def execDeploy (st : Station) (lines : Byte) (s : State) : Host.Outcome State Fault Refusal :=
  whileRunning (deployEvent st lines) s

/-- ENGAGE (R45). -/
def execEngage (st : Station) (lines : Byte) (s : State) : Host.Outcome State Fault Refusal :=
  whileRunning (engageEvent st lines) s

/-- LOCK (R47). -/
def execLock (st : Station) (lines : Byte) (s : State) : Host.Outcome State Fault Refusal :=
  whileRunning (lockEvent st lines) s

/-- HOLD (R50). -/
def execHold (st : Station) (lines : Byte) (s : State) : Host.Outcome State Fault Refusal :=
  whileRunning (holdEvent st lines) s

/-- MARK (R49, R82). -/
def execMark (st : Station) (lines : Byte) (s : State) : Host.Outcome State Fault Refusal :=
  whileRunning (markEvent st lines) s

/-- RELEASE (R51). -/
def execRelease (st : Station) (lines option : Byte) (s : State) : Host.Outcome State Fault Refusal :=
  whileRunning (releaseEvent st lines option) s

/-- REWIND (R54). -/
def execRewind (st : Station) (lines : Byte) (s : State) : Host.Outcome State Fault Refusal :=
  whileRunning (rewindEvent st lines) s

/-- QUICK RELEASE (R140). -/
def execQuickRelease (st : Station) (lines : Byte) (s : State) : Host.Outcome State Fault Refusal :=
  whileRunning (quickReleaseEvent st lines) s

/-- RESET LINE (R61). -/
def execResetLine (st : Station) (lines : Byte) (s : State) : Host.Outcome State Fault Refusal :=
  whileRunning (resetLineEvent st lines) s

/-- READ LINES (R164). -/
def execReadLines (st : Station) (first count : Byte) (s : State) : Host.Outcome State Fault Refusal :=
  whileRunning (readLinesEvent st first count) s

/-- READ GROUP (R165). -/
def execReadGroup (st : Station) (group : Byte) (s : State) : Host.Outcome State Fault Refusal :=
  whileRunning (readGroupEvent st group) s

/-- READ SETUP (R165). -/
def execReadSetup (st : Station) (line : Byte) (s : State) : Host.Outcome State Fault Refusal :=
  whileRunning (readSetupEvent st line) s

/-- CLEAR FLAGS (R166). -/
def execClearFlags (st : Station) (lines : Byte) (flags : BitVec 16) (s : State) :
    Host.Outcome State Fault Refusal :=
  whileRunning (clearFlagsEvent st lines flags) s

/-- CLEAR STATION (R167). -/
def execClearStation (st : Station) (indicators : Byte) (s : State) : Host.Outcome State Fault Refusal :=
  whileRunning (clearStationEvent st indicators) s

/-- WRITE PROFILE (R101). -/
def execWriteProfile (st : Station) (group : Byte) (p : Profile) (s : State) : Host.Outcome State Fault Refusal :=
  whileRunning (writeProfileEvent st group p) s

/-- WRITE BERTH (R106). -/
def execWriteBerth (st : Station) (scope stagger lead : Byte) (s : State) : Host.Outcome State Fault Refusal :=
  whileRunning (writeBerthEvent st scope stagger lead) s

/-- WRITE LINE SETUP (R104). -/
def execWriteLineSetup (st : Station) (line : Byte) (f : SetupFields) (s : State) :
    Host.Outcome State Fault Refusal :=
  whileRunning (writeLineSetupEvent st line f) s

/-- SAVE SETUP (R109). -/
def execSaveSetup (st : Station) (s : State) : Host.Outcome State Fault Refusal :=
  whileRunning (saveSetupEvent st) s

/-- RESTART (R169). -/
def execRestart (st : Station) (s : State) : Host.Outcome State Fault Refusal := whileRunning (restartEvent st) s

end Sys2Proof.Machine
end

