-- ==== Sys2Proof/Machine/PartEvents.lean ====
section
/-! DEFINITION. The meanings of the events of the part as a whole, of its links, of the berth and of the setup
store. -/

namespace Sys2Proof.Machine

/-! ### Power, reset input and restart -/

/-- POWER_ON (R66). -/
def execPowerOn (s : State) : Host.Outcome State Fault Refusal := .next s.powerOn

/-- RESET_INPUT_ASSERT (R18). -/
def execResetInputAssert (s : State) : Host.Outcome State Fault Refusal := .next s.assertReset

/-- RESET_INPUT_RELEASE (R110). -/
def execResetInputRelease (s : State) : Host.Outcome State Fault Refusal := .next s.releaseReset

/-- POWER_LOSS (R111). -/
def execPowerLoss (s : State) : Host.Outcome State Fault Refusal := .next s.losePower

/-- DEVICE_RESTART (R170), as an event of its own (log 3): it restarts the part where the station's RESTART is in
the pending restart (log 31). -/
def execDeviceRestart (st : Station) (s : State) : Host.Outcome State Fault Refusal :=
  whileRunning (fun s => if s.pendingRestart.contains st then s.restartPart st else s) s

/-- STORE_COMPLETION (R109). -/
def execStoreCompletion (readBack : Option StoreImage) (s : State) : Host.Outcome State Fault Refusal :=
  whileRunning (State.completeSave readBack) s

/-! ### Links -/

/-- FRAME_EVENT (R147). -/
def execFrameEvent (st : Station) (slot : BitVec 32) (s : State) : Host.Outcome State Fault Refusal :=
  whileRunning (State.frameEvent st slot) s

/-- GAP_ABORT (R154), as an event of its own (log 3): of a PRESENT station with a part-received message. -/
def execGapAbort (st : Station) (s : State) : Host.Outcome State Fault Refusal :=
  whileRunning (fun s => if s.present st && (s.link st).incoming != .kind then s.abortGap st else s) s

/-- PRESENCE_LOSS (R150), as an event of its own (log 3): of a PRESENT station.  DESIGN CHOICE, unsafe, log 24: the
bad-slot count then stands at 64 as at the frame event of R149, and the downstream slot composed before, with its
offer, take and standing, goes out once more; the next one is composed at the station's next FRAME_EVENT. -/
def execPresenceLoss (st : Station) (s : State) : Host.Outcome State Fault Refusal :=
  whileRunning (fun s => if s.present st then s.losePresence st else s) s

/-! ### Berth -/

/-- The oldest stance change of a station among the events handed over. -/
def stanceDue (st : Station) : List DueEvent → Option (Stance × Stance)
  | [] => none
  | .stance x before after :: es => if x = st then some (before, after) else stanceDue st es
  | .halt _ :: es | .stopOnset _ :: es | .inhibitOnset _ :: es | .inhibitLift _ :: es | .queueTake :: es =>
    stanceDue st es

/-- The Berth Action Unit takes the oldest stance change of a station that waits; without one nothing changes
(R133, log 5). -/
def State.takeStanceDue (st : Station) (s : State) : State :=
  match stanceDue st s.due with
  | some (before, after) => (s.takeDue (.stance st before after)).takeStance st before after
  | none => s

/-- STANCE_CHANGE (R133). -/
def execStanceChange (st : Station) (s : State) : Host.Outcome State Fault Refusal :=
  whileRunning (State.takeStanceDue st) s

/-- QUEUE_TAKE (R142). -/
def execQueueTake (s : State) : Host.Outcome State Fault Refusal :=
  whileRunning (State.takeHanded .queueTake State.queueTake) s

/-- STAGGER_EXPIRY (R143): an idle timer has none. -/
def execStaggerExpiry (s : State) : Host.Outcome State Fault Refusal :=
  whileRunning (fun s => if s.berth.stagger.isSome then s.staggerExpire else s) s

end Sys2Proof.Machine
end

