-- ==== Sys2Proof/Machine/Idle.lean ====
section
/-! DEFINITION. What the part does of itself while no command waits (log 28), and the leads of a line as a reader
of the part sees them. -/

namespace Sys2Proof.Machine

/-- The command that takes an event that was handed over. -/
def DueEvent.command : DueEvent → Instr
  | .halt n => .holderChangeHalt n
  | .stopOnset n => .stopOnset n
  | .inhibitOnset n => .inhibitOnset n
  | .inhibitLift n => .inhibitLift n
  | .stance st _ _ => .stanceChange st
  | .queueTake => .queueTake

/-- A line's hook timer has run its time (R55). -/
def Line.hookTimeOut (l : Line) : Bool :=
  match l.control.hookTimer with
  | some t => t.limit ≤ t.elapsed
  | none => false

/-- The event that is next of itself while no command waits: the oldest handed over, else the hook timer expiry
of the lowest line whose timer has run out (log 28). -/
def State.ownEvent (s : State) : Option Instr :=
  match s.due with
  | e :: _ => some e.command
  | [] => (allLines.find? fun n => (s.line n).hookTimeOut).map .hookTimerExpiry

/-- One idle period: 10 ms of the Berth Action Unit's time base pass (R143, log 4). -/
def idlePeriod (s : State) : Host.Outcome State Fault Refusal := whileRunning State.staggerTick s

/-- The leads of line `n` (R14 to R16).  DESIGN CHOICE, unsafe, log 8: the direction lead shows the sign kept after the
hand in force, so that a load of line setups (R110) that changes the hand moves it, as a write does (R14). -/
def State.pins (s : State) (n : LineNo) : Leads := leadsOf (s.setup n).hand (s.line n)

/-! ### The leads of the Berth Link -/

/-- What the link clock lead and the frame-start lead carry (R147): the low level, or their signal, the clock at 512 kHz
and a frame-start pulse at the first clock of every 512. -/
inductive ClockLead where
  | heldLow
  | running
  deriving DecidableEq, Repr

/-- What the downstream lead carries (R147): its idle level, or in each frame the four slots in the order of stations. -/
inductive DownstreamLead where
  | idleLevel
  | frame (slots : Vector (BitVec 32) 4)
  deriving DecidableEq, Repr

/-- The output leads of the Berth Link (R147). -/
structure LinkLeads where
  linkClock : ClockLead
  frameStart : ClockLead
  downstream : DownstreamLead
  deriving DecidableEq, Repr

/-- The output leads of the Berth Link in the coming frame (R147): all four slots are driven, whatever the presence of
the stations; while the reset input is asserted the clock leads are held low and the downstream lead is idle, so that
no frame is sent.  Those of a part without supply are the model's own (log 17). -/
def State.linkLeads (s : State) : LinkLeads :=
  if s.running then
    { linkClock := .running
      frameStart := .running
      downstream :=
        .frame #v[(s.link .quay).downstream, (s.link .vessel).downstream, (s.link .panel).downstream,
          (s.link .service).downstream] }
  else { linkClock := .heldLow, frameStart := .heldLow, downstream := .idleLevel }

/-- The bit on the downstream lead at a clock of the frame, 0 to 511 (R147, R172): the 32 clocks of a station's slot
begin at 128 times its place in the order of stations and carry the slot from bit 31 to bit 0; none between the slots,
where the manual gives no level, and none while no frame is sent. -/
def DownstreamLead.bitAt (clock : Fin 512) : DownstreamLead → Option Bool
  | .idleLevel => none
  | .frame slots =>
    if clock.val % 128 < 32 then
      some ((slots[clock.val / 128]'(by have := clock.isLt; omega)).getLsbD (31 - clock.val % 128))
    else none

end Sys2Proof.Machine
end

