-- ==== Sys2Proof/Machine/Dispatch.lean ====
section
/-! DEFINITION. The effect of every command on everything but the queue of commands: one arm for each row of
spec/opcode_table.json, in the table's order. -/

namespace Sys2Proof.Machine

def exec (i : Instr) (s : State) : Host.Outcome State Fault Refusal :=
  match i with
  | .sampleEvent n sample pins => Sys2Proof.Machine.execSampleEvent n sample pins s
  | .countEvent n step => Sys2Proof.Machine.execCountEvent n step s
  | .frameEvent st slot => Sys2Proof.Machine.execFrameEvent st slot s
  | .powerOn => Sys2Proof.Machine.execPowerOn s
  | .resetInputAssert => Sys2Proof.Machine.execResetInputAssert s
  | .resetInputRelease => Sys2Proof.Machine.execResetInputRelease s
  | .claim st groups option => Sys2Proof.Machine.execClaim st groups option s
  | .yieldGroups st groups => Sys2Proof.Machine.execYield st groups s
  | .query st => Sys2Proof.Machine.execQuery st s
  | .deploy st lines => Sys2Proof.Machine.execDeploy st lines s
  | .engage st lines => Sys2Proof.Machine.execEngage st lines s
  | .lock st lines => Sys2Proof.Machine.execLock st lines s
  | .hold st lines => Sys2Proof.Machine.execHold st lines s
  | .mark st lines => Sys2Proof.Machine.execMark st lines s
  | .release st lines option => Sys2Proof.Machine.execRelease st lines option s
  | .rewind st lines => Sys2Proof.Machine.execRewind st lines s
  | .quickRelease st lines => Sys2Proof.Machine.execQuickRelease st lines s
  | .resetLine st lines => Sys2Proof.Machine.execResetLine st lines s
  | .readLines st first count => Sys2Proof.Machine.execReadLines st first count s
  | .readGroup st group => Sys2Proof.Machine.execReadGroup st group s
  | .readSetup st line => Sys2Proof.Machine.execReadSetup st line s
  | .clearFlags st lines flags => Sys2Proof.Machine.execClearFlags st lines flags s
  | .clearStation st indicators => Sys2Proof.Machine.execClearStation st indicators s
  | .writeProfile st group profile => Sys2Proof.Machine.execWriteProfile st group profile s
  | .writeBerth st scope stagger vesselLead => Sys2Proof.Machine.execWriteBerth st scope stagger vesselLead s
  | .writeLineSetup st line setup => Sys2Proof.Machine.execWriteLineSetup st line setup s
  | .saveSetup st => Sys2Proof.Machine.execSaveSetup st s
  | .restart st => Sys2Proof.Machine.execRestart st s
  | .deviceRestart st => Sys2Proof.Machine.execDeviceRestart st s
  | .storeCompletion readBack => Sys2Proof.Machine.execStoreCompletion readBack s
  | .staggerExpiry => Sys2Proof.Machine.execStaggerExpiry s
  | .hookTimerExpiry n => Sys2Proof.Machine.execHookTimerExpiry n s
  | .stallExpiry n => Sys2Proof.Machine.execStallExpiry n s
  | .derivation n => Sys2Proof.Machine.execDerivation n s
  | .gapAbort st => Sys2Proof.Machine.execGapAbort st s
  | .presenceLoss st => Sys2Proof.Machine.execPresenceLoss st s
  | .stanceChange st => Sys2Proof.Machine.execStanceChange st s
  | .stopOnset n => Sys2Proof.Machine.execStopOnset n s
  | .holderChangeHalt n => Sys2Proof.Machine.execHolderChangeHalt n s
  | .inhibitOnset n => Sys2Proof.Machine.execInhibitOnset n s
  | .inhibitLift n => Sys2Proof.Machine.execInhibitLift n s
  | .queueTake => Sys2Proof.Machine.execQueueTake s
  | .powerLoss => Sys2Proof.Machine.execPowerLoss s

end Sys2Proof.Machine
end

