-- ==== Sys2Proof/Machine/Step.lean ====
section
/-! DEFINITION. One step of the part: the command at the front of the queue, or on an empty queue what the part
does of itself; and the placing of a command in front. -/

namespace Sys2Proof.Machine

/-- One step.  The front command leaves the queue and has its effect.  On an empty queue the running part takes
an event that it has handed to itself, lets a hook timer expire, or lets an idle period pass (log 28); without
its supply, or with the reset input asserted, nothing changes. -/
def step (s : State) : Host.Outcome State Fault Refusal :=
  match s.pending with
  | i :: rest => exec i { s with pending := rest }
  | [] =>
    if s.running then
      match s.ownEvent with
      | some i => exec i s
      | none => idlePeriod s
    else .next s

/-- The state with the command that a table word spells put in front of its queue; unchanged where the word
spells none. -/
def State.withFetchWord (s : State) (nbits w : Nat) : State :=
  match decodeTableWord nbits w with
  | some i => { s with pending := i :: s.pending }
  | none => s

end Sys2Proof.Machine
end

