-- ==== Sys2Proof/Safety.lean ====
section
/-! DEFINITION. The terms that the claims about the part are stated in: conditions on a state before a command,
what a command leaves alone, the outcome of each line command as the tables of the manual give it, and the
invariants. -/

namespace Sys2Proof.Machine

/-! ### Conditions before a command -/

/-- A well-formed request of station `st` would be taken now: the part runs, the station is PRESENT and its reply
slot is empty (R155, R161). -/
def State.accepts (s : State) (st : Station) : Bool :=
  s.running && s.present st && (s.link st).replySlot.isNone

/-- The entries of a group's record, in-service and pending. -/
def GroupRecord.entries (r : GroupRecord) : List Entry := r.inService ++ r.waiting

/-- No entry of any group has a watched set recorded (R123). -/
def State.noWatched (s : State) : Bool :=
  allGroups.all fun g => (s.record g).entries.all fun e => e.watched.isNone

/-- No entry of any group carries a single mark (R116). -/
def State.noSingle (s : State) : Bool := allGroups.all fun g => (s.record g).entries.all fun e => !e.single

/-- Every accepted position of a line is known and is the one that the pins now read (R5). -/
def Sense.settled (u : Sense) (pins : SwitchPins) : Bool :=
  u.hookClosed.accepted == PinLevel.reading pins.hookClosed
    && u.hookOpen.accepted == PinLevel.reading pins.hookOpen
    && u.stowed.accepted == PinLevel.reading pins.stowed
    && u.driveFault.accepted == PinLevel.reading pins.driveFault
    && u.hook == hookPosition u.hookClosed.accepted u.hookOpen.accepted

/-- F of line `n` after a valid sample, as R21, R22 and R25 give it. -/
def State.filteredNext (s : State) (n : LineNo) (sample : BitVec 12) : Nat :=
  let l := s.line n
  let t : Int := max 0 ((sample.toNat : Int) - (s.setup n).zeroOffset)
  match l.tension.filtered with
  | none => (16 * t).toNat
  | some f => ((f : Int) + Int.tdiv (16 * t - f) (2 ^ l.applied.filterShift)).toNat

/-- T of line `n` after a valid sample (R24). -/
def State.reportedNext (s : State) (n : LineNo) (sample : BitVec 12) : Nat := s.filteredNext n sample / 16

/-- The line's applied profile stands at its next sample event: no profile write waits (R102), and no profile of a new
group is to come into use (R105). -/
def Line.profileStands (l : Line) : Bool := !l.profileDue && l.joined.isNone

/-- A sample event of a fitted line with a valid sample, no profile to come into use and no switch reading that
differs from its accepted position. -/
def State.plainSample (s : State) (n : LineNo) (sample : BitVec 12) (pins : SwitchPins) : Bool :=
  s.running && s.fitted n && (s.line n).profileStands && sampleValid sample && (s.line n).sense.settled pins

/-- Such a sample event at which no watch condition of the Protection Unit is met (R85, R86). -/
def State.calmSample (s : State) (n : LineNo) (sample : BitVec 12) (pins : SwitchPins) : Bool :=
  s.plainSample n sample pins && decide (s.reportedNext n sample ≤ (s.line n).applied.warn)
    && decide (s.reportedNext n sample ≤ (s.line n).applied.trip)

/-- A good slot latches the last byte of an incoming message, which is then complete (R153, R154). -/
def Link.completes (k : Link) (slot : BitVec 32) : Bool :=
  slotOffer slot && k.recv == .oneLook (slotByte slot)
    && match k.incoming with
      | .kind => false
      | .length _ => slotByte slot == 0#8
      | .body _ _ remaining _ => decide (remaining ≤ 1)

/-- A good slot's take is that of the last byte of a reply: its lane completion (R156). -/
def Link.endsReply (k : Link) (slot : BitVec 32) : Prop :=
  slotTake slot = true ∧ (∃ b, k.send = .offering b)
    ∧ ∃ o, k.outgoing = some o ∧ o.isReply = true ∧ o.bytes.length ≤ o.next

/-! ### What a command leaves alone -/

/-- The supply, the reset input, the Group Table, the pending restart, the counter of free values and the queue of
commands are unchanged. -/
def State.sameCore (s t : State) : Prop :=
  t.powered = s.powered ∧ t.resetAsserted = s.resetAsserted ∧ t.table = s.table
    ∧ t.pendingRestart = s.pendingRestart ∧ t.freeIndex = s.freeIndex ∧ t.pending = s.pending

/-- A station's items are unchanged but for its notice marks. -/
def Link.sameButMarks (a b : Link) : Prop :=
  b = { a with groupMarks := b.groupMarks, lineMarks := b.lineMarks }

/-- Every station's items are unchanged but for its notice marks. -/
def State.linksButMarks (s t : State) : Prop := ∀ x, Link.sameButMarks (s.link x) (t.link x)

/-- Every station's items are unchanged but for its notice marks, and station `st`'s reply slot. -/
def State.linksButReply (s t : State) (st : Station) : Prop :=
  ∀ x, t.link x
    = { s.link x with
        groupMarks := (t.link x).groupMarks
        lineMarks := (t.link x).lineMarks
        replySlot := if x = st then (t.link st).replySlot else (s.link x).replySlot }

/-- Everything but the reply slot of station `st` is unchanged. -/
def State.onlyReply (s t : State) (st : Station) (r : Reply) : Prop :=
  t = s.putLink st { s.link st with replySlot := some r }

/-- From `u` to `t` the send lane of station `st` takes its step and its next downstream slot is composed; nothing else
changes (R147, R156, R157). -/
def State.sendLaneOnly (u t : State) (st : Station) : Prop :=
  t = u.putLink st
    { u.link st with
      send := (t.link st).send
      outgoing := (t.link st).outgoing
      replySlot := (t.link st).replySlot
      groupMarks := (t.link st).groupMarks
      lineMarks := (t.link st).lineMarks
      downstream := (t.link st).downstream }

/-! ### What marks a notice -/

/-- The change of line `a` to `b` marks a line notice (R65): another state, fault cause or lock mark, or a flag latched
that was clear. -/
def Line.noticeDue (a b : Line) : Prop :=
  a.control.state ≠ b.control.state ∨ a.control.cause ≠ b.control.cause ∨ a.control.lockMark ≠ b.control.lockMark
    ∨ ∃ f : Flag, b.has f = true ∧ a.has f = false

/-- The line notices marked are those marked before and, for every PRESENT station, that of each line whose change marks
one (R65, R158). -/
def State.lineNoticesMarked (s t : State) : Prop :=
  ∀ (x : Station) (n : LineNo),
    (t.link x).lineMarks[n] = true
      ↔ (s.link x).lineMarks[n] = true ∨ (s.present x = true ∧ (s.line n).noticeDue (t.line n))

/-- A set holds an entry of a station with a single mark as given. -/
def listed (es : List Entry) (st : Station) (single : Bool) : Prop := ∃ e ∈ es, e.station = st ∧ e.single = single

/-- The change of record `a` to `b` marks an authority notice (R130): another active holder, or an entry, with its
single mark, that one of the two sets has gained or lost. -/
def GroupRecord.noticeDue (a b : GroupRecord) : Prop :=
  a.holder ≠ b.holder
    ∨ ∃ st single, ¬(listed a.inService st single ↔ listed b.inService st single)
        ∨ ¬(listed a.waiting st single ↔ listed b.waiting st single)

/-- The authority notices marked for station `x` are those marked before and, where `x` is PRESENT, that of each group
whose record's change marks one (R130, R158). -/
def State.groupNoticesMarkedFor (s t : State) (x : Station) : Prop :=
  ∀ g : GroupNo,
    (t.link x).groupMarks[g] = true
      ↔ (s.link x).groupMarks[g] = true ∨ (s.present x = true ∧ (s.record g).noticeDue (t.record g))

/-- The same for every station. -/
def State.groupNoticesMarked (s t : State) : Prop := ∀ x, s.groupNoticesMarkedFor t x

/-! ### Authority records -/

/-- Record `r'` is what a re-evaluation makes of record `r` (R119): both sets in rank order with every entry kept; an entry
moves from pending to in service exactly if no pending station ranks above it and it outranks every station in
service. -/
def GroupRecord.reevaluatedTo (vesselLead : Bool) (r r' : GroupRecord) : Prop :=
  let moves := fun e : Entry =>
    (∀ f ∈ r.waiting, rank vesselLead e.station ≤ rank vesselLead f.station)
      ∧ ∀ h ∈ r.inService, rank vesselLead e.station < rank vesselLead h.station
  (r'.inService.Pairwise fun a b => rank vesselLead a.station < rank vesselLead b.station)
    ∧ (r'.waiting.Pairwise fun a b => rank vesselLead a.station < rank vesselLead b.station)
    ∧ (∀ e, e ∈ r'.inService ↔ e ∈ r.inService ∨ (e ∈ r.waiting ∧ moves e))
    ∧ ∀ e, e ∈ r'.waiting ↔ e ∈ r.waiting ∧ ¬moves e

/-- Record `r` without the entry of station `st`. -/
def GroupRecord.lacking (r : GroupRecord) (st : Station) : GroupRecord where
  inService := r.inService.filter fun e => e.station ≠ st
  waiting := r.waiting.filter fun e => e.station ≠ st

/-- The authority records, the events handed over and the authority notice marks are unchanged. -/
def State.sameAuthority (s t : State) : Prop :=
  t.records = s.records ∧ t.due = s.due ∧ ∀ x, (t.link x).groupMarks = (s.link x).groupMarks

/-- After the change of one line's record alone: every other line and all but the notice marks and the authority
records stands as it was; its line notice is marked where its change marks one; without single marks the records
stand too. -/
def State.oneLine (s t : State) (n : LineNo) : Prop :=
  (∀ m, m ≠ n → t.line m = s.line m) ∧ s.sameCore t ∧ t.berth = s.berth ∧ s.linksButMarks t
    ∧ s.lineNoticesMarked t ∧ (s.noSingle = true → s.sameAuthority t)

/-- The inhibit onsets and lifts that a re-evaluation hands over, in ascending order of lines (R92): one for each line
whose record of its inhibit has changed, but for the line `own`. -/
def State.inhibitEvents (s t : State) (own : Option LineNo) : List DueEvent :=
  (allLines.filter fun m =>
      own != some m && (s.line m).protection.inhibit != (t.line m).protection.inhibit).map fun m =>
    if (t.line m).protection.inhibit then .inhibitOnset m else .inhibitLift m

/-! ### Codes, as the tables of R172 print them -/

/-- The byte of an outcome (R172). -/
def outcomeByte : ReplyCode → Byte
  | .done => 0x01#8 | .noChange => 0x02#8 | .granted => 0x03#8 | .queued => 0x04#8 | .held => 0x05#8
  | .notHolder => 0x06#8 | .badState => 0x07#8 | .inhibited => 0x08#8 | .stopped => 0x09#8 | .releasing => 0x0A#8
  | .notPermitted => 0x0B#8 | .badValue => 0x0C#8 | .restartPending => 0x0D#8 | .busy => 0x0E#8

/-- The byte of a line state (R172). -/
def stateByte : LineState → Byte
  | .starting => 0x00#8 | .notFitted => 0x01#8 | .stowed => 0x02#8 | .deploying => 0x03#8 | .opened => 0x04#8
  | .engaging => 0x05#8 | .hauling => 0x06#8 | .locked => 0x07#8 | .rendering => 0x08#8 | .recovering => 0x09#8
  | .held => 0x0A#8 | .slipping => 0x0B#8 | .slacking => 0x0C#8 | .opening => 0x0D#8 | .rewinding => 0x0E#8
  | .faulted => 0x0F#8

/-- The byte of a fault cause (R172). -/
def causeByte : Option FaultCause → Byte
  | none => 0x00#8 | some .payoutEnd => 0x01#8 | some .stall => 0x02#8 | some .hook => 0x03#8
  | some .snag => 0x04#8 | some .sensor => 0x05#8 | some .drive => 0x06#8

/-- The flags in the order of their bits in the flag word, from bit 0 (R172). -/
def flagsInOrder : List Flag :=
  [.warn, .trip, .allow, .limit, .payoutEnd, .stall, .hook, .snag, .sensor, .drive]

/-! ### Ranges, ranks and layouts, as the manual prints them -/

/-- A profile that WRITE PROFILE takes: every field in its range (R100), and the thresholds in both orderings (R101). -/
def profileTaken (p : Profile) : Bool :=
  decide (p.filterShift ≤ 5 ∧ p.lock ≤ 4094 ∧ p.recover ≤ 4094 ∧ p.hold ≤ 4094 ∧ p.render ≤ 4094 ∧ p.warn ≤ 4094
      ∧ p.trip ≤ 4094 ∧ p.snag ≤ 4094 ∧ p.slack ≤ 4094)
    && decide (1 ≤ p.renderDwell ∧ p.renderDwell ≤ 4095 ∧ 1 ≤ p.recoverDwell ∧ p.recoverDwell ≤ 4095
      ∧ 1 ≤ p.warnDwell ∧ p.warnDwell ≤ 4095 ∧ 1 ≤ p.tripDwell ∧ p.tripDwell ≤ 4095
      ∧ 1 ≤ p.slackDwell ∧ p.slackDwell ≤ 4095)
    && decide (p.allowance ≤ 8000 ∧ 1 ≤ p.slackLength ∧ p.slackLength ≤ 8000 ∧ 100 ≤ p.deployLength
      ∧ p.deployLength ≤ 60000)
    && decide (1 ≤ p.deploySpeed ∧ p.deploySpeed ≤ 100 ∧ 1 ≤ p.haulSpeed ∧ p.haulSpeed ≤ 100 ∧ 1 ≤ p.recoverSpeed
      ∧ p.recoverSpeed ≤ 100 ∧ 1 ≤ p.slackSpeed ∧ p.slackSpeed ≤ 100 ∧ 1 ≤ p.rewindSpeed ∧ p.rewindSpeed ≤ 100)
    && decide (10 ≤ p.hookTime ∧ p.hookTime ≤ 500 ∧ 20 ≤ p.stallWindow ∧ p.stallWindow ≤ 1000)
    && decide (0 < p.slack ∧ p.slack < p.recover ∧ p.recover < p.lock ∧ p.lock ≤ p.hold ∧ p.hold < p.render
      ∧ p.render ≤ p.warn ∧ p.warn < p.trip ∧ p.trip ≤ 4094)
    && decide (p.slack < p.snag ∧ p.snag ≤ p.warn)

/-- The fields of a line setup that WRITE LINE SETUP takes: each within its values (R103, R172). -/
def setupTaken (f : SetupFields) : Bool :=
  decide (f.fitted.toNat ≤ 1 ∧ f.group.toNat ≤ 3 ∧ f.hand.toNat ≤ 1 ∧ f.zeroOffset.toNat ≤ 1023 ∧ f.rank.toNat ≤ 7
    ∧ 1000 ≤ f.capacity.toNat ∧ f.capacity.toNat ≤ 60000)

/-- The fields spell line setup `u` (R103, R172). -/
def setupSpelled (f : SetupFields) (u : LineSetup) : Prop :=
  f.fitted = (if u.fitted = true then 1#8 else 0#8) ∧ f.group.toNat = u.group.val
    ∧ f.hand = (match u.hand with | .right => 0#8 | .left => 1#8) ∧ f.zeroOffset.toNat = u.zeroOffset
    ∧ f.rank.toNat = u.rank.val ∧ f.capacity.toNat = u.capacity

/-- The profile of the default column of R100. -/
def printedProfile : Profile :=
  { filterShift := 2
    lock := 400, recover := 280, hold := 600, render := 720, warn := 900, trip := 1100, snag := 200, slack := 60
    renderDwell := 20, recoverDwell := 500, warnDwell := 50, tripDwell := 30, slackDwell := 100
    allowance := 2000, slackLength := 400, deployLength := 6000
    deploySpeed := 40, haulSpeed := 30, recoverSpeed := 15, slackSpeed := 20, rewindSpeed := 50
    hookTime := 100, stallWindow := 200 }

/-- Line setup `u` is that of the default column of R103 for line `n`, with the group that R99 lists. -/
def setupPrinted (n : LineNo) (u : LineSetup) : Prop :=
  u.fitted = true ∧ u.hand = .right ∧ u.zeroOffset = 0 ∧ u.rank = n ∧ u.capacity = 40000
    ∧ (n.val, u.group.val) ∈ [(0, 0), (1, 0), (2, 1), (3, 1), (4, 2), (5, 2), (6, 3), (7, 3)]

/-- Bytes 1 to 38 of a body carry profile `p` where the table of R172 puts its fields: most significant byte first, and
two thresholds packed in three bytes. -/
def profileLaidOut (body : List Byte) (p : Profile) : Prop :=
  let at' := fun i => (body.getD i 0#8).toNat
  at' 1 = p.filterShift
    ∧ at' 2 * 16 + at' 3 / 16 = p.lock ∧ at' 3 % 16 * 256 + at' 4 = p.recover
    ∧ at' 5 * 16 + at' 6 / 16 = p.hold ∧ at' 6 % 16 * 256 + at' 7 = p.render
    ∧ at' 8 * 16 + at' 9 / 16 = p.warn ∧ at' 9 % 16 * 256 + at' 10 = p.trip
    ∧ at' 11 * 16 + at' 12 / 16 = p.snag ∧ at' 12 % 16 * 256 + at' 13 = p.slack
    ∧ at' 14 * 256 + at' 15 = p.renderDwell ∧ at' 16 * 256 + at' 17 = p.recoverDwell
    ∧ at' 18 * 256 + at' 19 = p.warnDwell ∧ at' 20 * 256 + at' 21 = p.tripDwell
    ∧ at' 22 * 256 + at' 23 = p.slackDwell ∧ at' 24 * 256 + at' 25 = p.allowance
    ∧ at' 26 * 256 + at' 27 = p.slackLength ∧ at' 28 * 256 + at' 29 = p.deployLength
    ∧ at' 30 = p.deploySpeed ∧ at' 31 = p.haulSpeed ∧ at' 32 = p.recoverSpeed ∧ at' 33 = p.slackSpeed
    ∧ at' 34 = p.rewindSpeed ∧ at' 35 * 256 + at' 36 = p.hookTime ∧ at' 37 * 256 + at' 38 = p.stallWindow

/-- Bytes 1 to 8 of a body carry the setup fields where the table of R172 puts them. -/
def setupLaidOut (body : List Byte) (f : SetupFields) : Prop :=
  body.getD 1 0#8 = f.fitted ∧ body.getD 2 0#8 = f.group ∧ body.getD 3 0#8 = f.hand
    ∧ (body.getD 4 0#8).toNat * 256 + (body.getD 5 0#8).toNat = f.zeroOffset.toNat ∧ body.getD 6 0#8 = f.rank
    ∧ (body.getD 7 0#8).toNat * 256 + (body.getD 8 0#8).toNat = f.capacity.toNat

/-- The body of each request carries its operands byte by byte as the tables of R172 print them. -/
def requestsLaidOut : Prop :=
  ∀ (st : Station) (a b c : Byte) (flags : BitVec 16) (p : Profile) (f : SetupFields),
    encodeBody (.claim st a b) = [a, b] ∧ encodeBody (.yieldGroups st a) = [a] ∧ encodeBody (.query st) = []
      ∧ (∀ i ∈ [Instr.deploy st a, .engage st a, .lock st a, .hold st a, .mark st a, .rewind st a, .quickRelease st a,
          .resetLine st a], encodeBody i = [a])
      ∧ encodeBody (.release st a b) = [a, b] ∧ encodeBody (.readLines st a b) = [a, b]
      ∧ encodeBody (.readGroup st a) = [a] ∧ encodeBody (.readSetup st a) = [a]
      ∧ (∃ high low, encodeBody (.clearFlags st a flags) = [a, high, low]
          ∧ (∀ i, i < 8 → high.getLsbD i = flags.getLsbD (8 + i)) ∧ ∀ i, i < 8 → low.getLsbD i = flags.getLsbD i)
      ∧ encodeBody (.clearStation st a) = [a] ∧ encodeBody (.writeBerth st a b c) = [a, b, c]
      ∧ (let body := encodeBody (.writeProfile st a p)
        p.fits = true → body.length = 39 ∧ body.getD 0 0#8 = a ∧ profileLaidOut body p)
      ∧ (let body := encodeBody (.writeLineSetup st a f)
        body.length = 9 ∧ body.getD 0 0#8 = a ∧ setupLaidOut body f)
      ∧ encodeBody (.saveSetup st) = [] ∧ encodeBody (.restart st) = []

/-- The stations rank in the two orders of R113. -/
def ranksAsListed : Prop :=
  ([Station.panel, .quay, .vessel, .service].Pairwise fun a b => rank false a < rank false b)
    ∧ [Station.panel, .vessel, .quay, .service].Pairwise fun a b => rank true a < rank true b

/-- An upstream slot is good at marker 101101b and even parity (R148), and its fields lie where R172 puts them: the
stance in bits 25 to 22, with its three codes, the lane byte in bits 21 to 14, offer in bit 13 and take in bit 12. -/
def slotsAsLaidOut : Prop :=
  (∀ slot : BitVec 32,
      (slotGood slot = true
        ↔ slot.extractLsb' 26 6 = 0b101101#6 ∧ ((List.range 32).countP fun i => slot.getLsbD i) % 2 = 0)
      ∧ (∀ i, i < 4 → (slotStance slot).getLsbD i = slot.getLsbD (22 + i))
      ∧ (∀ i, i < 8 → (slotByte slot).getLsbD i = slot.getLsbD (14 + i))
      ∧ slotOffer slot = slot.getLsbD 13 ∧ slotTake slot = slot.getLsbD 12)
    ∧ ∀ code x, stanceOf code = some x ↔ (code, x) ∈ [(0b0110#4, Stance.idle), (0b1001#4, .stop), (0b1100#4, .releaseAll)]

/-! ### A line in a new state -/

/-- Line `a` once it has entered state `x` with command record `r`, the demands of that state and its hook timer:
counters and slack watch at 0, no fault cause, the tending watch zeroed where LOCKED is entered or left, the sign
of a drive demand other than 0 on the direction lead; the lock mark, the flags, P, the switch positions, T, F and
the protection items as they were (R15, R32, R36, R38, R55, R56). -/
def Line.placed (a : Line) (x : LineState) (r : CommandRecord) (drive : Int) (brake : Brake) (hook : HookDemand)
    (timer : Option HookTimer) : Line :=
  { a with
    sense := { a.sense with heaving := if drive = 0 then a.sense.heaving else decide (drive < 0) }
    tension :=
      if a.control.state = .locked ∨ x = .locked then { a.tension with tendDir := none, tendCount := 0 }
      else a.tension
    control :=
      { state := x
        lockMark := a.control.lockMark
        record := r
        slackWatch := 0
        hookTimer := timer
        stallCounter := 0
        startingCount := 0
        cause := none
        flags := a.control.flags
        drive := drive
        brake := brake
        hookDemand := hook } }

/-- Line `a` at rest in state `x`: the demands idle and the command record empty. -/
def Line.idleIn (a : Line) (x : LineState) : Line := a.placed x {} 0 .apply .none none

/-- Line `a` faulted (R57): FAULTED with cause `c`, the demands idle, flag `f` latched. -/
def Line.faultedBy (a : Line) (c : FaultCause) (f : Flag) : Line :=
  let b := a.idleIn .faulted
  { b with control := { b.control with cause := some c, flags := a.control.flags ||| f.mask } }

/-- Line `a` referenced: P made 0 and the reference flag set (R13). -/
def Line.zeroed (a : Line) : Line := { a with sense := { a.sense with payout := 0, referenced := true } }

/-- Line `a` with its lock mark set to P (R49). -/
def Line.remarked (a : Line) : Line := { a with control := { a.control with lockMark := some a.sense.payout } }

/-- Line `a` once its state has been derived from its accepted positions (R41). -/
def Line.derivedAs (fitted : Bool) (a : Line) : Line :=
  if fitted = false then a.idleIn .notFitted
  else if a.sense.driveFault.accepted = .active then a.faultedBy .drive .drive
  else if a.sense.stowed.accepted = .active ∧ a.sense.hook = .opened then (a.idleIn .stowed).zeroed
  else if a.sense.stowed.accepted = .inactive ∧ a.sense.hook = .opened then a.idleIn .opened
  else if a.sense.stowed.accepted = .inactive ∧ a.sense.hook = .closed then a.idleIn .held
  else a.faultedBy .hook .hook

/-- The hook timer that line `a` starts (R55). -/
def Line.freshTimer (a : Line) : Option HookTimer := some { limit := a.applied.hookTime, elapsed := 0 }

/-! ### Outcomes of line commands -/

/-- The outcome of DEPLOY for line `n`: the first check that fails (R43, R44). -/
def deployOutcome (s : State) (st : Station) (n : LineNo) : ReplyCode :=
  let l := s.line n
  if s.holder (s.setup n).group ≠ some st then .notHolder
  else if s.berth.stopped = true then .stopped
  else if s.berth.releaseAll = true then .releasing
  else if ¬((l.control.state = .stowed ∨ l.control.state = .opened) ∧ l.sense.referenced = true) then .badState
  else if l.applied.deployLength > (s.setup n).capacity then .badValue
  else if l.control.state = .opened ∧ l.sense.payout ≥ l.applied.deployLength then .noChange
  else .done

/-- The outcome of ENGAGE for line `n` (R43, R45). -/
def engageOutcome (s : State) (st : Station) (n : LineNo) : ReplyCode :=
  if s.holder (s.setup n).group ≠ some st then .notHolder
  else if s.berth.releaseAll = true then .releasing
  else if (s.line n).control.state = .opened then .done
  else .badState

/-- The outcome of LOCK for line `n` (R43, R47). -/
def lockOutcome (s : State) (st : Station) (n : LineNo) : ReplyCode :=
  let l := s.line n
  if s.holder (s.setup n).group ≠ some st then .notHolder
  else if s.berth.releaseAll = true then .releasing
  else if l.control.state ∈ [LineState.locked, .rendering, .recovering] then .noChange
  else if l.control.state ≠ .held then .badState
  else if l.tension.reported ≥ l.applied.lock then .done
  else if s.berth.stopped = true then .stopped
  else if l.protection.inhibit = true then .inhibited
  else .done

/-- The outcome of HOLD for line `n` (R43, R50). -/
def holdOutcome (s : State) (st : Station) (n : LineNo) : ReplyCode :=
  if s.holder (s.setup n).group ≠ some st then .notHolder
  else if (s.line n).control.state
      ∈ [LineState.locked, .rendering, .recovering, .hauling, .slacking, .deploying, .rewinding] then .done
  else .badState

/-- The outcome of MARK for line `n` (R43, R49). -/
def markOutcome (s : State) (st : Station) (n : LineNo) : ReplyCode :=
  if s.holder (s.setup n).group ≠ some st then .notHolder
  else if (s.line n).control.state ∈ [LineState.locked, .held] then .done
  else .badState

/-- The outcome of RELEASE for line `n` (R43, R51). -/
def releaseOutcome (s : State) (st : Station) (n : LineNo) : ReplyCode :=
  if s.holder (s.setup n).group ≠ some st then .notHolder
  else if s.berth.stopped = true then .stopped
  else if s.berth.releaseAll = true then .releasing
  else if (s.line n).control.state ∈ [LineState.locked, .rendering, .recovering, .held, .hauling] then .done
  else .badState

/-- The outcome of REWIND for line `n` (R43, R54). -/
def rewindOutcome (s : State) (st : Station) (n : LineNo) : ReplyCode :=
  if s.holder (s.setup n).group ≠ some st then .notHolder
  else if s.berth.stopped = true then .stopped
  else if s.berth.releaseAll = true then .releasing
  else if (s.line n).control.state = .opened then .done
  else .badState

/-- The outcome of RESET LINE for line `n` (R43, R61). -/
def resetLineOutcome (s : State) (st : Station) (n : LineNo) : ReplyCode :=
  if s.holder (s.setup n).group ≠ some st then .notHolder
  else if (s.line n).control.state = .faulted then .done
  else .badState

/-- The outcome of QUICK RELEASE for line `n` (R140). -/
def quickReleaseOutcome (s : State) (st : Station) (n : LineNo) : ReplyCode :=
  let l := s.line n
  if s.holder (s.setup n).group ≠ some st ∧ st ≠ .panel then .notHolder
  else if l.control.state = .opening then .noChange
  else if ¬(l.control.state
        ∈ [LineState.engaging, .hauling, .locked, .rendering, .recovering, .held, .slipping, .slacking]
      ∨ (l.control.state = .faulted ∧ l.sense.hook = .closed)) then .badState
  else if n ∈ s.berth.queue then .noChange
  else .done

/-- The result of a line command (R43, R163): each line named whose outcome is DONE stands as `after` gives, every
other line as it was; the reply echoes the mask and carries the outcomes in ascending order of lines; beside the
lines, the notice marks, the sender's reply slot and, where single marks stand, the authority records, nothing
changes; the line notices marked are those of the lines whose change marks one (R65). -/
def LineCommandResult (kind : Byte) (st : Station) (mask : Byte) (s t : State) (outcome : LineNo → ReplyCode)
    (after : LineNo → Line) : Prop :=
  (∀ n, t.line n = if mask.getLsbD n.val = true ∧ outcome n = .done then after n else s.line n)
    ∧ (t.link st).replySlot
        = some
            { kind := kind
              body := 0x01#8 :: mask :: ((allLines.filter fun n => mask.getLsbD n.val).map fun n => outcomeByte (outcome n)) }
    ∧ s.sameCore t ∧ t.berth = s.berth ∧ s.linksButReply t st ∧ s.lineNoticesMarked t
    ∧ (s.noSingle = true → s.sameAuthority t)

/-! ### Invariants -/

/-- Every line's demands are those of its state under its applied profile (R38), and the sign kept for the direction
lead is that of the drive demand, unless that is 0 (R15). -/
def State.demandsAgree (s : State) : Prop :=
  ∀ n, (s.line n).control.drive = driveDemand (s.line n).applied (s.line n).control.state
    ∧ (s.line n).control.brake = brakeDemand (s.line n).control.state
    ∧ (s.line n).control.hookDemand = hookDemandOf (s.line n).control.state
    ∧ ((s.line n).control.drive ≠ 0 → (s.line n).sense.heaving = decide ((s.line n).control.drive < 0))

/-- The states through which the operation of a current command passes (R36). -/
def CurrentCommand.states : CurrentCommand → List LineState
  | .deploy => [.deploying]
  | .engage => [.engaging, .hauling]
  | .lock => [.hauling]
  | .release => [.slacking, .opening, .rewinding]
  | .rewind => [.rewinding]
  | .queue => [.opening]

/-- What a Line Control Unit holds is held only in the states that have it (R36, R40, R49, R52, R55, R56, R57, R67). -/
def Control.tidy (c : Control) : Prop :=
  (c.hookTimer.isSome = true ↔ c.state = .engaging ∨ c.state = .opening)
    ∧ (c.slackWatch ≠ 0 → c.state = .slacking)
    ∧ (c.stallCounter ≠ 0 → c.state.drivePowered = true)
    ∧ (c.startingCount ≠ 0 → c.state = .starting)
    ∧ (c.cause.isSome = true ↔ c.state = .faulted)
    ∧ (c.state = .locked ∨ c.state = .rendering ∨ c.state = .recovering → c.lockMark.isSome = true)
    ∧ (c.record.current.isSome = true
        ↔ c.state ∈ [LineState.deploying, .engaging, .hauling, .slacking, .opening, .rewinding])
    ∧ (∀ x, c.record.current = some x → c.state ∈ x.states)
    ∧ (c.record.slackStart.isSome = true → c.state = .slacking)
    ∧ (c.record.thenRewind = true → (c.state = .slacking ∨ c.state = .opening) ∧ c.record.current = some .release)
    ∧ (c.record.restOnCompletion = true → c.state = .engaging ∨ c.state = .opening)
    ∧ (c.record.tripDeferred = true → c.state = .engaging)
    ∧ (c.record.returnTo.isSome = true → c.state = .slipping)

/-- Every line's record is tidy, and its tending watch counts only while it is LOCKED (R32). -/
def State.recordsTidy (s : State) : Prop :=
  ∀ n, (s.line n).control.tidy
    ∧ ((s.line n).control.state ≠ .locked → (s.line n).tension.tendDir = none ∧ (s.line n).tension.tendCount = 0)

/-- The figures of every line lie in their ranges: P (R12), F, T and their agreement (R22, R24), the counters of
the Line Sense Unit (R3, R5, R6). -/
def State.figuresBounded (s : State) : Prop :=
  ∀ n, -65535 ≤ (s.line n).sense.payout ∧ (s.line n).sense.payout ≤ 65535
    ∧ (∀ f, (s.line n).tension.filtered = some f → f ≤ 65504 ∧ (s.line n).tension.reported = f / 16)
    ∧ ((s.line n).tension.filtered = none → (s.line n).tension.reported = 0)
    ∧ (s.line n).sense.invalidCount ≤ 8 ∧ (s.line n).sense.samples ≤ 8
    ∧ (s.line n).sense.hookClosed.run ≤ 7 ∧ (s.line n).sense.hookOpen.run ≤ 7
    ∧ (s.line n).sense.stowed.run ≤ 7 ∧ (s.line n).sense.driveFault.run ≤ 7

/-- Every haul inhibit is in force exactly while a fitted line within its scope has WARN or TRIP latched (R91). -/
def State.inhibitsAgree (s : State) : Prop :=
  ∀ n, (s.line n).protection.inhibit = true
    ↔ s.fitted n = true ∧ ∃ m, s.fitted m = true
        ∧ (s.table.settings.scope = .berth ∨ (s.setup m).group = (s.setup n).group)
        ∧ ((s.line m).has .warn = true ∨ (s.line m).has .trip = true)

/-- A set is in the rank order in force, each station once (R114). -/
def ranked (vesselLead : Bool) (es : List Entry) : Prop :=
  es.Pairwise fun a b => rank vesselLead a.station < rank vesselLead b.station

/-- The authority record of a group is sound: both sets in rank order, no station in both, no pending station
outranking the active holder or pending without one, every station with an entry PRESENT (R114, R119, R122). -/
def State.recordSound (s : State) (g : GroupNo) : Prop :=
  let r := s.record g
  ranked s.table.settings.vesselLead r.inService ∧ ranked s.table.settings.vesselLead r.waiting
    ∧ (∀ a ∈ r.inService, ∀ b ∈ r.waiting, a.station ≠ b.station)
    ∧ (∀ b ∈ r.waiting, ∃ h, r.holder = some h
        ∧ rank s.table.settings.vesselLead h < rank s.table.settings.vesselLead b.station)
    ∧ ∀ e ∈ r.entries, s.present e.station = true

/-- Every group's authority record is sound. -/
def State.authoritySound (s : State) : Prop := ∀ g, s.recordSound g

/-- The release queue holds no line twice, and at most one queue take is due (R137, R142). -/
def State.queueSound (s : State) : Prop :=
  s.berth.queue.Nodup ∧ s.berth.queue.length ≤ 8 ∧ s.due.count .queueTake ≤ 1

/-- A reply in transfer stands in its station's reply slot until its lane completion (R156, R157). -/
def State.repliesHeld (s : State) : Prop :=
  ∀ st o, (s.link st).outgoing = some o → o.isReply = true → (s.link st).replySlot ≠ none

/-- While no stance change waits to be taken, the berth is STOPPED exactly while some PRESENT station's validated
stance is STOP (R134). -/
def State.stoppedAgrees (s : State) : Prop :=
  (∀ st before after, DueEvent.stance st before after ∉ s.due) →
    (s.berth.stopped = true ↔ ∃ st, s.present st = true ∧ (s.link st).stance = .stop)

/-- Every profile, as written, as applied and as taken at a change of group, is one that WRITE PROFILE takes (R100,
R101), and every line setup and the stagger interval lie in their ranges (R103, R106). -/
def State.figuresValid (s : State) : Prop :=
  (∀ g, profileTaken (s.profile g) = true) ∧ (∀ n, profileTaken (s.line n).applied = true)
    ∧ (∀ n p, (s.line n).joined = some p → profileTaken p = true)
    ∧ (∀ n, (s.setup n).zeroOffset ≤ 1023 ∧ 1000 ≤ (s.setup n).capacity ∧ (s.setup n).capacity ≤ 60000)
    ∧ s.table.settings.stagger ≤ 200

/-- The store state is SAVING exactly while a save is in progress; the part then runs, and no restart is pending
(R108, R109, R111, R169). -/
def State.saveSound (s : State) : Prop :=
  (s.table.storeState = .saving ↔ s.table.saveCopy.isSome = true)
    ∧ (s.table.storeState = .saving → s.running = true ∧ s.pendingRestart = [])

/-- While the reset input is asserted the part holds its power-on values (R18, R35, R66, R98, R132, R146, R160), but for
the levels that the direction leads keep (R15). -/
def State.heldInReset (s : State) : Prop :=
  s.powered = true ∧ s.resetAsserted = true →
    (∀ n, s.line n
        = { lineAtPowerOn with sense := { lineAtPowerOn.sense with heaving := (s.line n).sense.heaving } })
      ∧ s.records = Vector.replicate 4 emptyRecord ∧ s.berth = berthAtReset ∧ s.due = [] ∧ s.links = Vector.replicate 4 linkAtPowerOn ∧ s.pendingRestart = []

end Sys2Proof.Machine
end

