-- ==== Sys2Proof/Certificates/Slice0/Obligations.lean ====
section
/-! DEFINITION. The statements for the provers.  They are read from the numbered rules of spec/; the docstring of each
names the rules, and the log entry of any choice of the model that it rests on. -/

section
open Sys2Proof Sys2Proof.Machine

/-! ### Line commands (spec/03, spec/07, spec/08, spec/10) -/

/-- The commands that start the drive outward or inward (R43, R44, R51, R54, R65).  The lines of a command are taken
independently, and the notices of the lines that change are marked for every PRESENT station; that the permission of
every line is the one before the first is taken is the model's reading (log 35).  DEPLOY takes each line named that passes
to DEPLOYING under its deploy speed, also a STOWED line that counts have carried to its deploy length, where R44 says only
that a STOWED line is taken at P = 0 and so always deploys: the model's reading, log 22; RELEASE to SLACKING under its slack speed with P0 set to P and then-rewind
recorded where the option is given; REWIND to REWINDING under its rewind speed, or to STOWED at once, with P made 0 and
referenced, where its accepted stowed position already stands ACTIVE; that its direction lead then keeps the level it had,
the negative demand of REWINDING not reaching it, is the model's choice: log 39. -/
def Obligations.DeployReleaseRewindResult : Prop :=
  ∀ (st : Station) (mask option : Byte) (s : State),
    s.accepts st = true → (s.link st).restartInd = false →
    (∃ t, exec (.deploy st mask) s = .next t
      ∧ LineCommandResult 0x20#8 st mask s t (deployOutcome s st) fun n =>
          (s.line n).placed .deploying { current := some .deploy } (s.line n).applied.deploySpeed .release .none none)
    ∧ (optionOk option = true →
        ∃ t, exec (.release st mask option) s = .next t
          ∧ LineCommandResult 0x25#8 st mask s t (releaseOutcome s st) fun n =>
              (s.line n).placed .slacking
                { current := some .release, slackStart := some (s.line n).sense.payout, thenRewind := option == 1#8 }
                (s.line n).applied.slackSpeed .release .none none)
    ∧ ∃ t, exec (.rewind st mask) s = .next t
      ∧ LineCommandResult 0x26#8 st mask s t (rewindOutcome s st) fun n =>
          if (s.line n).sense.stowed.accepted = .active then ((s.line n).idleIn .stowed).zeroed
          else (s.line n).placed .rewinding { current := some .rewind } (-(s.line n).applied.rewindSpeed) .release .none
            none

/-- The commands that make a line fast (R43, R45, R47, R65; log 35).  ENGAGE takes each OPENED line named that passes to ENGAGING
with hook demand CLOSE, its hook timer started with the hook time in force, rest-on-completion and trip deferred clear.
LOCK locks a HELD line at T of at least L, its lock mark set to P, also while the berth is STOPPED or its haul inhibit
in force; below L the line hauls, unless refused STOPPED or INHIBITED. -/
def Obligations.EngageLockResult : Prop :=
  ∀ (st : Station) (mask : Byte) (s : State),
    s.accepts st = true → (s.link st).restartInd = false →
    (∃ t, exec (.engage st mask) s = .next t
      ∧ LineCommandResult 0x21#8 st mask s t (engageOutcome s st) fun n =>
          (s.line n).placed .engaging { current := some .engage } 0 .apply .closeHook (s.line n).freshTimer)
    ∧ ∃ t, exec (.lock st mask) s = .next t
      ∧ LineCommandResult 0x22#8 st mask s t (lockOutcome s st) fun n =>
          if (s.line n).tension.reported ≥ (s.line n).applied.lock then ((s.line n).idleIn .locked).remarked
          else (s.line n).placed .hauling { current := some .lock } (-(s.line n).applied.haulSpeed) .release .none none

/-- The commands that rest a line or its record (R41, R43, R49, R50, R61, R65, R82; log 35).  HOLD takes an attached moving or
tending line to HELD, a deploying or rewinding one to OPENED, its command record discarded and its lock mark kept; MARK
makes the lock mark of a LOCKED or HELD line P and changes nothing else of it; RESET LINE derives a FAULTED line's state
from its accepted positions, its flags and lock mark kept; that a RESET LINE which derives the same cause again marks no
notice is the model's choice: log 36. -/
def Obligations.HoldMarkResetResult : Prop :=
  ∀ (st : Station) (mask : Byte) (s : State),
    s.accepts st = true → (s.link st).restartInd = false →
    (∃ t, exec (.hold st mask) s = .next t
      ∧ LineCommandResult 0x23#8 st mask s t (holdOutcome s st) fun n =>
          if (s.line n).control.state = .deploying ∨ (s.line n).control.state = .rewinding then
            (s.line n).idleIn .opened
          else (s.line n).idleIn .held)
    ∧ (∃ t, exec (.mark st mask) s = .next t
      ∧ LineCommandResult 0x24#8 st mask s t (markOutcome s st) fun n => (s.line n).remarked)
    ∧ ∃ t, exec (.resetLine st mask) s = .next t
      ∧ LineCommandResult 0x28#8 st mask s t (resetLineOutcome s st) fun n => (s.line n).derivedAs (s.fitted n)

/-- QUICK RELEASE (R140, R142): each line named that passes its tests joins the tail of the release queue in
ascending line order, and no line changes; while no entry is marked, a queue take comes due where a line joined while the
stagger timer was idle and none was due, and no authority record changes.  The list of events handed over is the
model's: log 5. -/
def Obligations.QuickReleaseResult : Prop :=
  ∀ (st : Station) (mask : Byte) (s : State),
    s.accepts st = true → (s.link st).restartInd = false →
    let named := allLines.filter fun n => mask.getLsbD n.val
    let joined := named.filter fun n => quickReleaseOutcome s st n == .done
    ∃ t, exec (.quickRelease st mask) s = .next t
      ∧ t.lines = s.lines ∧ s.sameCore t
      ∧ t.berth = { s.berth with queue := s.berth.queue ++ joined }
      ∧ (t.link st).replySlot
          = some { kind := 0x27#8, body := 0x01#8 :: mask :: named.map fun n => outcomeByte (quickReleaseOutcome s st n) }
      ∧ s.linksButReply t st ∧ (∀ x, (t.link x).lineMarks = (s.link x).lineMarks)
      ∧ (s.noSingle = true →
          t.records = s.records ∧ (∀ x, (t.link x).groupMarks = (s.link x).groupMarks)
            ∧ t.due
                = if joined ≠ [] ∧ s.berth.stagger = none ∧ DueEvent.queueTake ∉ s.due then s.due ++ [.queueTake]
                  else s.due)

/-- While the sender's restart indicator is set, every line command is refused whole: result RESTART_PENDING and that
outcome for every line named, and nothing but the reply changes (R163, R140).  That a request whose line mask is 0 is so
refused too is the model's choice: log 34. -/
def Obligations.LineCommandRestartPending : Prop :=
  ∀ (st : Station) (mask option : Byte) (s : State),
    s.accepts st = true → (s.link st).restartInd = true → optionOk option = true →
    ∀ c ∈ [(Instr.deploy st mask, 0x20#8), (.engage st mask, 0x21#8), (.lock st mask, 0x22#8), (.hold st mask, 0x23#8),
        (.mark st mask, 0x24#8), (.release st mask option, 0x25#8), (.rewind st mask, 0x26#8),
        (.quickRelease st mask, 0x27#8), (.resetLine st mask, 0x28#8)],
    ∃ t, exec c.1 s = .next t
      ∧ s.onlyReply t st
          { kind := c.2
            body := 0x0D#8 :: mask :: (allLines.filter fun n => mask.getLsbD n.val).map fun _ => 0x0D#8 }

/-- Single-command authority at the request event of a line command (R43, R123, R124, R127, R163): in each group whose active
holder is the sender by a marked entry without a watched set, and of which the command is taken for at least one line,
the watched set is the lines for which it was taken; where each of them then rests, the entry is removed and the group
re-evaluated, with its authority notice marked, and otherwise the entry keeps the set.  The records of the other groups
stand.  A group whose active holder the removal changes hands a halt to each of its fitted lines, in ascending order of
groups, behind the queue take of a QUICK RELEASE (R120, R142).  The outcomes are those of the tables of the manual, for
all nine commands.  The list of events handed over is the model's: log 5. -/
def Obligations.SingleCommandRequest : Prop :=
  ∀ (st : Station) (mask option : Byte) (s : State),
    s.accepts st = true → (s.link st).restartInd = false → s.noWatched = true → s.authoritySound →
    optionOk option = true →
    ∀ c ∈ [(Instr.deploy st mask, deployOutcome s st), (.engage st mask, engageOutcome s st),
        (.lock st mask, lockOutcome s st), (.hold st mask, holdOutcome s st), (.mark st mask, markOutcome s st),
        (.release st mask option, releaseOutcome s st), (.rewind st mask, rewindOutcome s st),
        (.resetLine st mask, resetLineOutcome s st), (.quickRelease st mask, quickReleaseOutcome s st)],
    ∃ t, exec c.1 s = .next t ∧ s.groupNoticesMarked t
      ∧ t.due
          = s.due
            ++ (if c.1 = .quickRelease st mask ∧ (∃ n : LineNo, mask.getLsbD n.val = true ∧ c.2 n = .done)
                ∧ s.berth.stagger = none ∧ DueEvent.queueTake ∉ s.due then [.queueTake] else [])
            ++ (allGroups.flatMap fun g =>
                if t.holder g = s.holder g then []
                else (allLines.filter fun n => s.fitted n && (s.setup n).group == g).map DueEvent.halt)
      ∧ ∀ g : GroupNo,
        let taken := allLines.filter fun n =>
          mask.getLsbD n.val && (c.2 n == .done || c.2 n == .noChange) && (s.setup n).group == g
        let rests := ∀ n ∈ taken,
          (t.line n).control.state
            ∉ [LineState.deploying, .engaging, .hauling, .slacking, .opening, .rewinding]
        match (s.record g).inService with
        | e :: others =>
          if e.station = st ∧ e.single = true ∧ taken ≠ [] then
            (rests → ((s.record g).lacking st).reevaluatedTo s.table.settings.vesselLead (t.record g))
              ∧ (¬rests →
                  t.record g = { s.record g with inService := { e with watched := some taken } :: others })
          else t.record g = s.record g
        | [] => t.record g = s.record g

/-- Single-command authority at a change of state of a watched line (R62, R63, R64, R93, R123, R124, R163), where one
marked entry alone watches: the entry is removed and its group re-evaluated if an event changes the state of line `n` of
its watched set and every watched line then rests, and the record stands while one of them does not, and where the state
stands.  The events are an
expiry, a halt, a STOP onset and an inhibit onset, which hand nothing else over; a queue take with line `n` at the head
of the queue, a count event and a sample event; and a later line command of any station, when a watched line was moving
before it, at which the entry keeps the watched set it has.  The group's notice is marked, and a change of the active
holder hands a halt to each fitted line of the group.  The station of the entry need no longer be active holder.  That
expiries can come as commands of their own, and before their time, and the list of events handed over, are the model's:
log 3, log 4 and log 5. -/
def Obligations.SingleCommandStateChange : Prop :=
  ∀ (n : LineNo) (g : GroupNo) (e : Entry) (watched : List LineNo) (s : State),
    let moving := [LineState.deploying, .engaging, .hauling, .slacking, .opening, .rewinding]
    let rest := fun t : State => ∀ m ∈ watched, (t.line m).control.state ∉ moving
    let removed := fun t : State =>
      ((s.record g).lacking e.station).reevaluatedTo s.table.settings.vesselLead (t.record g)
    let halted := (allLines.filter fun m => s.fitted m && (s.setup m).group == g).map DueEvent.halt
    s.running = true → s.authoritySound → e ∈ (s.record g).inService → e.single = true → e.watched = some watched →
    n ∈ watched → (∀ g', ∀ e' ∈ (s.record g').entries, e'.watched ≠ none → g' = g ∧ e' = e) →
    (∀ c ∈ [(Instr.stallExpiry n, s.due), (.hookTimerExpiry n, s.due), (.holderChangeHalt n, s.due.erase (.halt n)),
        (.stopOnset n, s.due.erase (.stopOnset n)), (.inhibitOnset n, s.due.erase (.inhibitOnset n))],
      ∃ t, exec c.1 s = .next t ∧ s.groupNoticesMarked t
        ∧ (∀ x, x ≠ g → t.record x = s.record x)
        ∧ ((t.line n).control.state ≠ (s.line n).control.state → rest t → removed t)
        ∧ ((t.line n).control.state = (s.line n).control.state ∨ ¬rest t → t.record g = s.record g)
        ∧ t.due = c.2 ++ if t.holder g = s.holder g then [] else halted)
    ∧ (∀ (sample : BitVec 12) (pins : SwitchPins) (turn : EncoderStep) (others : List LineNo),
      ∀ c ∈ [Instr.queueTake, .countEvent n turn, .sampleEvent n sample pins],
      (c = .queueTake → DueEvent.queueTake ∈ s.due ∧ s.berth.queue = n :: others ∧ s.berth.stagger = none) →
      ∃ t, exec c s = .next t ∧ s.groupNoticesMarked t
        ∧ (∀ x, x ≠ g → t.record x = s.record x)
        ∧ ((t.line n).control.state ≠ (s.line n).control.state → rest t → removed t)
        ∧ (¬rest t → t.record g = s.record g)
        ∧ ((t.line n).control.state = (s.line n).control.state →
            (c = .sampleEvent n sample pins →
              s.calmSample n sample pins = true ∧ profileTaken (s.line n).applied = true) →
            t.record g = s.record g)
        ∧ (t.holder g ≠ s.holder g → ∀ h ∈ halted, h ∈ t.due))
    ∧ ∀ (st : Station) (mask option : Byte),
      s.accepts st = true → (s.link st).restartInd = false → optionOk option = true →
      (∀ e' ∈ (s.record g).inService, e'.single = true → e' = e) →
      (∃ m ∈ watched, (s.line m).control.state ∈ moving) →
      ∀ c ∈ [Instr.deploy st mask, .engage st mask, .lock st mask, .hold st mask, .mark st mask,
          .release st mask option, .rewind st mask, .quickRelease st mask, .resetLine st mask],
      ∃ t, exec c s = .next t ∧ s.groupNoticesMarked t
        ∧ (rest t → removed t) ∧ (¬rest t → t.record g = s.record g)
        ∧ (t.holder g ≠ s.holder g → ∀ h ∈ halted, h ∈ t.due)

/-! ### Sample and count events (spec/01 to spec/06) -/

/-- A valid sample of a fitted line steps F toward 16 times the offset and clamped load by the quotient of the gap by
2^k truncated toward zero, or seeds it, and T is F divided by 16 (R21, R22, R24, R25). -/
def Obligations.ValidSampleFormsTension : Prop :=
  ∀ (n : LineNo) (sample : BitVec 12) (pins : SwitchPins) (s : State),
    s.running = true → s.fitted n = true → (s.line n).profileStands = true → sample.toNat ≠ 4095 →
    let load : Int := max 0 ((sample.toNat : Int) - (s.setup n).zeroOffset)
    ∃ t, exec (.sampleEvent n sample pins) s = .next t
      ∧ (∀ f, (s.line n).tension.filtered = some f →
          (t.line n).tension.filtered
            = some ((f : Int) + Int.tdiv (16 * load - f) (2 ^ (s.line n).applied.filterShift)).toNat)
      ∧ ((s.line n).tension.filtered = none → (t.line n).tension.filtered = some (16 * load).toNat)
      ∧ ∀ f, (t.line n).tension.filtered = some f → (t.line n).tension.reported = f / 16

/-- At an invalid sample F, the seeded flag and T keep their values, and no watch is stepped: the warn and trip watches
stand, and at settled positions so do the tending watch and, with the stall counter short of its window, the slack watch
(R20); the invalid-sample counter steps to at most 8 and a valid sample returns it to 0 (R3).  At the eighth consecutive
invalid sample of a run, and at each further one, a line at settled positions in any state but STARTING, NOT_FITTED and
FAULTED is faulted SENSOR, a SLIPPING line with return-to-faulted with the cause it carries; one already FAULTED latches
SENSOR and keeps its cause (R57, R60). -/
def Obligations.InvalidSampleEffects : Prop :=
  ∀ (n : LineNo) (sample : BitVec 12) (pins : SwitchPins) (s : State),
    let l := s.line n
    s.running = true → s.fitted n = true → l.profileStands = true →
    ∃ t, exec (.sampleEvent n sample pins) s = .next t
      ∧ (sample.toNat = 4095 →
          (t.line n).tension.filtered = l.tension.filtered
            ∧ (t.line n).tension.reported = l.tension.reported
            ∧ (t.line n).protection.warnWatch = l.protection.warnWatch
            ∧ (t.line n).protection.tripWatch = l.protection.tripWatch
            ∧ (t.line n).sense.invalidCount = min (l.sense.invalidCount + 1) 8)
      ∧ (sample.toNat ≠ 4095 → (t.line n).sense.invalidCount = 0)
      ∧ (sample.toNat = 4095 → l.sense.invalidCount < 7 → l.sense.settled pins = true →
          (t.line n).tension = l.tension
            ∧ (l.control.state = .slacking → l.control.stallCounter + 1 < l.applied.stallWindow →
                (t.line n).control.state = .slacking ∧ (t.line n).control.slackWatch = l.control.slackWatch))
      ∧ (sample.toNat = 4095 → 7 ≤ l.sense.invalidCount → l.sense.settled pins = true →
          (l.control.state ∉ [LineState.starting, .notFitted, .slipping, .faulted] →
            (t.line n).control = (l.faultedBy .sensor .sensor).control)
          ∧ (l.control.state = .slipping →
              (t.line n).control = (l.faultedBy (l.control.record.returnTo.getD .sensor) .sensor).control)
          ∧ (l.control.state = .faulted →
              (t.line n).control.state = .faulted ∧ (t.line n).control.cause = l.control.cause
                ∧ (t.line n).control.flags = l.control.flags ||| Flag.sensor.mask))

/-- Each switch input of a fitted line is debounced on its own: a known position stands until the eighth consecutive
sample at the other level, and an unknown one is established at the eighth sample after a reset; the accepted hook
position follows the two hook switches (R5, R6, R7). -/
def Obligations.SwitchesDebounced : Prop :=
  ∀ (n : LineNo) (sample : BitVec 12) (pins : SwitchPins) (s : State),
    s.running = true → s.fitted n = true →
    let u := (s.line n).sense
    let debounced := fun (w : Switch) (level : Accepted) (w' : Switch) =>
      (w.accepted = .unknown → w'.run = 0 ∧ w'.accepted = if u.samples = 7 then level else .unknown)
        ∧ (w.accepted ≠ .unknown → level = w.accepted → w' = { accepted := w.accepted, run := 0 })
        ∧ (w.accepted ≠ .unknown → level ≠ w.accepted → w.run < 7 → w' = { accepted := w.accepted, run := w.run + 1 })
        ∧ (w.accepted ≠ .unknown → level ≠ w.accepted → w.run = 7 → w' = { accepted := level, run := 0 })
    let level := fun p : PinLevel => match p with | .low => Accepted.active | .high => Accepted.inactive
    ∃ t, exec (.sampleEvent n sample pins) s = .next t
      ∧ debounced u.hookClosed (level pins.hookClosed) (t.line n).sense.hookClosed
      ∧ debounced u.hookOpen (level pins.hookOpen) (t.line n).sense.hookOpen
      ∧ debounced u.stowed (level pins.stowed) (t.line n).sense.stowed
      ∧ debounced u.driveFault (level pins.driveFault) (t.line n).sense.driveFault
      ∧ (t.line n).sense.samples = min (u.samples + 1) 8
      ∧ (t.line n).sense.hook
          = match (t.line n).sense.hookClosed.accepted, (t.line n).sense.hookOpen.accepted with
            | .active, .inactive => .closed
            | .inactive, .active => .opened
            | .inactive, .inactive => .moving
            | .active, .active => .invalid
            | _, _ => .unknown

/-- STARTING and NOT_FITTED at a sample event.  Each of the first seven samples of STARTING of a fitted line counts up by
one, and the line stays in STARTING under idle demands with its lock mark.  Of a line that is not fitted nothing is taken from its pins: its sense,
tension and protection items stand; in STARTING the close counts it, and at the eighth derives NOT_FITTED (R17, R40, R41).
For a fitted line the eighth sample of STARTING ends it: its state is derived from the positions established at that same
sample, its lock mark kept (R6, R40, R41). -/
def Obligations.StartingAndUnfittedSamples : Prop :=
  ∀ (n : LineNo) (sample : BitVec 12) (pins : SwitchPins) (s : State),
    let l := s.line n
    s.running = true →
    (s.fitted n = false → l.control.state = .starting ∨ l.control.state = .notFitted →
      ∃ t, exec (.sampleEvent n sample pins) s = .next t
        ∧ (t.line n).sense = l.sense ∧ (t.line n).tension = l.tension ∧ (t.line n).protection = l.protection
        ∧ (l.control.state = .starting → l.control.startingCount < 7 →
            (t.line n).control.state = .starting ∧ (t.line n).control.startingCount = l.control.startingCount + 1)
        ∧ (l.control.state = .starting → 7 ≤ l.control.startingCount →
            (t.line n).control = (l.idleIn .notFitted).control)
        ∧ (l.control.state = .notFitted → (t.line n).control.state = .notFitted))
    ∧ (s.fitted n = true → l.control.state = .starting → l.control.startingCount < 7 →
      ∃ t, exec (.sampleEvent n sample pins) s = .next t
        ∧ (t.line n).control.state = .starting ∧ (t.line n).control.startingCount = l.control.startingCount + 1
        ∧ (t.line n).control.lockMark = l.control.lockMark ∧ (t.line n).control.drive = l.control.drive
        ∧ (t.line n).control.brake = l.control.brake ∧ (t.line n).control.hookDemand = l.control.hookDemand)
    ∧ (s.fitted n = true → l.control.state = .starting → l.control.startingCount = 7 → l.sense.samples = 7 →
      l.sense.hookClosed.accepted = .unknown → l.sense.hookOpen.accepted = .unknown →
      l.sense.stowed.accepted = .unknown → l.sense.driveFault.accepted = .unknown →
      ∃ t, exec (.sampleEvent n sample pins) s = .next t
        ∧ (t.line n).control.state
            = (match pins with
              | { driveFault := .low, .. } => LineState.faulted
              | { stowed := .low, hookClosed := .high, hookOpen := .low, .. } => .stowed
              | { stowed := .high, hookClosed := .high, hookOpen := .low, .. } => .opened
              | { stowed := .high, hookClosed := .low, hookOpen := .high, .. } => .held
              | _ => .faulted)
        ∧ (pins.driveFault = .low → (t.line n).control.cause = some .drive ∧ (t.line n).has .drive = true)
        ∧ ((t.line n).control.state = .stowed → (t.line n).sense.payout = 0 ∧ (t.line n).sense.referenced = true)
        ∧ (t.line n).control.lockMark = l.control.lockMark)

/-- The sample event of one line: no other line changes but for its record of its haul inhibit, and the supply, the
Group Table and the pending restart stand (R19, R92); the release queue changes at an ENGAGING completion alone
(R141).  A change of the line that R65 names marks its notice for every PRESENT station, and no other line's notice is
marked; while no entry is marked, the authority records and their notices stand.  While the part does not run nothing changes
(R18); that this holds of a part without its supply too is the model's reading: log 6. -/
def Obligations.SampleEventFrame : Prop :=
  ∀ (n : LineNo) (sample : BitVec 12) (pins : SwitchPins) (s : State),
    ∃ t, exec (.sampleEvent n sample pins) s = .next t
      ∧ (∀ m, m ≠ n →
          t.line m
            = { s.line m with protection := { (s.line m).protection with inhibit := (t.line m).protection.inhibit } })
      ∧ s.sameCore t ∧ s.linksButMarks t
      ∧ (∀ (x : Station) (m : LineNo),
          (m ≠ n → (t.link x).lineMarks[m] = (s.link x).lineMarks[m])
            ∧ ((s.link x).lineMarks[m] = true → (t.link x).lineMarks[m] = true)
            ∧ (s.present x = true → (s.line m).noticeDue (t.line m) → (t.link x).lineMarks[m] = true)
            ∧ (s.present x = false → (t.link x).lineMarks[m] = (s.link x).lineMarks[m]))
      ∧ (s.noSingle = true → t.records = s.records ∧ ∀ x, (t.link x).groupMarks = (s.link x).groupMarks)
      ∧ ((s.line n).control.state ≠ .engaging → t.berth = s.berth)
      ∧ (s.running = false → t = s)

/-- Tending of a LOCKED line (R29, R31, R69, R70, R71, R73): while a direction's condition holds, the watch counts
toward its dwell; where it fires or stands, the line enters RENDERING within the render limit, and RECOVERING
within the recover limit unless its haul inhibit is in force or the berth STOPPED; a firing at a failing limit latches
ALLOW; a blocked entry leaves the watch at its dwell.  At the sample the trip watch neither fires nor
stands (R86); where it latches WARN, that flag is there beside those named. -/
def Obligations.TendingEntry : Prop :=
  ∀ (n : LineNo) (sample : BitVec 12) (pins : SwitchPins) (s : State) (mark : Int),
    let l := s.line n
    let p := l.applied
    let T := s.reportedNext n sample
    let e := l.sense.payout - mark
    let count := fun d : TendDir => (if l.tension.tendDir = some d then l.tension.tendCount else 0) + 1
    s.plainSample n sample pins = true →
    (l.has .warn = true → T ≤ p.trip ∨ l.protection.tripWatch + 1 < p.tripDwell) → profileTaken p = true →
    l.control.state = .locked →
    l.control.lockMark = some mark →
    (l.tension.tendDir = some .render → l.tension.tendCount ≤ p.renderDwell) →
    (l.tension.tendDir = some .recover → l.tension.tendCount ≤ p.recoverDwell) →
    ∃ t, exec (.sampleEvent n sample pins) s = .next t
      ∧ let warned := fun f : BitVec 10 => if (t.line n).has .warn = true then f ||| Flag.warn.mask else f
        (T ≤ p.warn → (t.line n).has .warn = l.has .warn)
      ∧ (p.recover ≤ T → T ≤ p.render →
          (t.line n).control.state = .locked ∧ (t.line n).tension.tendDir = none
            ∧ (t.line n).tension.tendCount = 0 ∧ (t.line n).control.flags = l.control.flags)
      ∧ (p.render < T → count .render < p.renderDwell →
          (t.line n).control.state = .locked ∧ (t.line n).tension.tendDir = some .render
            ∧ (t.line n).tension.tendCount = count .render ∧ (t.line n).control.flags = warned l.control.flags)
      ∧ (p.render < T → p.renderDwell ≤ count .render → e < p.allowance →
          (t.line n).control
              = { (l.placed .rendering {} 0 .slip .none none).control with flags := warned l.control.flags }
            ∧ (t.line n).tension.tendDir = none ∧ (t.line n).tension.tendCount = 0)
      ∧ (p.render < T → p.renderDwell ≤ count .render → p.allowance ≤ e →
          (t.line n).control.state = .locked ∧ (t.line n).tension.tendDir = some .render
            ∧ (t.line n).tension.tendCount = p.renderDwell
            ∧ (t.line n).control.flags
                = warned (if count .render = p.renderDwell then l.control.flags ||| Flag.allow.mask else l.control.flags))
      ∧ (T < p.recover → count .recover < p.recoverDwell →
          (t.line n).control.state = .locked ∧ (t.line n).tension.tendDir = some .recover
            ∧ (t.line n).tension.tendCount = count .recover ∧ (t.line n).control.flags = l.control.flags)
      ∧ (T < p.recover → p.recoverDwell ≤ count .recover → -(p.allowance : Int) < e →
          l.protection.inhibit = false → s.berth.stopped = false →
          (t.line n).control.state = .recovering ∧ (t.line n).control.drive = -(p.recoverSpeed : Int)
            ∧ (t.line n).control.brake = .release ∧ (t.line n).control.lockMark = some mark
            ∧ (t.line n).control.flags = l.control.flags)
      ∧ (T < p.recover → p.recoverDwell ≤ count .recover →
          e ≤ -(p.allowance : Int) ∨ l.protection.inhibit = true ∨ s.berth.stopped = true →
          (t.line n).control.state = .locked ∧ (t.line n).tension.tendDir = some .recover
            ∧ (t.line n).tension.tendCount = p.recoverDwell
            ∧ (t.line n).control.flags
                = if count .recover = p.recoverDwell ∧ e ≤ -(p.allowance : Int) then
                    l.control.flags ||| Flag.allow.mask
                  else l.control.flags)

/-- What a tension report and the close that follows it do to a line that is not LOCKED (R39, R44, R48, R52, R56, R59, R76,
R79, R86, R89), at a sample at which the trip watch neither fires nor stands; first with the stall counter short of its window: a HAULING line
at T of at least L locks with its mark set to P; a RENDERING line at T of at most Hh and a RECOVERING line at T of at
least L go back to LOCKED; a DEPLOYING or REWINDING line above the snag threshold is faulted SNAG, and goes on at or below
it; a DEPLOYING line at or beyond the deploy length rests OPENED; a SLACKING line whose slack watch reaches its dwell,
having paid out the slack length, goes to OPENING; a SLIPPING line at T of at most W goes to HELD, or back to FAULTED with
the cause it carries, and goes on slipping above W; a HELD, STOWED, OPENED, ENGAGING, OPENING or FAULTED line stands.  A close
that brings the counter to its window, at a valid sample or an invalid one, faults a line STALL that is still drive-powered
then, the deploy length test and the tension report having come first.  Where the sample latches WARN, that flag is there
beside those named.  That an OPENING line stands also at an accepted position that was OPEN at its entry is the model's
reading: log 37. -/
def Obligations.TensionReportEffects : Prop :=
  ∀ (n : LineNo) (sample : BitVec 12) (pins : SwitchPins) (s : State),
    let l := s.line n
    let p := l.applied
    let T := s.reportedNext n sample
    let warned := fun (t : State) (c : Control) =>
      { c with flags := if (t.line n).has .warn = true then c.flags ||| Flag.warn.mask else c.flags }
    (s.plainSample n sample pins = true →
    (l.has .warn = true → T ≤ p.trip ∨ l.protection.tripWatch + 1 < p.tripDwell) → profileTaken p = true →
    l.control.stallCounter + 1 < p.stallWindow →
    ∃ t, exec (.sampleEvent n sample pins) s = .next t
      ∧ (T ≤ p.warn → (t.line n).has .warn = l.has .warn)
      ∧ (l.control.state = .hauling → p.lock ≤ T →
          (t.line n).control = warned t ((l.idleIn .locked).remarked).control)
      ∧ (l.control.state = .hauling → T < p.lock →
          (t.line n).control
            = { l.control with
                stallCounter := l.control.stallCounter + 1, hookTimer := (t.line n).control.hookTimer })
      ∧ (l.control.state = .rendering → T ≤ p.hold → (t.line n).control = (l.idleIn .locked).control)
      ∧ (l.control.state = .rendering → p.hold < T → (t.line n).control.state = .rendering)
      ∧ (l.control.state = .recovering → p.lock ≤ T → (t.line n).control = warned t (l.idleIn .locked).control)
      ∧ (l.control.state = .recovering → T < p.lock →
          (t.line n).control.state = .recovering ∧ (t.line n).control.stallCounter = l.control.stallCounter + 1)
      ∧ (l.control.state = .deploying ∨ l.control.state = .rewinding → p.snag < T →
          (t.line n).control = warned t (l.faultedBy .snag .snag).control)
      ∧ ((l.control.state = .deploying ∧ l.sense.payout < p.deployLength) ∨ l.control.state = .rewinding → T ≤ p.snag →
          (t.line n).control
            = { l.control with
                stallCounter := l.control.stallCounter + 1, hookTimer := (t.line n).control.hookTimer })
      ∧ (l.control.state = .deploying → T ≤ p.snag → (p.deployLength : Int) ≤ l.sense.payout →
          (t.line n).control = (l.idleIn .opened).control)
      ∧ (∀ start, l.control.state = .slacking → l.control.record.slackStart = some start → T ≤ p.slack →
          l.control.slackWatch ≤ p.slackDwell →
          if p.slackDwell ≤ l.control.slackWatch + 1 ∧ (p.slackLength : Int) ≤ l.sense.payout - start then
            (t.line n).control
              = (l.placed .opening
                  { current := l.control.record.current, thenRewind := l.control.record.thenRewind }
                  0 .apply .openHook l.freshTimer).control
          else
            (t.line n).control.state = .slacking
              ∧ (t.line n).control.slackWatch = min (l.control.slackWatch + 1) p.slackDwell)
      ∧ (l.control.state = .slacking → p.slack < T →
          (t.line n).control.state = .slacking ∧ (t.line n).control.slackWatch = 0)
      ∧ (l.control.state = .slipping → T ≤ p.warn → l.control.record.returnTo = none →
          (t.line n).control = (l.idleIn .held).control)
      ∧ (∀ c, l.control.state = .slipping → T ≤ p.warn → l.control.record.returnTo = some c →
          (t.line n).control.state = .faulted ∧ (t.line n).control.cause = some c
            ∧ (t.line n).control.flags = l.control.flags ∧ (t.line n).control.brake = .apply)
      ∧ (l.control.state ∈ [LineState.held, .stowed, .opened, .engaging, .opening, .faulted]
            ∨ (l.control.state = .slipping ∧ p.warn < T) →
          (t.line n).control = { warned t l.control with hookTimer := (t.line n).control.hookTimer }))
    ∧ (s.plainSample n sample pins = true →
      (l.has .warn = true → T ≤ p.trip ∨ l.protection.tripWatch + 1 < p.tripDwell) → profileTaken p = true →
      p.stallWindow ≤ l.control.stallCounter + 1 →
      ∃ t, exec (.sampleEvent n sample pins) s = .next t
        ∧ (l.control.state = .hauling → p.lock ≤ T →
            (t.line n).control = warned t ((l.idleIn .locked).remarked).control)
        ∧ (l.control.state = .recovering → p.lock ≤ T → (t.line n).control = warned t (l.idleIn .locked).control)
        ∧ (l.control.state = .hauling ∨ l.control.state = .recovering → T < p.lock →
            (t.line n).control = (l.faultedBy .stall .stall).control)
        ∧ (l.control.state = .rewinding → T ≤ p.snag → (t.line n).control = (l.faultedBy .stall .stall).control)
        ∧ (l.control.state = .slacking → p.slack < T →
            (t.line n).control = warned t (l.faultedBy .stall .stall).control)
        ∧ (∀ start, l.control.state = .slacking → l.control.record.slackStart = some start → T ≤ p.slack →
            l.control.slackWatch ≤ p.slackDwell →
            (t.line n).control
              = if p.slackDwell ≤ l.control.slackWatch + 1 ∧ (p.slackLength : Int) ≤ l.sense.payout - start then
                  (l.placed .opening
                    { current := l.control.record.current, thenRewind := l.control.record.thenRewind }
                    0 .apply .openHook l.freshTimer).control
                else (l.faultedBy .stall .stall).control)
        ∧ (l.control.state = .deploying → T ≤ p.snag → l.sense.payout < p.deployLength →
            (t.line n).control = (l.faultedBy .stall .stall).control)
        ∧ (l.control.state = .deploying → T ≤ p.snag → (p.deployLength : Int) ≤ l.sense.payout →
            (t.line n).control = (l.idleIn .opened).control)
        ∧ (l.control.state = .deploying ∨ l.control.state = .rewinding → p.snag < T →
            (t.line n).control = warned t (l.faultedBy .snag .snag).control))
    ∧ (s.running = true → s.fitted n = true → l.profileStands = true → l.sense.settled pins = true →
      l.sense.invalidCount < 7 → sample.toNat = 4095 → p.stallWindow ≤ l.control.stallCounter + 1 →
      ∃ t, exec (.sampleEvent n sample pins) s = .next t
        ∧ (l.control.state ∈ [LineState.hauling, .recovering, .slacking, .rewinding]
              ∨ (l.control.state = .deploying ∧ l.sense.payout < p.deployLength) →
            (t.line n).control = (l.faultedBy .stall .stall).control))

/-- A hook position becomes accepted (R45, R46, R53, R54, R57, R58), at an invalid sample so that no tension is tested: an
ENGAGING line whose hook is accepted CLOSED goes to SLIPPING where a trip was deferred, rests HELD where the berth is
STOPPED, its inhibit in force, rest-on-completion set or a release-all in progress, and otherwise hauls; an OPENING line
whose hook is accepted OPEN rewinds where then-rewind stands and nothing forbids it, or is STOWED at once at an ACTIVE
stowed position, and is OPENED otherwise; CLOSED or INVALID faults a STOWED, OPENED, DEPLOYING or REWINDING line HOOK,
INVALID an ENGAGING or OPENING one, and leaving CLOSED an attached one, a SLIPPING line with return-to-faulted with the
cause it carries; of a FAULTED line it latches HOOK and the first cause stays.  A STOWED, OPENED, DEPLOYING, REWINDING,
ENGAGING or OPENING line stands at any other position.  The completing ENGAGING line joins the tail of the release queue
while a release-all is in progress, unless it is queued already, and a queue take comes due where it joins while the
stagger timer is idle (R137, R141, R142); nothing else of the berth changes.  The list of events handed over is the
model's, log 5.  That a REWINDING line is faulted also where the same report makes its stowed position ACTIVE is the
model's reading: log 18; so is that a position which becomes known is a change of it: log 27. -/
def Obligations.HookPositionEffects : Prop :=
  ∀ (n : LineNo) (pins : SwitchPins) (s : State),
    let l := s.line n
    let x := l.control.state
    let sensed := l.sense.sampleSwitches pins
    let after := sensed.hook
    let rests := s.berth.stopped || l.protection.inhibit || l.control.record.restOnCompletion || s.berth.releaseAll
    let rewinds := l.control.record.thenRewind && !s.berth.stopped && !s.berth.releaseAll
      && !l.control.record.restOnCompletion
    let joins := x == .engaging && after == .closed && s.berth.releaseAll && !s.berth.queue.contains n
    s.running = true → s.fitted n = true → l.profileStands = true → l.sense.invalidCount < 7 → after ≠ l.sense.hook →
    PinLevel.reading pins.driveFault = l.sense.driveFault.accepted → profileTaken l.applied = true →
    ∃ t, exec (.sampleEvent n 4095#12 pins) s = .next t
      ∧ (x = .engaging → after = .closed → l.control.record.tripDeferred = true →
          (t.line n).control = (l.placed .slipping {} 0 .slip .none none).control)
      ∧ (x = .engaging → after = .closed → l.control.record.tripDeferred = false → rests = true →
          (t.line n).control = (l.idleIn .held).control)
      ∧ (x = .engaging → after = .closed → l.control.record.tripDeferred = false → rests = false →
          (t.line n).control.state = .hauling ∧ (t.line n).control.record = { current := l.control.record.current }
            ∧ (t.line n).control.drive = -(l.applied.haulSpeed : Int) ∧ (t.line n).control.hookDemand = .none)
      ∧ t.berth = { s.berth with queue := if joins = true then s.berth.queue ++ [n] else s.berth.queue }
      ∧ (DueEvent.queueTake ∈ t.due ↔ DueEvent.queueTake ∈ s.due ∨ (joins = true ∧ s.berth.stagger = none))
      ∧ (s.noSingle = true →
          t.due
            = s.due ++ if joins = true ∧ s.berth.stagger = none ∧ DueEvent.queueTake ∉ s.due then [.queueTake] else [])
      ∧ (x = .opening → after = .opened → rewinds = false → (t.line n).control = (l.idleIn .opened).control)
      ∧ (x = .opening → after = .opened → rewinds = true → sensed.stowed.accepted = .active →
          (t.line n).control = (l.idleIn .stowed).control
            ∧ (t.line n).sense.payout = 0 ∧ (t.line n).sense.referenced = true)
      ∧ (x = .opening → after = .opened → rewinds = true → sensed.stowed.accepted ≠ .active →
          (t.line n).control.state = .rewinding ∧ (t.line n).control.record = { current := l.control.record.current }
            ∧ (t.line n).control.drive = -(l.applied.rewindSpeed : Int) ∧ (t.line n).control.brake = .release
            ∧ (t.line n).control.hookDemand = .none ∧ (t.line n).control.hookTimer = none)
      ∧ (x ∈ [LineState.stowed, .opened, .deploying, .rewinding] → after = .closed ∨ after = .invalid →
          (t.line n).control = (l.faultedBy .hook .hook).control)
      ∧ (x = .engaging ∨ x = .opening → after = .invalid → (t.line n).control = (l.faultedBy .hook .hook).control)
      ∧ (x = .stowed ∨ x = .opened → l.control.hookTimer = none → after ≠ .closed → after ≠ .invalid →
          (t.line n).control = l.control)
      ∧ (x = .engaging ∧ after ≠ .closed ∨ x = .opening ∧ after ≠ .opened → after ≠ .invalid →
          (t.line n).control.state = x ∧ (t.line n).control.record = l.control.record
            ∧ (t.line n).control.flags = l.control.flags)
      ∧ (x ∈ [LineState.hauling, .locked, .rendering, .recovering, .held, .slacking] → l.sense.hook = .closed →
          (t.line n).control = (l.faultedBy .hook .hook).control)
      ∧ (x = .slipping → l.sense.hook = .closed →
          (t.line n).control = (l.faultedBy (l.control.record.returnTo.getD .hook) .hook).control)
      ∧ (x = .faulted → l.control.hookTimer = none →
          (l.sense.hook = .closed →
              (t.line n).control = { l.control with flags := l.control.flags ||| Flag.hook.mask })
          ∧ (l.sense.hook ≠ .closed → (t.line n).control = l.control))
      ∧ (x = .deploying ∨ (x = .rewinding ∧ (sensed.stowed.accepted = .active → l.sense.stowed.accepted = .active)) →
          after ≠ .closed → after ≠ .invalid → l.control.stallCounter + 1 < l.applied.stallWindow →
          (x = .deploying → l.sense.payout < l.applied.deployLength) →
          (t.line n).control.state = x ∧ (t.line n).control.record = l.control.record
            ∧ (t.line n).control.flags = l.control.flags ∧ (t.line n).control.drive = l.control.drive
            ∧ (t.line n).control.stallCounter = l.control.stallCounter + 1)

/-- The stowed and the drive-fault input become ACTIVE at a sample event (R8, R9, R13, R54, R60), at an invalid sample that
changes no hook position.  A stowed position that becomes accepted ACTIVE takes a REWINDING line to STOWED, with P made 0
and referenced, and changes the state of no other line.  A drive-fault input that becomes accepted ACTIVE faults a line
DRIVE, a SLIPPING one with return-to-faulted with the cause it carries; of a FAULTED line it latches DRIVE and the first
cause stays, and in STARTING it latches DRIVE alone.  Where one report names both, a REWINDING line has been referenced
before it is faulted.  That an OPENING line keeps its state also at an accepted hook position that was OPEN at its entry is
the model's reading: log 37. -/
def Obligations.StowedAndDriveReports : Prop :=
  ∀ (n : LineNo) (pins : SwitchPins) (s : State),
    let l := s.line n
    let x := l.control.state
    let sensed := l.sense.sampleSwitches pins
    let arrives := sensed.stowed.accepted = .active ∧ l.sense.stowed.accepted ≠ .active
    let fails := sensed.driveFault.accepted = .active ∧ l.sense.driveFault.accepted ≠ .active
    s.running = true → s.fitted n = true → l.profileStands = true → l.sense.invalidCount < 7 →
    sensed.hook = l.sense.hook →
    ∃ t, exec (.sampleEvent n 4095#12 pins) s = .next t
      ∧ (arrives → x = .rewinding →
          (t.line n).sense.payout = 0 ∧ (t.line n).sense.referenced = true
            ∧ (¬fails → (t.line n).control = (l.idleIn .stowed).control))
      ∧ (x ≠ .rewinding → ¬fails → l.control.stallCounter + 1 < l.applied.stallWindow →
          (x = .deploying → l.sense.payout < l.applied.deployLength) → (x = .starting → l.control.startingCount < 7) →
          (t.line n).control.state = x ∧ (t.line n).control.flags = l.control.flags
            ∧ (t.line n).sense.payout = l.sense.payout ∧ (t.line n).sense.referenced = l.sense.referenced)
      ∧ (fails → x ∉ [LineState.starting, .notFitted, .slipping, .faulted] →
          (t.line n).control = (l.faultedBy .drive .drive).control)
      ∧ (fails → x = .slipping →
          (t.line n).control = (l.faultedBy (l.control.record.returnTo.getD .drive) .drive).control)
      ∧ (fails → x = .faulted → l.control.hookTimer = none →
          (t.line n).control = { l.control with flags := l.control.flags ||| Flag.drive.mask })
      ∧ (fails → x = .starting → l.control.startingCount < 7 →
          (t.line n).control.state = .starting ∧ (t.line n).control.flags = l.control.flags ||| Flag.drive.mask)

/-- The warn watch of a line whose WARN is clear (R29, R84, R85, R92): it counts the valid samples above W, WARN latches at
the sample at which it reaches its dwell, and the trip watch stands at 0; every line within its scope is then inhibited,
and an inhibit onset is handed to each other line whose inhibit that brings into force, in ascending order of lines.  The
list of events handed over is the model's: log 5. -/
def Obligations.WarnWatch : Prop :=
  ∀ (n : LineNo) (sample : BitVec 12) (pins : SwitchPins) (s : State),
    let l := s.line n
    let T := s.reportedNext n sample
    s.running = true → s.fitted n = true → l.profileStands = true → sampleValid sample = true →
    l.has .warn = false → l.protection.warnWatch < l.applied.warnDwell →
    ∃ t, exec (.sampleEvent n sample pins) s = .next t
      ∧ (t.line n).protection.tripWatch = 0
      ∧ (T ≤ l.applied.warn → (t.line n).has .warn = false ∧ (t.line n).protection.warnWatch = 0)
      ∧ (l.applied.warn < T → l.protection.warnWatch + 1 < l.applied.warnDwell →
          (t.line n).has .warn = false ∧ (t.line n).protection.warnWatch = l.protection.warnWatch + 1)
      ∧ (l.applied.warn < T → l.protection.warnWatch + 1 = l.applied.warnDwell →
          (t.line n).has .warn = true ∧ (t.line n).protection.warnWatch = 0
            ∧ (l.protection.inhibit = false →
                (t.line n).control.state ≠ .hauling ∧ (t.line n).control.state ≠ .recovering)
            ∧ ∀ m, s.fitted m = true →
                s.table.settings.scope = .berth ∨ (s.setup m).group = (s.setup n).group →
                (t.line m).protection.inhibit = true)
      ∧ (l.applied.warn < T → l.protection.warnWatch + 1 = l.applied.warnDwell → s.inhibitsAgree → s.noWatched = true →
          l.sense.settled pins = true →
          t.due
            = s.due ++ (allLines.filter fun m =>
                m != n && s.fitted m && !(s.line m).protection.inhibit
                  && (s.table.settings.scope == .berth || (s.setup m).group == (s.setup n).group)).map
                DueEvent.inhibitOnset)

/-- The trip watch and the trip report of a line whose WARN is latched (R29, R86, R87, R88), at a valid sample: T of at most X
returns the watch to 0, and the watch counts the samples above X.  Where it reaches or stands at its dwell, TRIP latches in
every state: a hauling, tending, held or slacking line slips its brake with its command record discarded, as does a FAULTED
line with its hook CLOSED, which carries its cause; an ENGAGING line records that the slip is deferred; a STARTING, STOWED,
OPENED, OPENING or SLIPPING line stands, and so does a FAULTED one with its hook not CLOSED; a DEPLOYING or REWINDING line
has been faulted SNAG by the tension report of the same sample (R59), and with its hook not CLOSED stands so.  Otherwise no
line comes to slip and TRIP stands, and a line in a state that no tension report leaves keeps its record.  That an OPENING
line stands also at an accepted position that was OPEN at its entry is the model's reading: log 37. -/
def Obligations.TripReport : Prop :=
  ∀ (n : LineNo) (sample : BitVec 12) (pins : SwitchPins) (s : State),
    let l := s.line n
    let x := l.control.state
    let p := l.applied
    let T := s.reportedNext n sample
    let fires := p.trip < T ∧ p.tripDwell ≤ l.protection.tripWatch + 1
    s.plainSample n sample pins = true → profileTaken p = true → l.has .warn = true →
    l.protection.tripWatch ≤ p.tripDwell →
    ∃ t, exec (.sampleEvent n sample pins) s = .next t
      ∧ (t.line n).protection.warnWatch = 0
      ∧ (T ≤ p.trip → (t.line n).protection.tripWatch = 0)
      ∧ (p.trip < T → (t.line n).protection.tripWatch = min (l.protection.tripWatch + 1) p.tripDwell)
      ∧ (¬fires → (t.line n).has .trip = l.has .trip ∧ (x ≠ .slipping → (t.line n).control.state ≠ .slipping))
      ∧ (¬fires →
          x ∈ [LineState.held, .stowed, .opened, .engaging, .opening, .faulted] ∨ (x = .slipping ∧ p.warn < T) →
          (t.line n).control = { l.control with hookTimer := (t.line n).control.hookTimer })
      ∧ (fires → (t.line n).has .trip = true)
      ∧ (fires → x ∈ [LineState.hauling, .locked, .rendering, .recovering, .held, .slacking] →
          (t.line n).control.state = .slipping ∧ (t.line n).control.record = {} ∧ (t.line n).control.drive = 0
            ∧ (t.line n).control.brake = .slip ∧ (t.line n).control.hookDemand = .none
            ∧ (t.line n).control.cause = none)
      ∧ (∀ c, fires → x = .faulted → l.control.cause = some c → l.sense.hook = .closed →
          (t.line n).control.state = .slipping ∧ (t.line n).control.record = { returnTo := some c }
            ∧ (t.line n).control.cause = none)
      ∧ (fires → x = .engaging →
          (t.line n).control.state = .engaging ∧ (t.line n).control.record.tripDeferred = true)
      ∧ (fires → x ∈ [LineState.stowed, .opened, .opening, .slipping] ∨ (x = .faulted ∧ l.sense.hook ≠ .closed) →
          (t.line n).control
            = { l.control with
                flags := l.control.flags ||| Flag.trip.mask, hookTimer := (t.line n).control.hookTimer })
      ∧ (fires → x = .starting → l.control.startingCount < 7 → (t.line n).control.state = .starting)
      ∧ (fires → x = .deploying ∨ x = .rewinding → l.sense.hook ≠ .closed →
          (t.line n).control
            = { (l.faultedBy .snag .snag).control with
                flags := (l.control.flags ||| Flag.snag.mask) ||| Flag.trip.mask })

/-- A waiting profile write is applied at the start of the line's next sample event (R26, R83, R102): the applied
profile becomes the group's, and a RENDERING or RECOVERING line outside the new allowance is LOCKED with ALLOW
latched; a drive-powered line takes the new speed.  The profile that a line took at a change of its group comes into use
at its next sample event, and returns no watch to 0 (R27, R105; log 23).  The whole of the sample uses the new figures: at
every sample and at every switch reading the event does to the line what it does to one that already works by the new
profile, its watches at 0 and its drive demand at the new speed, or LOCKED with ALLOW where the allowance ends its tending.
So at a valid sample F is stepped by the new k, and the watch of the Protection Unit counts anew from the new thresholds and
dwells. -/
def Obligations.ProfileApplied : Prop :=
  ∀ (n : LineNo) (pins : SwitchPins) (s : State),
    let l := s.line n
    let p := s.profile (s.setup n).group
    let speed : Profile → Int := fun p =>
      match l.control.state with
      | .deploying => p.deploySpeed
      | .slacking => p.slackSpeed
      | .hauling => -p.haulSpeed
      | .recovering => -p.recoverSpeed
      | .rewinding => -p.rewindSpeed
      | _ => l.control.drive
    let driven := fun (p : Profile) (m : Line) =>
      { m with
        sense :=
          if l.control.state ∈ [LineState.deploying, .slacking, .hauling, .recovering, .rewinding] ∧ speed p ≠ 0 then
            { l.sense with heaving := decide (speed p < 0) }
          else l.sense
        control := { m.control with drive := speed p } }
    let fresh : Line :=
      { l with
        tension := { l.tension with tendDir := none, tendCount := 0 }
        protection := { l.protection with warnWatch := 0, tripWatch := 0 }
        control := { l.control with slackWatch := 0 }
        applied := p
        profileDue := false
        joined := none }
    let ends := ∃ mark, l.control.lockMark = some mark
      ∧ ((l.control.state = .rendering ∧ (p.allowance : Int) ≤ l.sense.payout - mark)
        ∨ (l.control.state = .recovering ∧ l.sense.payout - mark ≤ -(p.allowance : Int)))
    s.running = true → s.fitted n = true →
    (∀ (sample : BitVec 12) (levels : SwitchPins),
      (∀ q, l.profileDue = false → l.joined = some q →
        exec (.sampleEvent n sample levels) s
          = exec (.sampleEvent n sample levels) (s.putLine n (driven q { l with applied := q, joined := none })))
      ∧ (l.profileDue = true → ¬ends →
        (l.control.state ∈ [LineState.rendering, .recovering] → l.control.lockMark ≠ none) →
        exec (.sampleEvent n sample levels) s = exec (.sampleEvent n sample levels) (s.putLine n (driven p fresh)))
      ∧ (l.profileDue = true → ends →
        ∃ t u, exec (.sampleEvent n sample levels) s = .next t
          ∧ exec (.sampleEvent n sample levels)
              (s.putLine n
                { fresh with
                  control :=
                    { (fresh.idleIn .locked).control with flags := l.control.flags ||| Flag.allow.mask } }) = .next u
          ∧ t.line n = u.line n)
      ∧ (l.profileDue = true → profileTaken p = true → sample.toNat ≠ 4095 →
        let load : Int := max 0 ((sample.toNat : Int) - (s.setup n).zeroOffset)
        ∃ t, exec (.sampleEvent n sample levels) s = .next t
          ∧ (∀ f, l.tension.filtered = some f →
              (t.line n).tension.filtered = some ((f : Int) + Int.tdiv (16 * load - f) (2 ^ p.filterShift)).toNat)
          ∧ (l.tension.filtered = none → (t.line n).tension.filtered = some (16 * load).toNat)
          ∧ (l.has .warn = true →
              (t.line n).protection.warnWatch = 0
                ∧ (t.line n).protection.tripWatch = if p.trip < (t.line n).tension.reported then 1 else 0)
          ∧ (l.has .warn = false →
              (t.line n).protection.tripWatch = 0
                ∧ ((t.line n).has .warn = true ↔ p.warn < (t.line n).tension.reported ∧ p.warnDwell = 1)
                ∧ (t.line n).protection.warnWatch
                    = if p.warn < (t.line n).tension.reported ∧ 1 < p.warnDwell then 1 else 0)))
    ∧ (l.sense.settled pins = true → l.sense.invalidCount < 7 →
    (∀ q, l.profileDue = false → l.joined = some q → l.control.stallCounter + 1 < q.stallWindow →
      ∃ t, exec (.sampleEvent n 4095#12 pins) s = .next t
        ∧ (t.line n).applied = q ∧ (t.line n).joined = none ∧ (t.line n).tension = l.tension
        ∧ (t.line n).protection = l.protection
        ∧ (l.control.state = .slacking → (t.line n).control.slackWatch = l.control.slackWatch)
        ∧ (l.control.state ∈ [LineState.stowed, .opened] → l.control.hookTimer = none → (t.line n).control = l.control)
        ∧ (l.control.state = .deploying → l.sense.payout < q.deployLength →
            (t.line n).control.state = .deploying ∧ (t.line n).control.drive = q.deploySpeed))
    ∧ (l.profileDue = true → profileTaken p = true → l.control.stallCounter + 1 < p.stallWindow →
    ∃ t, exec (.sampleEvent n 4095#12 pins) s = .next t
      ∧ (t.line n).applied = p ∧ (t.line n).profileDue = false ∧ (t.line n).joined = none
      ∧ (t.line n).tension.tendCount = 0 ∧ (t.line n).tension.tendDir = none
      ∧ (t.line n).protection.warnWatch = 0 ∧ (t.line n).protection.tripWatch = 0
      ∧ (t.line n).control.slackWatch = 0
      ∧ (∀ mark, l.control.state = .rendering → l.control.lockMark = some mark →
          (p.allowance : Int) ≤ l.sense.payout - mark →
          (t.line n).control.state = .locked ∧ (t.line n).control.flags = l.control.flags ||| Flag.allow.mask)
      ∧ (∀ mark, l.control.state = .recovering → l.control.lockMark = some mark →
          l.sense.payout - mark ≤ -(p.allowance : Int) →
          (t.line n).control.state = .locked ∧ (t.line n).control.flags = l.control.flags ||| Flag.allow.mask
            ∧ (t.line n).control.drive = 0)
      ∧ (∀ mark, l.control.state = .recovering → l.control.lockMark = some mark →
          -(p.allowance : Int) < l.sense.payout - mark →
          (t.line n).control.state = .recovering ∧ (t.line n).control.drive = -(p.recoverSpeed : Int))
      ∧ (l.control.state = .slacking →
          (t.line n).control.state = .slacking ∧ (t.line n).control.drive = p.slackSpeed)))

/-- A count event of a fitted line moves P by its direction, after the line's hand; a count beyond the limit leaves P,
clears the reference flag and latches LIMIT; a phase skip counts nothing and clears the reference flag; other lines
and the berth stand; of a line that is not fitted there is no count event (R10, R11, R12, R14, R17). -/
def Obligations.CountMovesPayout : Prop :=
  ∀ (n : LineNo) (step : EncoderStep) (s : State),
    s.running = true →
    let l := s.line n
    let d : Int :=
      match (s.setup n).hand, step with
      | .right, .aLeads => 1
      | .right, .bLeads => -1
      | .left, .aLeads => -1
      | .left, .bLeads => 1
      | _, .bothChanged => 0
    ∃ t, exec (.countEvent n step) s = .next t
      ∧ s.oneLine t n
      ∧ (s.fitted n = false → t = s)
      ∧ (s.fitted n = true → step = .bothChanged →
          t.line n = { l with sense := { l.sense with referenced := false } })
      ∧ (s.fitted n = true → step ≠ .bothChanged → -65535 ≤ l.sense.payout + d → l.sense.payout + d ≤ 65535 →
          (t.line n).sense.payout = l.sense.payout + d ∧ (t.line n).sense.referenced = l.sense.referenced
            ∧ (t.line n).has .limit = l.has .limit)
      ∧ (s.fitted n = true → step ≠ .bothChanged → l.sense.payout + d < -65535 ∨ 65535 < l.sense.payout + d →
          (t.line n).sense.payout = l.sense.payout ∧ (t.line n).sense.referenced = false
            ∧ (t.line n).has .limit = true)

/-- What a count does to its line (R12, R56, R59, R61, R75, R77, R78, R79, R81, R88, R90).  Paying out to the drum capacity, or a
limit count at +65535, faults a line in a payout state END: DEPLOYING, SLACKING, SLIPPING, with the cause that it
carries where it has one, and RENDERING, for which ALLOW latches beside END where the count also meets the allowance.
A RENDERING line at Emax and a RECOVERING line at minus Emax go back to LOCKED and latch ALLOW.  Each count that leaves a
line drive-powered puts its stall counter at 0.  A LOCKED or HELD line creeps without a change of its record, as does a
RENDERING or SLIPPING line short of its end, and a STARTING, STOWED, OPENED, ENGAGING, OPENING or FAULTED line keeps its
record too.  A limit count latches LIMIT and clears the reference flag; at -65535 it faults nothing, a RENDERING line goes on,
and a RECOVERING line within its allowance recovers on (R81). -/
def Obligations.CountReportEffects : Prop :=
  ∀ (n : LineNo) (s : State) (out : Bool),
    let l := s.line n
    let step : EncoderStep := if out = ((s.setup n).hand == .right) then .aLeads else .bLeads
    let p' := if out = true then l.sense.payout + 1 else l.sense.payout - 1
    let moved : Line := { l with sense := { l.sense with payout := p' } }
    let full := out = true ∧ ((s.setup n).capacity : Int) ≤ p'
    s.running = true → s.fitted n = true →
    (-65535 ≤ p' → p' ≤ 65535 →
    ∃ t, exec (.countEvent n step) s = .next t
      ∧ (full → l.control.state ∈ [LineState.deploying, .slacking] →
          t.line n = moved.faultedBy .payoutEnd .payoutEnd)
      ∧ (full → l.control.state = .slipping →
          t.line n = moved.faultedBy (l.control.record.returnTo.getD .payoutEnd) .payoutEnd)
      ∧ (∀ mark, full → l.control.state = .rendering → l.control.lockMark = some mark →
          (t.line n).control
            = { (moved.faultedBy .payoutEnd .payoutEnd).control with
                flags :=
                  (if (l.applied.allowance : Int) ≤ p' - mark then l.control.flags ||| Flag.allow.mask
                    else l.control.flags) ||| Flag.payoutEnd.mask })
      ∧ (∀ mark, ¬full → l.control.state = .rendering → l.control.lockMark = some mark →
          if (l.applied.allowance : Int) ≤ p' - mark then
            (t.line n).control
              = { (moved.idleIn .locked).control with flags := l.control.flags ||| Flag.allow.mask }
          else t.line n = moved)
      ∧ (∀ mark, l.control.state = .recovering → l.control.lockMark = some mark →
          if p' - mark ≤ -(l.applied.allowance : Int) then
            (t.line n).control
              = { (moved.idleIn .locked).control with flags := l.control.flags ||| Flag.allow.mask }
          else t.line n = { moved with control := { l.control with stallCounter := 0 } })
      ∧ (l.control.state = .hauling ∨ l.control.state = .rewinding
            ∨ ((l.control.state = .deploying ∨ l.control.state = .slacking) ∧ ¬full) →
          t.line n = { moved with control := { l.control with stallCounter := 0 } })
      ∧ (l.control.state ∈ [LineState.locked, .held, .starting, .stowed, .opened, .engaging, .opening, .faulted]
            ∨ (l.control.state = .slipping ∧ ¬full) →
          t.line n = moved))
    ∧ ((if out = true then l.sense.payout = 65535 else l.sense.payout = -65535) →
      let limit : Line :=
        { l with
          sense := { l.sense with referenced := false }
          control := { l.control with flags := l.control.flags ||| Flag.limit.mask } }
      ∃ t, exec (.countEvent n step) s = .next t
        ∧ (out = true → l.control.state ∈ [LineState.deploying, .slacking] →
            t.line n = limit.faultedBy .payoutEnd .payoutEnd)
        ∧ (out = true → l.control.state = .slipping →
            t.line n = limit.faultedBy (l.control.record.returnTo.getD .payoutEnd) .payoutEnd)
        ∧ (out = true → l.control.state = .rendering →
            (t.line n).control.state = .faulted ∧ (t.line n).control.cause = some .payoutEnd
              ∧ (t.line n).has .payoutEnd = true ∧ (t.line n).has .limit = true)
        ∧ (l.control.state ∈ [LineState.hauling, .rewinding]
              ∨ (out = false ∧ l.control.state ∈ [LineState.deploying, .slacking]) →
            t.line n = { limit with control := { limit.control with stallCounter := 0 } })
        ∧ (∀ mark, l.control.state = .recovering → l.control.lockMark = some mark →
            -(l.applied.allowance : Int) < l.sense.payout - mark →
            t.line n = { limit with control := { limit.control with stallCounter := 0 } })
        ∧ (∀ mark, out = false → l.control.state = .rendering → l.control.lockMark = some mark →
            l.sense.payout - mark < l.applied.allowance → t.line n = limit)
        ∧ (l.control.state ∈ [LineState.locked, .held, .starting, .stowed, .opened, .engaging, .opening, .faulted]
              ∨ (out = false ∧ l.control.state = .slipping) →
            t.line n = limit))

/-- The events that end a line's operation by themselves: a hook timer expiry faults an ENGAGING or OPENING line HOOK and
does nothing to any other (R55, R58); a stall expiry faults a drive-powered line STALL, and does not reach one that has
left those states (R56, R59); derivation of a STARTING line follows the table of R41.
That an expiry and a derivation can also come as commands of their own, and before their time, is the model's choice: log 3
and log 4; and a derivation that is commanded before the positions are known finds the last row of the table: log 26.  That an
OPENING line is faulted also at an accepted position that was OPEN at its entry is the model's reading: log 37. -/
def Obligations.ExpiriesAndDerivation : Prop :=
  ∀ (n : LineNo) (s : State),
    s.running = true →
    (((s.line n).control.hookTimer.isSome = true ↔
        (s.line n).control.state = .engaging ∨ (s.line n).control.state = .opening) →
      ∃ t, exec (.hookTimerExpiry n) s = .next t ∧ s.oneLine t n
        ∧ t.line n
            = if (s.line n).control.state = .engaging ∨ (s.line n).control.state = .opening then
                (s.line n).faultedBy .hook .hook
              else s.line n)
    ∧ (∃ t, exec (.stallExpiry n) s = .next t ∧ s.oneLine t n
        ∧ t.line n
            = if (s.line n).control.state ∈ [LineState.deploying, .hauling, .recovering, .slacking, .rewinding] then
                (s.line n).faultedBy .stall .stall
              else s.line n)
    ∧ ((s.line n).control.state = .starting →
        ∃ t, exec (.derivation n) s = .next t ∧ s.oneLine t n ∧ t.line n = (s.line n).derivedAs (s.fitted n))

/-- The events that another block hands to a line: a holder change halts its commanded motion, DEPLOYING and REWINDING to
OPENED, HAULING and SLACKING to HELD, ENGAGING and OPENING with rest-on-completion set and then-rewind discarded (R62);
a STOP onset halts its drive motion, RECOVERING to LOCKED (R63, R80); an inhibit onset takes HAULING to HELD and
RECOVERING to LOCKED without ALLOW (R80, R93); an inhibit lift changes no line (R94).  Every other state stands, and
so does every other line; the event is taken from those handed over, whose list is the model's: log 5. -/
def Obligations.HandedEventsHaltLine : Prop :=
  ∀ (n : LineNo) (s : State),
    let l := s.line n
    s.running = true →
    ∀ c ∈ [(DueEvent.halt n, Instr.holderChangeHalt n,
            match l.control.state with
            | .deploying | .rewinding => l.idleIn .opened
            | .hauling | .slacking => l.idleIn .held
            | .engaging =>
              { l with control := { l.control with record := { l.control.record with restOnCompletion := true } } }
            | .opening =>
              { l with
                control :=
                  { l.control with
                    record := { l.control.record with restOnCompletion := true, thenRewind := false } } }
            | _ => l),
          (.stopOnset n, .stopOnset n,
            match l.control.state with
            | .deploying | .rewinding => l.idleIn .opened
            | .hauling | .slacking => l.idleIn .held
            | .recovering => l.idleIn .locked
            | _ => l),
          (.inhibitOnset n, .inhibitOnset n,
            match l.control.state with
            | .hauling => l.idleIn .held
            | .recovering => l.idleIn .locked
            | _ => l),
          (.inhibitLift n, .inhibitLift n, l)],
    c.1 ∈ s.due →
    ∃ t, exec c.2.1 s = .next t ∧ State.oneLine { s with due := s.due.erase c.1 } t n ∧ t.line n = c.2.2
/-! ### Authority, reads, clears and writes (spec/06, spec/07, spec/10) -/

/-- CLAIM (R113, R115, R116): the stations rank in the two orders of the manual; in each group named, a station in the record keeps its entry (HELD, QUEUED); one that outranks
every station in service joins them as active holder (GRANTED), any other joins the pending set (QUEUED), in each case
at its rank, with its single mark where SINGLE is given; a group whose active holder changes hands a halt to each of
its fitted lines (R120), and a group whose record changes has its authority notice marked for every PRESENT station
(R130, R158).  The list of events handed over is the model's: log 5. -/
def Obligations.ClaimPlacesStation : Prop :=
  ranksAsListed ∧ ∀ (st : Station) (mask option : Byte) (s : State),
    s.accepts st = true → groupMaskOk mask = true → optionOk option = true → s.authoritySound →
    let e : Entry := { station := st, single := option == 1#8, watched := none }
    let lead := s.table.settings.vesselLead
    let outranksAll := fun g => (s.record g).inService.all fun m => decide (rank lead st < rank lead m.station)
    let serving := fun g => (s.record g).inService.any fun m => m.station == st
    let waiting := fun g => (s.record g).waiting.any fun m => m.station == st
    ∃ t, exec (.claim st mask option) s = .next t
      ∧ (∀ g : GroupNo,
          if mask.getLsbD g.val = true ∧ serving g = false ∧ waiting g = false then
            if outranksAll g = true then t.record g = { s.record g with inService := e :: (s.record g).inService }
            else
              (t.record g).inService = (s.record g).inService ∧ ranked lead (t.record g).waiting
                ∧ ∀ x, x ∈ (t.record g).waiting ↔ x = e ∨ x ∈ (s.record g).waiting
          else t.record g = s.record g)
      ∧ t.due
          = s.due ++ ((allGroups.filter fun g => mask.getLsbD g.val).flatMap fun g =>
              if t.holder g = s.holder g then []
              else (allLines.filter fun n => s.fitted n && (s.setup n).group == g).map DueEvent.halt)
      ∧ (t.link st).replySlot
          = some
              { kind := 0x10#8
                body :=
                  0x01#8 :: mask :: (allGroups.filter fun g => mask.getLsbD g.val).map fun g =>
                    if serving g = true then 0x05#8
                    else if waiting g = true then 0x04#8
                    else if outranksAll g = true then 0x03#8
                    else 0x04#8 }
      ∧ s.sameCore t ∧ t.lines = s.lines ∧ t.berth = s.berth ∧ s.linksButReply t st
      ∧ s.groupNoticesMarked t ∧ ∀ x, (t.link x).lineMarks = (s.link x).lineMarks

/-- YIELD (R113, R117, R118, R119, R120, R130, R158), the stations ranking in the two orders of the manual: the sender's entry leaves each group named, or for mask 0 each group it
actively holds, and the group is re-evaluated: both sets in rank order with the other entries kept, the highest-ranked
pending station moved in exactly where it outranks every station in service or none is in service.  A group whose active
holder changes hands a halt to each of its fitted lines, and one whose record changes has its notice marked for every
PRESENT station; the reply names the groups.  The list of events handed over is the model's: log 5. -/
def Obligations.YieldRemovesEntry : Prop :=
  ranksAsListed ∧ ∀ (st : Station) (mask : Byte) (s : State),
    s.accepts st = true → groupMaskOk mask = true → s.authoritySound →
    let named := if mask = 0#8 then allGroups.filter fun g => s.holder g == some st
      else allGroups.filter fun g => mask.getLsbD g.val
    let entered := fun g => (s.record g).entries.any fun m => m.station == st
    ∃ t, exec (.yieldGroups st mask) s = .next t
      ∧ (∀ g : GroupNo,
          if g ∈ named ∧ entered g = true then
            ((s.record g).lacking st).reevaluatedTo s.table.settings.vesselLead (t.record g)
          else t.record g = s.record g)
      ∧ t.due
          = s.due ++ (named.flatMap fun g =>
              if t.holder g = s.holder g then []
              else (allLines.filter fun n => s.fitted n && (s.setup n).group == g).map DueEvent.halt)
      ∧ (∃ names, (t.link st).replySlot
          = some
              { kind := 0x11#8
                body := 0x01#8 :: names :: named.map fun g => if entered g = true then 0x01#8 else 0x02#8 }
          ∧ ∀ g : GroupNo, names.getLsbD g.val = decide (g ∈ named))
      ∧ s.sameCore t ∧ t.lines = s.lines ∧ t.berth = s.berth ∧ s.linksButReply t st
      ∧ s.groupNoticesMarked t ∧ ∀ x, (t.link x).lineMarks = (s.link x).lineMarks

/-- QUERY (R126, R172) reports the record of each group, in ascending order: the active holder, both sets in rank
order and their counts, the single marks; and changes nothing. -/
def Obligations.QueryReportsRecords : Prop :=
  ∀ (st : Station) (s : State),
    s.accepts st = true → s.authoritySound →
    let code := fun x : Station => match x with | .quay => 1#8 | .vessel => 2#8 | .panel => 3#8 | .service => 4#8
    let entry := fun e : Entry => code e.station ||| if e.single = true then 0x80#8 else 0#8
    let four := fun es : List Entry => es.map entry ++ List.replicate (4 - es.length) 0#8
    ∃ t, exec (.query st) s = .next t
      ∧ s.onlyReply t st
          { kind := 0x12#8
            body :=
              0x01#8 :: allGroups.flatMap fun g =>
                (match (s.record g).inService with | [] => 0#8 | e :: _ => code e.station)
                  :: BitVec.ofNat 8 (s.record g).inService.length :: four (s.record g).inService
                  ++ BitVec.ofNat 8 (s.record g).waiting.length :: four (s.record g).waiting }

/-- READ LINES (R164, R172): the reply carries count line records from the first line, wrapping from line 7 to line 0,
each of thirteen bytes holding the codes of the state and the cause, the flag word with each flag at its bit, T, P with
its reference flag, and E where there is a lock mark; nothing else changes. -/
def Obligations.ReadLinesReply : Prop :=
  ∀ (st : Station) (first count : Byte) (s : State),
    s.accepts st = true → lineNoOk first = true → countOk count = true → s.figuresBounded →
    ∃ t body, exec (.readLines st first count) s = .next t
      ∧ s.onlyReply t st { kind := 0x30#8, body := 0x01#8 :: first :: count :: body }
      ∧ body.length = 13 * count.toNat
      ∧ ∀ i n, i < count.toNat → n = (first.toNat + i) % 8 → ∀ h : n < 8,
          let l := s.line ⟨n, h⟩
          let at' := fun j => body.getD (13 * i + j) 0#8
          at' 0 = stateByte l.control.state ∧ at' 1 = causeByte l.control.cause
            ∧ (∀ i f, flagsInOrder[i]? = some f → (at' 2 ++ at' 3).getLsbD i = l.has f)
            ∧ at' 2 ++ at' 3 = l.control.flags.zeroExtend 16
            ∧ (l.tension.reported < 65536 → (at' 4 ++ at' 5).toNat = l.tension.reported)
            ∧ (at' 6 ++ at' 7 ++ at' 8).toInt = l.sense.payout
            ∧ (at' 9).getLsbD 0 = l.sense.referenced ∧ (at' 9).getLsbD 1 = l.control.lockMark.isSome
            ∧ (l.control.lockMark = none → at' 10 ++ at' 11 ++ at' 12 = 0#24)
            ∧ ∀ mark, l.control.lockMark = some mark → -65535 ≤ mark → mark ≤ 65535 →
                (at' 10 ++ at' 11 ++ at' 12).toInt = l.sense.payout - mark

/-- READ GROUP and READ SETUP (R165, R172): READ GROUP returns the group's profile as last written, the mask of its
fitted lines, the berth settings and its authority record; READ SETUP the line's setup in force, the store state and
the source; both change nothing.  Every field stands at the byte of the reply at which the tables of R172 put it. -/
def Obligations.ReadGroupAndSetupReplies : Prop :=
  ∀ (st : Station) (g : GroupNo) (n : LineNo) (s : State),
    s.accepts st = true → s.figuresValid →
    (∃ t body, exec (.readGroup st (BitVec.ofNat 8 g.val)) s = .next t
      ∧ s.onlyReply t st { kind := 0x31#8, body := 0x01#8 :: body }
      ∧ body.length = 54 ∧ body.getD 0 0#8 = BitVec.ofNat 8 g.val
      ∧ profileLaidOut body (s.profile g)
      ∧ (∀ m : LineNo, (body.getD 39 0#8).getLsbD m.val = (s.fitted m && (s.setup m).group == g))
      ∧ body.getD 40 0#8 = (match s.table.settings.scope with | .group => 0x00#8 | .berth => 0x01#8)
      ∧ (body.getD 41 0#8).toNat = s.table.settings.stagger
      ∧ body.getD 42 0#8 = (if s.table.settings.vesselLead = true then 0x01#8 else 0x00#8)
      ∧ body.drop 43 = recordBytes (s.record g))
      ∧ ∃ t body, exec (.readSetup st (BitVec.ofNat 8 n.val)) s = .next t
        ∧ s.onlyReply t st { kind := 0x32#8, body := 0x01#8 :: body }
        ∧ body.length = 11 ∧ body.getD 0 0#8 = BitVec.ofNat 8 n.val
        ∧ (∃ f, setupLaidOut body f ∧ setupSpelled f (s.setup n))
        ∧ body.getD 9 0#8
            = (match s.table.storeState with | .current => 0x00#8 | .stale => 0x01#8 | .saving => 0x02#8)
        ∧ body.getD 10 0#8 = match s.table.source with | .store => 0x00#8 | .default => 0x01#8

/-- CLEAR FLAGS (R95, R97, R128, R166): on each line named that the sender may clear, the named flags are cleared, and
where WARN or TRIP was cleared the trip watch is 0 and a clear of TRIP discards trip deferred; every line's flag word
before the clear is reported; nothing else of any line changes but the inhibits, and no notice is marked; the inhibits agree with the flags
afterwards, and an inhibit lift is handed once to each line whose inhibit has ceased (R92).  The list of events handed
over is the model's: log 5. -/
def Obligations.ClearFlagsResult : Prop :=
  ∀ (st : Station) (mask : Byte) (flags : BitVec 16) (s : State),
    s.accepts st = true → flagMaskOk flags = true → s.inhibitsAgree →
    let named := fun n => (s.line n).control.flags &&& flags.truncate 10
    let may := fun n => s.holder (s.setup n).group == some st || st == .panel
    let cleared := fun n => mask.getLsbD n.val && may n && named n != 0#10
    ∃ t, exec (.clearFlags st mask flags) s = .next t
      ∧ (∀ n : LineNo,
          t.line n
            = { s.line n with
                protection :=
                  { warnWatch := (s.line n).protection.warnWatch
                    tripWatch :=
                      if cleared n && (flagSet (named n) .warn || flagSet (named n) .trip) then 0
                      else (s.line n).protection.tripWatch
                    inhibit := (t.line n).protection.inhibit }
                control :=
                  { (s.line n).control with
                    flags :=
                      if cleared n = true then (s.line n).control.flags &&& ~~~(named n) else (s.line n).control.flags
                    record :=
                      if cleared n && flagSet (named n) .trip then
                        { (s.line n).control.record with tripDeferred := false }
                      else (s.line n).control.record } })
      ∧ t.inhibitsAgree
      ∧ (∃ lifts, t.due = s.due ++ lifts ∧ lifts.Nodup
          ∧ ∀ e, e ∈ lifts ↔ ∃ n, e = .inhibitLift n ∧ (s.line n).protection.inhibit = true
              ∧ (t.line n).protection.inhibit = false)
      ∧ s.sameCore t ∧ t.records = s.records ∧ t.berth = s.berth
      ∧ ∀ x, t.link x
          = if x = st then
              { s.link st with
                replySlot :=
                  some
                    { kind := 0x40#8
                      body :=
                        0x01#8 :: mask :: (allLines.filter fun n => mask.getLsbD n.val).flatMap fun n =>
                          (if may n = false then 0x06#8 else if named n = 0#10 then 0x02#8 else 0x01#8)
                            :: flagBytes (s.line n).control.flags } }
            else s.link x

/-- CLEAR STATION (R159, R167): the reply reports both indicators as they were, and the named ones are cleared; no other
item of any station and nothing else of the part changes. -/
def Obligations.ClearStationResult : Prop :=
  ∀ (st : Station) (mask : Byte) (s : State),
    s.accepts st = true → indicatorMaskOk mask = true →
    let k := s.link st
    exec (.clearStation st mask) s
      = .next
          (s.putLink st
            { k with
              linkError := k.linkError && !mask.getLsbD 0
              restartInd := k.restartInd && !mask.getLsbD 1
              replySlot :=
                some
                  { kind := 0x41#8
                    body :=
                      [0x01#8, (if k.linkError = true then 1#8 else 0#8) ||| if k.restartInd = true then 2#8 else 0#8] } })

/-- WRITE PROFILE (R100, R101, R102): refused by the first of its three checks that fails, the last of them the ranges of the
fields and the two orderings of the thresholds; a taken one replaces the group's
profile whole and leaves every line as it is but for the write that waits for its next sample event. -/
def Obligations.WriteProfileResult : Prop :=
  ∀ (st : Station) (g : GroupNo) (p : Profile) (s : State),
    s.accepts st = true →
    let outcome : ReplyCode :=
      if (s.link st).restartInd = true then .restartPending
      else if s.holder g ≠ some st then .notHolder
      else if profileTaken p = false then .badValue
      else .done
    ∃ t, exec (.writeProfile st (BitVec.ofNat 8 g.val) p) s = .next t
      ∧ (t.link st).replySlot = some { kind := 0x50#8, body := [outcomeByte outcome] }
      ∧ (∀ h, t.profile h = if outcome = .done ∧ h = g then p else s.profile h)
      ∧ (∀ n, t.line n
          = { s.line n with
              profileDue :=
                (s.line n).profileDue || decide (outcome = .done ∧ s.fitted n = true ∧ (s.setup n).group = g) })
      ∧ t.table = { s.table with profiles := t.table.profiles }
      ∧ t.records = s.records ∧ t.berth = s.berth ∧ t.due = s.due ∧ t.pendingRestart = s.pendingRestart
      ∧ ∀ x, t.link x = if x = st then { s.link st with replySlot := (t.link st).replySlot } else s.link x

/-- WRITE BERTH (R92, R106, R107, R121): refused by the first of its checks that fails, with nothing changed; a taken one
replaces the three settings, after which every haul inhibit agrees with the scope in force and, where vessel-lead has
changed, every group is re-evaluated under the new ranking, and no group otherwise; each line whose inhibit has changed is
handed an onset or a lift, and each fitted line of a group whose active holder has changed a halt; the notices of the
groups whose records change are marked (R120, R130).  The list of events handed over is the model's: log 5. -/
def Obligations.WriteBerthResult : Prop :=
  ∀ (st : Station) (scope stagger lead : Byte) (s : State),
    s.accepts st = true → s.inhibitsAgree → s.authoritySound →
    let holdsAll := ∀ n, s.fitted n = true → s.holder (s.setup n).group = some st
    ∃ t, exec (.writeBerth st scope stagger lead) s = .next t
      ∧ ((s.link st).restartInd = true → s.onlyReply t st { kind := 0x51#8, body := [0x0D#8] })
      ∧ ((s.link st).restartInd = false → ¬holdsAll → s.onlyReply t st { kind := 0x51#8, body := [0x06#8] })
      ∧ ((s.link st).restartInd = false → holdsAll →
          1 < scope.toNat ∨ 200 < stagger.toNat ∨ 1 < lead.toNat →
          s.onlyReply t st { kind := 0x51#8, body := [0x0C#8] })
      ∧ ((s.link st).restartInd = false → holdsAll → scope.toNat ≤ 1 → stagger.toNat ≤ 200 → lead.toNat ≤ 1 →
          (t.link st).replySlot = some { kind := 0x51#8, body := [0x01#8] }
            ∧ t.table
                = { s.table with
                    settings :=
                      { scope := if scope = 1#8 then .berth else .group
                        stagger := stagger.toNat
                        vesselLead := lead == 1#8 } }
            ∧ t.berth = s.berth ∧ t.pendingRestart = s.pendingRestart
            ∧ (s.table.settings.vesselLead = (lead == 1#8) → t.records = s.records)
            ∧ (s.table.settings.vesselLead ≠ (lead == 1#8) →
                ∀ g, (s.record g).reevaluatedTo (lead == 1#8) (t.record g))
            ∧ s.linksButReply t st ∧ s.groupNoticesMarked t
            ∧ t.due
                = s.due ++ s.inhibitEvents t none ++ allGroups.flatMap fun g =>
                    if t.holder g = s.holder g then []
                    else (allLines.filter fun n => s.fitted n && (s.setup n).group == g).map DueEvent.halt)
      ∧ t.inhibitsAgree ∧ t.authoritySound
      ∧ ∀ n, t.line n
          = { s.line n with protection := { (s.line n).protection with inhibit := (t.line n).protection.inhibit } }

/-- WRITE LINE SETUP (R104, R105, R108): refused by the first of its six checks that fails; a taken one puts the six
fields in force and makes a CURRENT store STALE; a line made not fitted goes to NOT_FITTED without a lock mark, with
unknown positions, P at 0 and unseeded; one made fitted goes to STARTING under its group's profile; by a change of group
the line takes the new group's profile, for use from its next sample event, and works by its old one until then (R27,
R100; log 23); each line whose inhibit has changed is handed an onset or a lift (R92; log 5), and the line's notice is
marked where its state or lock mark has changed (R65; log 33). -/
def Obligations.WriteLineSetupResult : Prop :=
  ∀ (st : Station) (n : LineNo) (f : SetupFields) (s : State),
    s.accepts st = true →
    let l := s.line n
    let old := s.setup n
    let outcome : ReplyCode :=
      if (s.link st).restartInd = true then .restartPending
      else if st ≠ .service then .notPermitted
      else if s.holder old.group ≠ some st ∨ ∃ g : GroupNo, g.val = f.group.toNat ∧ s.holder g ≠ some st then .notHolder
      else if s.table.storeState = .saving then .busy
      else if ¬(l.control.state = .stowed ∨ l.control.state = .notFitted
          ∨ (l.control.state = .starting ∧ old.fitted = false)) then .badState
      else if setupTaken f = false then .badValue
      else .done
    ∃ t, exec (.writeLineSetup st (BitVec.ofNat 8 n.val) f) s = .next t
      ∧ (t.link st).replySlot = some { kind := 0x52#8, body := [outcomeByte outcome] }
      ∧ (outcome ≠ .done → s.onlyReply t st { kind := 0x52#8, body := [outcomeByte outcome] })
      ∧ ∀ u, outcome = .done → setupSpelled f u →
          (∀ m, t.setup m = if m = n then u else s.setup m)
            ∧ t.table
                = { s.table with
                    setups := t.table.setups
                    storeState := if s.table.storeState = .current then .stale else s.table.storeState }
            ∧ s.sameCore { t with table := s.table } ∧ t.berth = s.berth ∧ s.linksButReply t st ∧ s.groupNoticesMarked t
            ∧ (∀ m, m ≠ n →
                t.line m
                  = { s.line m with
                      protection := { (s.line m).protection with inhibit := (t.line m).protection.inhibit } })
            ∧ (old.fitted = true → u.fitted = false →
                (t.line n).control = { (l.idleIn .notFitted).control with lockMark := none }
                  ∧ (t.line n).sense.hook = .unknown ∧ (t.line n).sense.payout = 0
                  ∧ (t.line n).sense.referenced = false ∧ (t.line n).tension.filtered = none
                  ∧ (t.line n).tension = { filtered := none, reported := 0, tendDir := none, tendCount := 0 }
                  ∧ (t.line n).protection.warnWatch = 0 ∧ (t.line n).protection.tripWatch = 0)
            ∧ (old.fitted = false → u.fitted = true →
                (t.line n).control = (l.idleIn .starting).control ∧ (t.line n).applied = s.profile u.group
                  ∧ (t.line n).sense.hook = .unknown ∧ (t.line n).sense.payout = 0
                  ∧ (t.line n).sense.referenced = false ∧ (t.line n).tension = l.tension
                  ∧ (t.line n).protection.warnWatch = l.protection.warnWatch
                  ∧ (t.line n).protection.tripWatch = l.protection.tripWatch)
            ∧ (old.fitted ≠ u.fitted →
                (t.line n).sense.samples = 0 ∧ (t.line n).sense.invalidCount = 0
                  ∧ (t.line n).sense.heaving = l.sense.heaving
                  ∧ ∀ w ∈ [(t.line n).sense.hookClosed, (t.line n).sense.hookOpen, (t.line n).sense.stowed,
                      (t.line n).sense.driveFault], w = { accepted := .unknown, run := 0 })
            ∧ (old.fitted ≠ u.fitted → old.group = u.group →
                (t.line n).joined = none ∧ (t.line n).profileDue = false)
            ∧ (old.fitted = u.fitted →
                t.line n
                  = { l with
                      protection := { l.protection with inhibit := (t.line n).protection.inhibit }
                      joined := (t.line n).joined
                      profileDue := (t.line n).profileDue })
            ∧ (old.fitted = true → (t.line n).applied = l.applied)
            ∧ (old.group ≠ u.group → (t.line n).joined = some (s.profile u.group) ∧ (t.line n).profileDue = false)
            ∧ (old.fitted = u.fitted → old.group = u.group →
                t.line n = l ∧ t.due = s.due ∧ ∀ x, (t.link x).lineMarks = (s.link x).lineMarks)
            ∧ s.lineNoticesMarked t
            ∧ (s.noWatched = true → t.records = s.records ∧ t.due = s.due ++ s.inhibitEvents t none)
            ∧ (s.inhibitsAgree → t.inhibitsAgree)

/-- SAVE SETUP, the store completion, and RESTART (R108, R109, R169): SAVE SETUP is refused by the first of its checks that fails; a
taken one takes a copy of the eight setups in force with their check word and makes the store state SAVING, and changes
nothing else.  At the completion the image read back is compared with that copy: the store state becomes CURRENT where
they agree and STALE where they differ, the store holds the image read back, and nothing else changes.  The image read
back comes with the command: log 12.  RESTART is NOT_PERMITTED but from PANEL and SERVICE, and BUSY while the release
queue is non-empty or a save runs; a taken one joins the sender, and no other station, to the pending restart, and no line moves.  That a store
completion may come at any time of a save is the model's choice: log 4. -/
def Obligations.SaveSetupAndRestart : Prop :=
  ∀ (st : Station) (readBack : Option StoreImage) (s : State),
    (s.accepts st = true →
      let outcome : ReplyCode :=
        if (s.link st).restartInd = true then .restartPending
        else if st ≠ .service then .notPermitted
        else if s.table.storeState = .saving ∨ s.pendingRestart ≠ [] then .busy
        else .done
      ∃ t, exec (.saveSetup st) s = .next t
        ∧ (if outcome = .done then
            ∃ img, t.table = { s.table with saveCopy := some img, storeState := .saving }
              ∧ img.check = Config.checkWord img.setups
              ∧ (s.figuresValid → setupsOfImage img = some s.table.setups)
          else t.table = s.table)
        ∧ t = State.onLink st (fun k => { k with replySlot := some { kind := 0x53#8, body := [outcomeByte outcome] } })
            { s with table := t.table })
    ∧ (∀ img, s.running = true → s.table.saveCopy = some img →
        exec (.storeCompletion readBack) s
          = .next
              { s with
                table :=
                  { s.table with
                    store := readBack.getD img
                    saveCopy := none
                    storeState := if readBack = none ∨ readBack = some img then .current else .stale } })
    ∧ (s.accepts st = true →
      let outcome : ReplyCode :=
        if st = .quay ∨ st = .vessel then .notPermitted
        else if s.berth.queue ≠ [] ∨ s.table.storeState = .saving then .busy
        else .done
      ∃ t, exec (.restart st) s = .next t
        ∧ s.onlyReply { t with pendingRestart := s.pendingRestart } st { kind := 0x60#8, body := [outcomeByte outcome] }
        ∧ (outcome ≠ .done → t.pendingRestart = s.pendingRestart)
        ∧ (outcome = .done → ∀ x, x ∈ t.pendingRestart ↔ x = st ∨ x ∈ s.pendingRestart))

/-- A malformed request (R161) is discarded: the sender's link-error indicator latches and nothing else changes; so is a
request that arrives while the sender's reply slot is occupied (R155). -/
def Obligations.MalformedDiscarded : Prop :=
  ∀ (i : Instr) (st : Station) (s : State),
    i.sender = some st → s.running = true → s.present st = true →
    i.bodyOk = false ∨ (s.link st).replySlot ≠ none →
    exec i s = .next (s.putLink st { s.link st with linkError := true })

/-- A request command and its message (R154, R172): for every request whose fields fit their bytes, one that fails the body
checks of R161 among them, decoding its kind and the body it is written as gives the request back, and the body has the
length of its kind.  The body of each kind carries its operands byte by byte as the tables of R172 print them. -/
def Obligations.RequestDecodesEncoded : Prop :=
  requestsLaidOut ∧ ∀ (i : Instr) (st : Station) (kind : Byte),
    i.sender = some st → i.kind = some kind → i.fieldsFit = true →
    decodeRequest st kind (encodeBody i) = some i ∧ requestLength kind = some (encodeBody i).length
/-! ### Berth and links (spec/08, spec/09) -/

/-- A stance change (R133, R134, R138, R139): STOPPED is recomputed from the PRESENT stations' validated stances; its
onset is handed to all eight lines; PANEL's change to RELEASE-ALL queues every hook-closed line not yet queued, in
order of release rank and then line number, and sets release-all in progress where the queue is then non-empty; the
same change of another station latches its link-error indicator.  The list of events handed over is the model's:
log 5. -/
def Obligations.StanceChangeEffects : Prop :=
  ∀ (st : Station) (before after : Stance) (rest : List DueEvent) (s : State),
    s.running = true → s.due = .stance st before after :: rest →
    let wanted := allStations.any fun x => s.present x && (s.link x).stance == .stop
    let starts := st == .panel && after == .releaseAll && before != .releaseAll
    let foreign := st != .panel && after == .releaseAll && before != .releaseAll
    let closed := fun n =>
      (s.line n).control.state
          ∈ [LineState.engaging, .hauling, .locked, .rendering, .recovering, .held, .slipping, .slacking]
        ∨ ((s.line n).control.state = .faulted ∧ (s.line n).sense.hook = .closed)
    ∃ t selected, exec (.stanceChange st) s = .next t
      ∧ t.berth.stopped = wanted ∧ t.berth.stagger = s.berth.stagger
      ∧ t.berth.queue = (if starts = true then s.berth.queue ++ selected else s.berth.queue)
      ∧ (∀ n, n ∈ selected ↔ closed n ∧ n ∉ s.berth.queue) ∧ selected.Nodup
      ∧ selected.Pairwise (fun a b =>
          (s.setup a).rank < (s.setup b).rank ∨ ((s.setup a).rank = (s.setup b).rank ∧ a < b))
      ∧ t.berth.releaseAll = (s.berth.releaseAll || (starts && !t.berth.queue.isEmpty))
      ∧ t.due
          = rest ++ (if wanted = true ∧ s.berth.stopped = false then allLines.map .stopOnset else [])
            ++ (if starts = true ∧ selected ≠ [] ∧ s.berth.stagger = none ∧ DueEvent.queueTake ∉ rest then [.queueTake]
              else [])
      ∧ t.lines = s.lines ∧ s.sameCore t ∧ t.records = s.records
      ∧ ∀ x, t.link x
          = if x = st ∧ foreign = true then { s.link x with linkError := true } else s.link x

/-- A queue take (R64, R142, R143, R144): the head leaves the queue; its line, where it is hook-closed, goes to OPENING
under current command QUEUE with its fault cause cleared, and the stagger timer starts with the interval in force
unless that is 0; any other line stands; the next take is due at once where the head was dropped or the interval is
0 and the queue is non-empty; release-all in progress ends with the last entry; the line's notice is marked for every
PRESENT station where its state changes (R65, R158).  At a stagger expiry the timer becomes
idle, and a queue take is due where the queue is non-empty.  The list of events handed over is the model's,
log 5, and so is that the expiry may come before the interval has passed, log 4.  That the line stands in OPENING also where
its accepted hook position stands OPEN, as an ENGAGING line's can, is the model's reading: log 37. -/
def Obligations.QueueTakeAndStagger : Prop :=
  ∀ (s : State),
    s.running = true →
    (∀ (n : LineNo) (rest : List LineNo), DueEvent.queueTake ∈ s.due → s.berth.queue = n :: rest → s.berth.stagger = none →
    s.noSingle = true →
    let l := s.line n
    let closed : Prop :=
      l.control.state ∈ [LineState.engaging, .hauling, .locked, .rendering, .recovering, .held, .slipping, .slacking]
        ∨ (l.control.state = .faulted ∧ l.sense.hook = .closed)
    let due' := s.due.erase .queueTake
    ∃ t, exec .queueTake s = .next t
      ∧ t.berth.queue = rest ∧ t.berth.stopped = s.berth.stopped
      ∧ t.berth.releaseAll = (s.berth.releaseAll && !rest.isEmpty)
      ∧ (closed →
          t.line n = l.placed .opening { current := some .queue } 0 .apply .openHook l.freshTimer
            ∧ t.berth.stagger
                = if s.table.settings.stagger = 0 then none
                  else some { interval := s.table.settings.stagger, elapsed := 0 })
      ∧ (¬closed → t.line n = l ∧ t.berth.stagger = none)
      ∧ (∀ m, m ≠ n → t.line m = s.line m)
      ∧ ((closed ∧ s.table.settings.stagger ≠ 0) ∨ rest = [] → t.due = due')
      ∧ (¬(closed ∧ s.table.settings.stagger ≠ 0) → rest ≠ [] → DueEvent.queueTake ∉ due' →
          t.due = due' ++ [.queueTake])
      ∧ s.sameCore t ∧ t.records = s.records ∧ s.linksButMarks t ∧ s.lineNoticesMarked t
      ∧ ∀ x, (t.link x).groupMarks = (s.link x).groupMarks)
    ∧ ∀ timer, s.berth.stagger = some timer →
        exec .staggerExpiry s
          = .next
              { s with
                berth := { s.berth with stagger := none }
                due :=
                  if s.berth.queue = [] ∨ DueEvent.queueTake ∈ s.due then s.due else s.due ++ [.queueTake] }

/-- The first good slots of an ABSENT station (R149, R151): each advances the good-slot count and a bad one returns it
to 0; at the fourth the station is PRESENT with every notice marked for it, its stance IDLE, its reply slot empty, and
that slot is its first slot read, its good-slot count standing at 4. -/
def Obligations.PresenceGain : Prop :=
  ∀ (st : Station) (slot : BitVec 32) (s : State),
    let k := s.link st
    s.running = true → k.presence = .absent →
    ∃ t, exec (.frameEvent st slot) s = .next t
      ∧ (slotGood slot = false → t.link st = { k with goodCount := 0, downstream := (t.link st).downstream })
      ∧ (slotGood slot = true → k.goodCount < 3 →
          t.link st = { k with goodCount := k.goodCount + 1, downstream := (t.link st).downstream })
      ∧ (slotGood slot = true → 3 ≤ k.goodCount →
          t.link st
            = { presence := .present, goodCount := 4, badCount := 0, candidate := some (slotStance slot), stance := .idle
                recv := if slotOffer slot = true then .oneLook (slotByte slot) else .idle
                incoming := .kind, gap := 0
                send := if slotTake slot = true then .awaitingClear else .idle
                outgoing := none, replySlot := none
                groupMarks := Vector.replicate 4 true, lineMarks := Vector.replicate 8 true
                linkError := k.linkError || (stanceOf (slotStance slot)).isNone
                restartInd := k.restartInd, downstream := (t.link st).downstream })
      ∧ (∀ x, x ≠ st → t.link x = s.link x)
      ∧ t.lines = s.lines ∧ s.sameCore t ∧ t.records = s.records ∧ t.berth = s.berth ∧ t.due = s.due

/-- A bad slot of a PRESENT station (R148, R149, R154): its content is not read; it counts toward loss, and with a
message part-received toward the gap abort; below the 64th the station's stance, lanes, reply and marks stand.  A gap
abort discards the part-received message,
latches link error and returns the gap count to 0, and the receive lane and everything else stand.  That it can also
come as a command of its own is the model's choice: log 3. -/
def Obligations.BadSlotAndGapAbort : Prop :=
  ∀ (st : Station) (slot : BitVec 32) (s : State),
    let k := s.link st
    s.running = true → k.presence = .present →
    (slotGood slot = false → k.badCount < 63 →
    ∃ t, exec (.frameEvent st slot) s = .next t
      ∧ t.link st
          = { k with
              badCount := k.badCount + 1
              gap := if k.incoming = .kind then k.gap else if k.gap < 31 then k.gap + 1 else 0
              incoming := if k.incoming ≠ .kind ∧ k.gap < 31 then k.incoming else .kind
              linkError := k.linkError || decide (k.incoming ≠ .kind ∧ 31 ≤ k.gap)
              downstream := (t.link st).downstream }
      ∧ (∀ x, x ≠ st → t.link x = s.link x)
      ∧ t.lines = s.lines ∧ s.sameCore t ∧ t.records = s.records ∧ t.berth = s.berth ∧ t.due = s.due)
    ∧ (k.incoming ≠ .kind →
        exec (.gapAbort st) s = .next (s.putLink st { k with incoming := .kind, gap := 0, linkError := true }))

/-- Loss of presence (R122, R133, R150, R169): at the 64th consecutive bad slot, as at a PRESENCE_LOSS, the station is
ABSENT with its stance IDLE, its lanes, reply and marks gone and its indicators kept; a stance other than IDLE makes a
stance change; it leaves the pending restart and every group, in which it has no entry from then on; each group in which
it had one is re-evaluated, its notice marked for the stations still PRESENT where its record changes (R119, R130), and a
halt is handed to each fitted line of a group that it held.  Its bad-slot count stands at 64.  That a loss can also come
as a command of its own, with that count, and the list of events handed over are the model's: log 3, log 24 and log 5. -/
def Obligations.PresenceLossEffects : Prop :=
  ∀ (st : Station) (slot : BitVec 32) (s : State),
    let k := s.link st
    s.running = true → k.presence = .present → s.authoritySound →
    ∀ c ∈ [Instr.presenceLoss st, .frameEvent st slot], (c = .frameEvent st slot → slotGood slot = false ∧ k.badCount = 63) →
    ∃ t halts, exec c s = .next t
      ∧ t.link st
          = { presence := .absent, goodCount := 0, badCount := 64, candidate := none, stance := .idle, recv := .idle
              incoming := .kind, gap := 0, send := .idle, outgoing := none, replySlot := none
              groupMarks := Vector.replicate 4 false, lineMarks := Vector.replicate 8 false
              linkError := k.linkError, restartInd := k.restartInd, downstream := (t.link st).downstream }
      ∧ t.due = s.due ++ (if k.stance = .idle then [] else [.stance st k.stance .idle]) ++ halts
      ∧ (∀ e, e ∈ halts ↔ ∃ n, e = .halt n ∧ s.fitted n = true ∧ s.holder (s.setup n).group = some st)
      ∧ t.pendingRestart = s.pendingRestart.filter (· ≠ st)
      ∧ (∀ g, ∀ e ∈ (t.record g).entries, e.station ≠ st)
      ∧ (∀ g, (∀ e ∈ (s.record g).entries, e.station ≠ st) → t.record g = s.record g)
      ∧ (∀ g, (∃ e ∈ (s.record g).entries, e.station = st) →
          ((s.record g).lacking st).reevaluatedTo s.table.settings.vesselLead (t.record g))
      ∧ (∀ x, x ≠ st → Link.sameButMarks (s.link x) (t.link x) ∧ s.groupNoticesMarkedFor t x
          ∧ (t.link x).lineMarks = (s.link x).lineMarks)
      ∧ t.lines = s.lines ∧ t.table = s.table ∧ t.berth = s.berth

/-- The stance code and the receive lane of a good slot (R152, R153, R154), at a slot that completes no message.  The code
becomes the candidate; seen twice running and other than the validated stance, it becomes that stance and the change is
handed over; an unknown code latches link error and leaves the stance.  A byte is latched at the second of two looks at
the same offered byte, and take stands from then until a good slot with offer clear.  A latched byte is the kind, or the
length, which above 40 discards the message with link error, or an inner body byte, which is kept; it returns the gap count
to 0.  Where no byte is latched, the gap count of a part-received message advances, and at 32 the message is discarded with
link error (R154).  At the slot at which the last byte of the RESTART reply of a station in the pending restart is taken, and
at no earlier one, the part restarts instead (R170).  The list of events handed over is the model's: log 5. -/
def Obligations.GoodSlotTaken : Prop :=
  ∀ (st : Station) (slot : BitVec 32) (s : State),
    let k := s.link st
    let code := slotStance slot
    let b := slotByte slot
    s.running = true → k.presence = .present → slotGood slot = true → k.completes slot = false →
    (st ∈ s.pendingRestart → ¬k.endsReply slot) →
    ∃ t, exec (.frameEvent st slot) s = .next t
      ∧ (t.link st).candidate = some code
      ∧ (t.link st).stance
          = (match stanceOf code with
            | some x => if k.candidate = some code then x else k.stance
            | none => k.stance)
      ∧ t.due
          = (match stanceOf code with
            | some x => if k.candidate = some code ∧ x ≠ k.stance then s.due ++ [.stance st k.stance x] else s.due
            | none => s.due)
      ∧ (t.link st).badCount = 0
      ∧ (t.link st).recv
          = (match k.recv, slotOffer slot with
            | _, false => .idle
            | .idle, true => .oneLook b
            | .oneLook c, true => if c = b then .taken else .oneLook b
            | .taken, true => .taken)
      ∧ (k.recv = .oneLook b → slotOffer slot = true →
          (t.link st).gap = 0
            ∧ (k.incoming = .kind → (t.link st).incoming = .length b)
            ∧ (∀ kind, k.incoming = .length kind →
                (t.link st).incoming = if 40 < b.toNat then .kind else .body kind b.toNat b.toNat [])
            ∧ (∀ kind length remaining bytes, k.incoming = .body kind length remaining bytes →
                (t.link st).incoming = .body kind length (remaining - 1) (bytes ++ [b]))
            ∧ ((t.link st).linkError = true
                ↔ k.linkError = true ∨ stanceOf code = none ∨ ∃ kind, k.incoming = .length kind ∧ 40 < b.toNat))
      ∧ (k.recv ≠ .oneLook b ∨ slotOffer slot = false →
          let aborts := k.incoming ≠ .kind ∧ 31 ≤ k.gap
          (t.link st).gap = (if aborts then 0 else if k.incoming = .kind then k.gap else k.gap + 1)
            ∧ (t.link st).incoming = (if aborts then .kind else k.incoming)
            ∧ ((t.link st).linkError = true ↔ k.linkError = true ∨ aborts ∨ stanceOf code = none))
      ∧ ((t.link st).downstream.getLsbD 8 = true ↔ (t.link st).recv = .taken)
      ∧ t.lines = s.lines ∧ t.berth = s.berth ∧ t.records = s.records

/-- The framing of an incoming message (R153, R154, R155, R161, R172), at a slot whose second look latches a byte, at every
stance code, state of the send lane and upstream take.  The first byte is the kind, the second the length; a length above 40
discards the message with link error; each body byte but the last is kept.  At the last body byte, or at a length of 0,
the message is complete and the next byte begins another: of an unknown kind, of a length that is not that of its kind,
all 00h or all FFh, or while the reply slot is occupied, it is discarded with link error and no reply; any other
message does what its request command does once the stance code has been taken (R152), which for a body that fails the
checks of R161 is to be discarded with link error (MalformedDiscarded).  Then the send lane takes its step, as SendLaneSteps
and TransferBegins give it, and the station's next slot is composed: the reply slot holds what the request has placed in it,
or what it held, unless the same slot takes the last byte of a reply, which empties it (R156).  A reply that the slot itself
has placed begins its transfer at a later one (R157), and no notice goes ahead of it here: the model's reading, log 14.
The slot that takes the last byte of the RESTART reply of a station in the pending restart stands apart (RestartValues).
A reply in transfer is taken to stand in the reply slot, which every step keeps (BerthActionStaysSound).
That the message is tested, and its link error latched, before the send lane takes its step, so that one completed at the
slot that takes the last byte of a reply is discarded, is the model's reading, log 19;
the list of events handed over is the model's, log 5; and so is that a request can also come as a command of its own,
log 2. -/
def Obligations.MessageFraming : Prop :=
  ∀ (st : Station) (kind : Byte) (body : List Byte) (slot : BitVec 32) (s : State),
    let k := s.link st
    let b := slotByte slot
    let code := slotStance slot
    let requests : List (Byte × Nat) :=
      [(0x10#8, 2), (0x11#8, 1), (0x12#8, 0), (0x20#8, 1), (0x21#8, 1), (0x22#8, 1), (0x23#8, 1), (0x24#8, 1),
        (0x25#8, 2), (0x26#8, 1), (0x27#8, 1), (0x28#8, 1), (0x30#8, 2), (0x31#8, 1), (0x32#8, 1), (0x40#8, 3),
        (0x41#8, 1), (0x50#8, 39), (0x51#8, 3), (0x52#8, 9), (0x53#8, 0), (0x60#8, 0)]
    let stance :=
      match stanceOf code with
      | some x => if k.candidate = some code then x else k.stance
      | none => k.stance
    let latched := fun (next : Incoming) (discarded : Bool) =>
      { s.putLink st
          { k with
            badCount := 0, candidate := some code, stance := stance, recv := .taken, gap := 0, incoming := next
            linkError := k.linkError || (stanceOf code).isNone || discarded } with
        due := s.due ++ if stance = k.stance then [] else [.stance st k.stance stance] }
    let framed := fun u : State =>
      ∃ t, exec (.frameEvent st slot) s = .next t ∧ u.sendLaneOnly t st
        ∧ (k.endsReply slot → (t.link st).replySlot = none)
        ∧ (¬k.endsReply slot → (t.link st).replySlot = (u.link st).replySlot)
        ∧ (k.send ≠ .idle ∨ k.replySlot = none ∧ (u.link st).replySlot ≠ none →
            (t.link st).groupMarks = (u.link st).groupMarks ∧ (t.link st).lineMarks = (u.link st).lineMarks)
        ∧ (k.send = .idle → k.replySlot = none → (u.link st).replySlot ≠ none →
            (t.link st).send = .idle ∧ (t.link st).outgoing = k.outgoing)
    s.running = true → k.presence = .present → slotGood slot = true → slotOffer slot = true → k.recv = .oneLook b →
    s.repliesHeld → (st ∈ s.pendingRestart → ¬k.endsReply slot) →
    (k.incoming = .kind → framed (latched (.length b) false))
    ∧ (k.incoming = .length kind → 40 < b.toNat → framed (latched .kind true))
    ∧ (k.incoming = .length kind → 1 ≤ b.toNat → b.toNat ≤ 40 → framed (latched (.body kind b.toNat b.toNat []) false))
    ∧ (∀ length remaining bytes, k.incoming = .body kind length remaining bytes → 2 ≤ remaining →
        framed (latched (.body kind length (remaining - 1) (bytes ++ [b])) false))
    ∧ ((k.incoming = .length kind ∧ b = 0#8 ∧ body = [])
          ∨ (∃ bytes, k.incoming = .body kind body.length 1 bytes ∧ body = bytes ++ [b]) →
        ((kind, body.length) ∉ requests ∨ (∀ x ∈ kind :: BitVec.ofNat 8 body.length :: body, x = 0x00#8)
            ∨ (∀ x ∈ kind :: BitVec.ofNat 8 body.length :: body, x = 0xFF#8) ∨ k.replySlot ≠ none →
          framed (latched .kind true))
        ∧ ∀ i : Instr, i.sender = some st → i.kind = some kind → i.fieldsFit = true → encodeBody i = body →
          ∃ u, exec i (latched .kind false) = .next u ∧ framed u)

/-- The send lane (R156, R157), at a good slot that does not take the last byte of the reply of a station in the pending
restart (R170), whether the slot offers a byte or completes a message or not: an offered byte is withdrawn when take is seen;
the take of a message's last byte ends the message, and of the reply empties the reply slot; once take clears, the next
byte is offered, or the lane is IDLE.  What the reply slot becomes where a message is completed, MessageFraming says. -/
def Obligations.SendLaneSteps : Prop :=
  ∀ (st : Station) (slot : BitVec 32) (s : State),
    let k := s.link st
    s.running = true → k.presence = .present → slotGood slot = true →
    (st ∈ s.pendingRestart → ¬k.endsReply slot) →
    ∃ t, exec (.frameEvent st slot) s = .next t
      ∧ (∀ b, k.send = .offering b → slotTake slot = false →
          (t.link st).send = .offering b ∧ (t.link st).outgoing = k.outgoing)
      ∧ (∀ b o, k.send = .offering b → slotTake slot = true → k.outgoing = some o → o.next < o.bytes.length →
          (t.link st).send = .awaitingClear ∧ (t.link st).outgoing = some o)
      ∧ (∀ b o, k.send = .offering b → slotTake slot = true → k.outgoing = some o → o.bytes.length ≤ o.next →
          (t.link st).send = .awaitingClear ∧ (t.link st).outgoing = none
            ∧ (o.isReply = true → (t.link st).replySlot = none))
      ∧ (k.completes slot = false → k.send ≠ .idle → ¬k.endsReply slot → (t.link st).replySlot = k.replySlot)
      ∧ (k.send = .awaitingClear → slotTake slot = true → (t.link st).send = .awaitingClear)
      ∧ (∀ b o, k.send = .awaitingClear → slotTake slot = false → k.outgoing = some o → o.bytes[o.next]? = some b →
          (t.link st).send = .offering b ∧ (t.link st).outgoing = some { o with next := o.next + 1 })
      ∧ (k.send = .awaitingClear → slotTake slot = false → k.outgoing = none → (t.link st).send = .idle)

/-- A transfer begins at a good slot at which the send lane is IDLE, unless a message completed there has just placed a reply in
the empty reply slot (R157, R168, R171): the reply first, else the notice of the lowest group marked, else of the lowest line
marked, its mark cleared; the message is the status header as it then stands, all eight bits of it, the kind, the length and the body.
That the header shows a link error which the same slot has latched, by an unknown stance, a length above 40, a discarded
message or a gap abort, is the model's reading of the order of the lanes: log 19; that a reply placed at the slot begins its
transfer at a later one, so is that of log 14. -/
def Obligations.TransferBegins : Prop :=
  ∀ (st : Station) (slot : BitVec 32) (s : State),
    let k := s.link st
    s.running = true → k.presence = .present → slotGood slot = true → k.send = .idle →
    ∃ t, exec (.frameEvent st slot) s = .next t
    ∧ (k.completes slot = false ∨ k.replySlot ≠ none ∨ (t.link st).replySlot = none →
    ∃ message,
      (t.link st).send = (match message with | b :: _ => SendLane.offering b | [] => .idle)
      ∧ (message ≠ [] →
          (t.link st).outgoing = some { bytes := message, next := 1, isReply := k.replySlot.isSome }
            ∧ (t.link st).downstream.getLsbD 9 = true
            ∧ (let header := message.headD 0#8
              header.getLsbD 7 = k.restartInd ∧ header.getLsbD 6 = (t.link st).linkError
                ∧ header.getLsbD 5 = s.berth.stopped
                ∧ header.getLsbD 4
                    = (!s.berth.queue.isEmpty || allLines.any fun n => (s.line n).control.state == .opening)
                ∧ header.getLsbD 3 = (allLines.any fun n => (s.line n).control.state == .faulted)
                ∧ header.getLsbD 2 = (allLines.any fun n => (s.line n).has .trip)
                ∧ header.getLsbD 1 = (allLines.any fun n => (s.line n).has .warn)
                ∧ header.getLsbD 0
                    = (allGroups.any fun g => ((s.record g).inService.head?.map Entry.station) == some st)))
      ∧ (t.link st).replySlot = k.replySlot
      ∧ (∀ r, k.replySlot = some r → message.drop 1 = r.kind :: BitVec.ofNat 8 r.body.length :: r.body)
      ∧ (∀ g : GroupNo, k.replySlot = none → k.groupMarks[g] = true → (∀ h, h < g → k.groupMarks[h] = false) →
          message.drop 1 = 0x70#8 :: 12#8 :: BitVec.ofNat 8 g.val :: recordBytes (s.record g)
            ∧ (t.link st).groupMarks[g] = false)
      ∧ (∀ n : LineNo, k.replySlot = none → (∀ g : GroupNo, k.groupMarks[g] = false) → k.lineMarks[n] = true →
          (∀ m, m < n → k.lineMarks[m] = false) →
          message.drop 1 = 0x71#8 :: 14#8 :: BitVec.ofNat 8 n.val :: lineRecordBytes (s.line n)
            ∧ (t.link st).lineMarks[n] = false)
      ∧ (k.replySlot = none → (∀ g : GroupNo, k.groupMarks[g] = false) → (∀ n : LineNo, k.lineMarks[n] = false) →
          message = []))

/-- Every downstream slot is composed after the slot received has been taken (R147, R172): it carries the marker and even
parity, the station's standing, the four berth flags, and the lane's byte, offer and take, as they then stand.  In the
coming frame the link clock and the frame-start run, and the slots of all four stations go out, whatever their presence,
each at its own 32 clocks with bit 31 first.  Upstream slots are read in the same layout: the marker and the parity that
make one good (R148), its stance codes and its fields. -/
def Obligations.DownstreamSlotComposed : Prop :=
  slotsAsLaidOut ∧ ∀ (st : Station) (slot : BitVec 32) (s : State),
    s.running = true →
    ∃ t, exec (.frameEvent st slot) s = .next t
      ∧ let d := (t.link st).downstream
        let k := t.link st
        slotGood d = true
          ∧ d.extractLsb' 22 4
              = (if allGroups.any (fun g => t.holder g == some st) = true then 0b0001#4
                else if allGroups.any (fun g => (t.record g).inService.any fun e => e.station == st) = true then 0b0010#4
                else if allGroups.any (fun g => (t.record g).waiting.any fun e => e.station == st) = true then 0b0100#4
                else 0b0000#4)
          ∧ d.getLsbD 21 = t.berth.stopped
          ∧ d.getLsbD 20
              = (!t.berth.queue.isEmpty || allLines.any fun n => (t.line n).control.state == .opening)
          ∧ d.getLsbD 19
              = (allLines.any fun n =>
                  (t.line n).control.state == .faulted || (t.line n).has .warn || (t.line n).has .trip)
          ∧ d.getLsbD 18 = k.restartInd
          ∧ (∀ b, k.send = .offering b → d.extractLsb' 10 8 = b ∧ d.getLsbD 9 = true)
          ∧ ((∀ b, k.send ≠ .offering b) → d.extractLsb' 10 8 = 0#8 ∧ d.getLsbD 9 = false)
          ∧ (d.getLsbD 8 = true ↔ k.recv = .taken)
          ∧ d.extractLsb' 1 7 = 0#7
          ∧ t.linkLeads.linkClock = .running ∧ t.linkLeads.frameStart = .running
          ∧ ∀ (x : Station) (i : Nat), i < 32 →
              let first := match x with | .quay => 0 | .vessel => 128 | .panel => 256 | .service => 384
              t.linkLeads.downstream.bitAt (Fin.ofNat 512 (first + i)) = some ((t.link x).downstream.getLsbD (31 - i))
/-! ### Power, reset and restart -/

/-- Power-on and an assertion of the reset input put every block into its power-on values at that event: every line
STARTING with idle demands and no lock mark, unseeded, P at 0 unreferenced, its watches and inhibit clear; no
authority, an empty release queue, every station ABSENT with its restart indicator set, no pending restart (R18, R35,
R66, R98, R132, R146, R160); the profiles, as written and as applied, and the berth settings at their defaults (R100,
R106, R111), at the figures that R100 prints.  At an assertion the direction leads keep their levels (R15, R16), the link clock and frame-start are held
low and the downstream lead is idle (R147).  That an input asserted through a power-on stays asserted, and what power-on
does to a part with its supply, are the model's: log 17; so is that no event handed over outlasts a reset: log 5. -/
def Obligations.PowerOnValues : Prop :=
  ∀ (s : State), ∀ c ∈ [Instr.powerOn, .resetInputAssert], (c = .resetInputAssert → s.powered = true) →
    ∃ t, exec c s = .next t
      ∧ (c = .powerOn → t.powered = true ∧ t.resetAsserted = s.resetAsserted)
      ∧ (c = .resetInputAssert →
          t.running = false ∧ t.linkLeads = { linkClock := .heldLow, frameStart := .heldLow, downstream := .idleLevel }
            ∧ ∀ n, (t.pins n).direction = (s.pins n).direction)
      ∧ (∀ n, (t.pins n).speedDuty = 0 ∧ (t.pins n).applyLead = true ∧ (t.pins n).releaseLead = false
          ∧ (t.pins n).slipLead = false ∧ (t.pins n).openLead = false ∧ (t.pins n).closeLead = false)
      ∧ (∀ g, t.profile g = printedProfile)
      ∧ t.table.settings = { scope := .berth, stagger := 25, vesselLead := false }
      ∧ (∀ n, (t.line n).applied = printedProfile ∧ (t.line n).profileDue = false ∧ (t.line n).joined = none)
      ∧ (∀ n,
          (t.line n).control
              = { state := .starting, lockMark := none, record := {}, slackWatch := 0, hookTimer := none
                  stallCounter := 0, startingCount := 0, cause := none, flags := 0#10, drive := 0, brake := .apply
                  hookDemand := .none }
            ∧ (t.line n).tension = { filtered := none, reported := 0, tendDir := none, tendCount := 0 }
            ∧ (t.line n).protection = { warnWatch := 0, tripWatch := 0, inhibit := false }
            ∧ (t.line n).sense.hook = .unknown ∧ (t.line n).sense.payout = 0 ∧ (t.line n).sense.referenced = false
            ∧ (t.line n).sense.invalidCount = 0 ∧ (t.line n).sense.samples = 0
            ∧ (∀ w ∈ [(t.line n).sense.hookClosed, (t.line n).sense.hookOpen, (t.line n).sense.stowed,
                (t.line n).sense.driveFault], w = { accepted := .unknown, run := 0 }))
      ∧ (∀ g, (t.record g).entries = [])
      ∧ t.berth = { stopped := false, queue := [], releaseAll := false, stagger := none } ∧ t.due = []
      ∧ (∀ x, (t.link x).presence = .absent ∧ (t.link x).goodCount = 0 ∧ (t.link x).badCount = 0
          ∧ (t.link x).stance = .idle ∧ (t.link x).candidate = none
          ∧ (t.link x).recv = .idle ∧ (t.link x).incoming = .kind ∧ (t.link x).gap = 0 ∧ (t.link x).send = .idle
          ∧ (t.link x).outgoing = none ∧ (t.link x).replySlot = none ∧ (t.link x).linkError = false
          ∧ (t.link x).restartInd = true ∧ (∀ g : GroupNo, (t.link x).groupMarks[g] = false)
          ∧ ∀ n : LineNo, (t.link x).lineMarks[n] = false)
      ∧ t.pendingRestart = [] ∧ t.pending = s.pending

/-- The Group Table after power-on and at the release of the reset input (R110, R111): the line setups are those of the
store where every field is in range and the check word matches, with store state CURRENT and source STORE, and the
defaults otherwise, as R99 and R103 print them, with STALE and DEFAULT; the store is not rewritten.  The check word is a value left open: log 9.
A loss of power and an assertion of the reset input abandon a save in progress where it stands, with no copy left (R111): the
store then holds the image of before, the one that was being written, or a partly written one, which fails the load.
That the image of before is among them is the model's reading: log 11.  That the store state is then STALE until the next
load, that the other items keep their values from a loss of power until power-on, and what a power-on does to a part with its
supply, are the model's choices: log 38 and log 17. -/
def Obligations.SetupsLoadedAndPowerLoss : Prop :=
  ∀ (s : State),
    (∃ t, exec .powerLoss s = .next t
      ∧ t.running = false
      ∧ (s.table.saveCopy = none → t = { s with powered := false })
      ∧ (s.table.saveCopy ≠ none → t.table.saveCopy = none ∧ t.table.storeState = .stale
          ∧ t.table.setups = s.table.setups ∧ t.lines = s.lines ∧ t.pending = s.pending))
    ∧ (∀ img, s.table.saveCopy = some img →
      ∀ c ∈ [Instr.powerLoss, .resetInputAssert, .powerOn], (c = .resetInputAssert → s.powered = true) →
      ∃ t, exec c s = .next t
        ∧ t.table.saveCopy = none
        ∧ (t.table.store = s.table.store ∨ t.table.store = img
            ∨ setupsOfImage t.table.store = none ∨ t.table.store.check ≠ Config.checkWord t.table.store.setups))
    ∧ (∀ c ∈ [Instr.powerOn, .resetInputRelease],
      (c = .resetInputRelease → s.powered = true ∧ s.resetAsserted = true) →
      ∃ t, exec c s = .next t
        ∧ (s.table.saveCopy = none ∨ c = .resetInputRelease → t.table.store = s.table.store)
        ∧ (∀ us, setupsOfImage t.table.store = some us → t.table.store.check = Config.checkWord t.table.store.setups →
            t.table.setups = us ∧ t.table.storeState = .current ∧ t.table.source = .store)
        ∧ (setupsOfImage t.table.store = none ∨ t.table.store.check ≠ Config.checkWord t.table.store.setups →
            (∀ n, setupPrinted n (t.setup n)) ∧ t.table.storeState = .stale ∧ t.table.source = .default)
        ∧ (c = .resetInputRelease → t.running = true ∧ t.lines = s.lines ∧ t.records = s.records ∧ t.links = s.links))

/-- The restart (R18, R35, R66, R98, R110, R111, R132, R146, R160, R170), at the frame event at which the last byte of the
RESTART reply of a station in the pending restart is taken, whether the slot offers a byte or not: every fitted line is STARTING with idle demands,
its flags cleared, its switch positions unknown, no profile waiting, its lock mark, P and reference flag kept; authority and queue are gone; the stations
keep their presence, with stances IDLE, reply slots empty, every notice pending for a PRESENT station and the restart
indicators set; the pending restart is none.  The profiles are those of the default column of R100.  The line setups are loaded from the store as
at a power-on (R110), by the check word of log 9, and the defaults are those that R99 and R103 print.  That a restart can also come as a command of its own, and that no event
handed over outlasts it, are the model's choice: log 3, log 31 and log 5. -/
def Obligations.RestartValues : Prop :=
  ∀ (st : Station) (slot : BitVec 32) (s : State), s.running = true → st ∈ s.pendingRestart →
    ∀ c ∈ [Instr.deviceRestart st, .frameEvent st slot],
    (c = .frameEvent st slot →
      (s.link st).presence = .present ∧ slotGood slot = true ∧ (s.link st).endsReply slot
        ∧ ((s.link st).completes slot = false ∨ (s.link st).replySlot ≠ none)) →
    ∃ t, exec c s = .next t
      ∧ (∀ n,
          (t.line n).control
              = { state := .starting, lockMark := (s.line n).control.lockMark, record := {}, slackWatch := 0
                  hookTimer := none, stallCounter := 0, startingCount := 0, cause := none, flags := 0#10, drive := 0
                  brake := .apply, hookDemand := .none }
            ∧ (t.line n).tension = { filtered := none, reported := 0, tendDir := none, tendCount := 0 }
            ∧ (t.line n).protection = { warnWatch := 0, tripWatch := 0, inhibit := false }
            ∧ (t.line n).applied = t.profile (t.setup n).group ∧ (t.line n).profileDue = false
            ∧ (t.line n).joined = none
            ∧ (t.line n).sense.hook = .unknown ∧ (t.line n).sense.samples = 0 ∧ (t.line n).sense.invalidCount = 0
            ∧ (∀ w ∈ [(t.line n).sense.hookClosed, (t.line n).sense.hookOpen, (t.line n).sense.stowed,
                (t.line n).sense.driveFault], w = { accepted := .unknown, run := 0 })
            ∧ (t.fitted n = true →
                (t.line n).sense.payout = (s.line n).sense.payout
                  ∧ (t.line n).sense.referenced = (s.line n).sense.referenced)
            ∧ (t.fitted n = false → (t.line n).sense.payout = 0 ∧ (t.line n).sense.referenced = false))
      ∧ (∀ g, (t.record g).entries = [] ∧ t.profile g = printedProfile)
      ∧ t.table.settings = { scope := .berth, stagger := 25, vesselLead := false }
      ∧ t.table.store = s.table.store
      ∧ (∀ us, setupsOfImage s.table.store = some us → s.table.store.check = Config.checkWord s.table.store.setups →
          t.table.setups = us ∧ t.table.storeState = .current ∧ t.table.source = .store)
      ∧ (setupsOfImage s.table.store = none ∨ s.table.store.check ≠ Config.checkWord s.table.store.setups →
          (∀ n, setupPrinted n (t.setup n)) ∧ t.table.storeState = .stale ∧ t.table.source = .default)
      ∧ t.berth = { stopped := false, queue := [], releaseAll := false, stagger := none } ∧ t.due = []
      ∧ (∀ x, (t.link x).presence = (s.link x).presence ∧ (t.link x).goodCount = (s.link x).goodCount
          ∧ (t.link x).badCount = (if c = .frameEvent x slot then 0 else (s.link x).badCount)
          ∧ (t.link x).stance = .idle ∧ (t.link x).candidate = none
          ∧ (t.link x).recv = .idle ∧ (t.link x).incoming = .kind ∧ (t.link x).gap = 0
          ∧ (t.link x).send = (if (s.link x).presence = .present then .awaitingClear else .idle)
          ∧ (t.link x).outgoing = none ∧ (t.link x).replySlot = none ∧ (t.link x).linkError = false
          ∧ (t.link x).restartInd = true
          ∧ (∀ g : GroupNo, (t.link x).groupMarks[g] = decide ((s.link x).presence = .present))
          ∧ ∀ n : LineNo, (t.link x).lineMarks[n] = decide ((s.link x).presence = .present))
      ∧ t.pendingRestart = [] ∧ t.pending = s.pending

/-! ### Steps and invariants -/

/-- A step takes the command at the front of the queue and runs it on the state with the queue's rest (log 1).  On an empty
queue the running part takes the oldest event handed over (log 5), with none the expiry of the lowest line whose hook
timer has run its time (R55), and with none lets one sample period of a running stagger timer pass, which ends at its
interval (R142, R143); otherwise nothing changes.  What it does on an empty queue is the model's choice: log 4 and
log 28.  The hook timer counts the line's sample events up to its hook time (R55, log 4); that an OPENING
line stands meanwhile also at an accepted hook position that was OPEN at its entry is the model's reading: log 37. -/
def Obligations.StepRunsFrontCommand : Prop :=
  (∀ (c : Instr) (rest : List Instr) (s : State), step { s with pending := c :: rest } = exec c { s with pending := rest })
    ∧ (∀ s : State, s.pending = [] → s.running = false → step s = .next s)
    ∧ (∀ s : State, s.pending = [] → s.running = true →
        (∀ (d : DueEvent) (rest : List DueEvent), s.due = d :: rest →
          step s
            = exec
                (match d with
                  | .halt n => Instr.holderChangeHalt n
                  | .stopOnset n => .stopOnset n
                  | .inhibitOnset n => .inhibitOnset n
                  | .inhibitLift n => .inhibitLift n
                  | .stance st _ _ => .stanceChange st
                  | .queueTake => .queueTake)
                s)
        ∧ (s.due = [] →
          let expired := fun n => ∃ timer, (s.line n).control.hookTimer = some timer ∧ timer.limit ≤ timer.elapsed
          (∀ n, expired n → (∀ m, m < n → ¬expired m) → step s = exec (.hookTimerExpiry n) s)
            ∧ ((∀ n, ¬expired n) →
                (s.berth.stagger = none → step s = .next s)
                ∧ ∀ timer, s.berth.stagger = some timer →
                  (timer.elapsed + 1 < timer.interval →
                    step s
                      = .next
                          { s with berth := { s.berth with stagger := some { timer with elapsed := timer.elapsed + 1 } } })
                  ∧ (timer.interval ≤ timer.elapsed + 1 → step s = exec .staggerExpiry s))))
    ∧ ∀ (n : LineNo) (pins : SwitchPins) (timer : HookTimer) (s : State),
        s.running = true → s.fitted n = true → (s.line n).sense.settled pins = true →
        (s.line n).control.state = .engaging ∨ (s.line n).control.state = .opening →
        (s.line n).control.hookTimer = some timer → (s.line n).sense.invalidCount < 7 →
        ∃ t, exec (.sampleEvent n 4095#12 pins) s = .next t
          ∧ (t.line n).control.state = (s.line n).control.state
          ∧ (t.line n).control.hookTimer
              = some { limit := timer.limit, elapsed := min (timer.elapsed + 1) timer.limit }

/-- While the reset input is asserted no command but power-on, power loss and the release of the input changes anything
(R18, R147); log 6 gives the model's reading for a part without its supply. -/
def Obligations.NothingHappensInReset : Prop :=
  ∀ (c : Instr) (s : State),
    s.running = false → c ∉ [Instr.powerOn, .resetInputAssert, .resetInputRelease, .powerLoss] → exec c s = .next s

/-- Every step keeps the demands of every line those of its state, and the sign on its direction lead that of a drive
demand other than 0 (R15, R38). -/
def Obligations.DemandsFollowState : Prop :=
  ∀ (s t : State), s.demandsAgree → step s = .next t → t.demandsAgree

/-- The leads of a line show its demands (R14, R15, R16, R38): exactly one brake lead and at most one hook lead is driven,
each in the states that have it; the duty cycle of the speed lead is the speed of the state, 0 in a state without drive;
while it is driven, the direction lead shows the sign after the hand. -/
def Obligations.LeadsShowDemands : Prop :=
  ∀ (n : LineNo) (s : State),
    s.demandsAgree → profileTaken (s.line n).applied = true →
    let x := (s.line n).control.state
    let p := (s.line n).applied
    let outward := x ∈ [LineState.deploying, .slacking]
    let inward := x ∈ [LineState.hauling, .recovering, .rewinding]
    let leads := s.pins n
    (leads.releaseLead = true ↔ outward ∨ inward)
      ∧ (leads.slipLead = true ↔ x = .rendering ∨ x = .slipping)
      ∧ (leads.applyLead = true ↔ leads.releaseLead = false ∧ leads.slipLead = false)
      ∧ (leads.openLead = true ↔ x = .opening) ∧ (leads.closeLead = true ↔ x = .engaging)
      ∧ leads.speedDuty
          = (match x with
            | .deploying => p.deploySpeed
            | .slacking => p.slackSpeed
            | .hauling => p.haulSpeed
            | .recovering => p.recoverSpeed
            | .rewinding => p.rewindSpeed
            | _ => 0)
      ∧ (outward → (leads.direction = .low ↔ (s.setup n).hand = .right))
      ∧ (inward → (leads.direction = .high ↔ (s.setup n).hand = .right))

/-- Every step keeps each line's record in order (R32, R36, R40, R49, R52, R55, R56, R57, R67). -/
def Obligations.RecordsStayTidy : Prop :=
  ∀ (s t : State), s.recordsTidy → step s = .next t → t.recordsTidy

/-- Every step keeps P, F, T and the counters of the Line Sense Unit in their ranges, and T equal to F divided by 16
(R3, R5, R6, R12, R22, R24). -/
def Obligations.FiguresStayBounded : Prop :=
  ∀ (s t : State), s.figuresBounded → step s = .next t → t.figuresBounded

/-- Every step keeps each haul inhibit in force exactly while a fitted line within its scope has WARN or TRIP latched
(R91, R92). -/
def Obligations.InhibitsFollowFlags : Prop :=
  ∀ (s t : State), s.heldInReset → s.inhibitsAgree → step s = .next t → t.heldInReset ∧ t.inhibitsAgree

/-- Every step keeps every group's authority record sound: the rank order of R113 in force, one entry a station, no pending station outranking
the active holder, only PRESENT stations (R114, R119, R122). -/
def Obligations.AuthorityStaysSound : Prop :=
  ranksAsListed ∧ ∀ (s t : State), s.authoritySound → step s = .next t → t.authoritySound

/-- No step puts a line into the release queue twice, and at most one queue take is ever due (R137, R142); and every step
keeps the berth STOPPED exactly while a PRESENT station's validated stance is STOP, once every stance change has been
taken (R133, R134); and every step keeps a reply in transfer to a station in that station's reply slot (R150, R156,
R157, R160).  The list of events handed over is the model's: log 5. -/
def Obligations.BerthActionStaysSound : Prop :=
  ∀ (s t : State), step s = .next t → (s.queueSound → t.queueSound) ∧ (s.stoppedAgrees → t.stoppedAgrees)
    ∧ (s.repliesHeld → t.repliesHeld)

/-- Every step keeps every profile, setup and berth setting one that the part would take (R100, R101, R103, R106), and a
save in progress apart from resets and pending restarts (R108, R109, R169).  That the store state leaves SAVING at the
abandonment of a save is the model's choice: log 38. -/
def Obligations.TableStaysValid : Prop :=
  ∀ (s t : State), s.figuresValid → s.saveSound → step s = .next t → t.figuresValid ∧ t.saveSound

/-- The state after reset meets every one of the invariants. -/
def Obligations.ResetMeetsInvariants : Prop :=
  State.reset.demandsAgree ∧ State.reset.recordsTidy ∧ State.reset.figuresBounded ∧ State.reset.heldInReset
    ∧ State.reset.inhibitsAgree ∧ State.reset.authoritySound ∧ State.reset.queueSound ∧ State.reset.stoppedAgrees
    ∧ State.reset.repliesHeld ∧ State.reset.figuresValid ∧ State.reset.saveSound
end
end

