-- ==== Sys2Proof/Laws/State.lean ====
section
/-! SUPPORT. One lemma for each field of the state under each plain update of it, so that no later proof unfolds a
record update. -/

namespace Sys2Proof.Machine

/-! ### Lines -/

@[simp] theorem State.line_putLine_self (s : State) (n : LineNo) (l : Line) : (s.putLine n l).line n = l := by
  simp [State.line, State.putLine]

theorem State.line_putLine_ne (s : State) {n m : LineNo} (l : Line) (h : m ≠ n) :
    (s.putLine n l).line m = s.line m := by
  simp only [State.line, State.putLine, Fin.getElem_fin]
  exact Vector.getElem_set_ne _ _ (fun e => h (Fin.ext e.symm))

theorem State.line_putLine (s : State) (n m : LineNo) (l : Line) :
    (s.putLine n l).line m = if m = n then l else s.line m := by
  by_cases h : m = n
  · subst h; simp
  · rw [if_neg h, State.line_putLine_ne s l h]

@[simp] theorem State.powered_putLine (s : State) (n : LineNo) (l : Line) : (s.putLine n l).powered = s.powered := rfl
@[simp] theorem State.resetAsserted_putLine (s : State) (n : LineNo) (l : Line) :
    (s.putLine n l).resetAsserted = s.resetAsserted := rfl
@[simp] theorem State.table_putLine (s : State) (n : LineNo) (l : Line) : (s.putLine n l).table = s.table := rfl
@[simp] theorem State.records_putLine (s : State) (n : LineNo) (l : Line) : (s.putLine n l).records = s.records := rfl
@[simp] theorem State.berth_putLine (s : State) (n : LineNo) (l : Line) : (s.putLine n l).berth = s.berth := rfl
@[simp] theorem State.due_putLine (s : State) (n : LineNo) (l : Line) : (s.putLine n l).due = s.due := rfl
@[simp] theorem State.links_putLine (s : State) (n : LineNo) (l : Line) : (s.putLine n l).links = s.links := rfl
@[simp] theorem State.link_putLine (s : State) (n : LineNo) (l : Line) (st : Station) :
    (s.putLine n l).link st = s.link st := rfl
@[simp] theorem State.pendingRestart_putLine (s : State) (n : LineNo) (l : Line) :
    (s.putLine n l).pendingRestart = s.pendingRestart := rfl
@[simp] theorem State.freeIndex_putLine (s : State) (n : LineNo) (l : Line) :
    (s.putLine n l).freeIndex = s.freeIndex := rfl
@[simp] theorem State.pending_putLine (s : State) (n : LineNo) (l : Line) : (s.putLine n l).pending = s.pending := rfl
@[simp] theorem State.setup_putLine (s : State) (n m : LineNo) (l : Line) : (s.putLine n l).setup m = s.setup m := rfl
@[simp] theorem State.fitted_putLine (s : State) (n m : LineNo) (l : Line) :
    (s.putLine n l).fitted m = s.fitted m := rfl
@[simp] theorem State.profile_putLine (s : State) (n : LineNo) (l : Line) (g : GroupNo) :
    (s.putLine n l).profile g = s.profile g := rfl
@[simp] theorem State.record_putLine (s : State) (n : LineNo) (l : Line) (g : GroupNo) :
    (s.putLine n l).record g = s.record g := rfl

/-- Every line at an assertion of the reset input keeps the level of its direction lead alone (R15). -/
@[simp] theorem State.linesAtAssertion_get (s : State) (n : LineNo) : s.linesAtAssertion[n] = (s.line n).atAssertion := by
  match n with
  | 0 | 1 | 2 | 3 | 4 | 5 | 6 | 7 => rfl

/-! ### Links -/

theorem Station.index_injective {a b : Station} (h : Station.index a = Station.index b) : a = b := by
  cases a <;> cases b <;> first | rfl | exact absurd h (by decide)

@[simp] theorem State.link_putLink_self (s : State) (st : Station) (k : Link) : (s.putLink st k).link st = k := by
  simp [State.link, State.putLink]

theorem State.link_putLink_ne (s : State) {st x : Station} (k : Link) (h : x ≠ st) :
    (s.putLink st k).link x = s.link x := by
  simp only [State.link, State.putLink, Fin.getElem_fin]
  exact Vector.getElem_set_ne _ _ (fun e => h (Station.index_injective (Fin.ext e.symm)))

theorem State.link_putLink (s : State) (st x : Station) (k : Link) :
    (s.putLink st k).link x = if x = st then k else s.link x := by
  by_cases h : x = st
  · subst h; simp
  · rw [if_neg h, State.link_putLink_ne s k h]

@[simp] theorem State.link_onLink_self (s : State) (st : Station) (f : Link → Link) :
    (s.onLink st f).link st = f (s.link st) := by simp [State.onLink]

theorem State.link_onLink (s : State) (st x : Station) (f : Link → Link) :
    (s.onLink st f).link x = if x = st then f (s.link x) else s.link x := by
  rw [State.onLink, State.link_putLink]
  by_cases h : x = st
  · subst h; simp
  · simp [h]

@[simp] theorem State.powered_onLink (s : State) (st : Station) (f : Link → Link) :
    (s.onLink st f).powered = s.powered := rfl
@[simp] theorem State.resetAsserted_onLink (s : State) (st : Station) (f : Link → Link) :
    (s.onLink st f).resetAsserted = s.resetAsserted := rfl
@[simp] theorem State.lines_onLink (s : State) (st : Station) (f : Link → Link) : (s.onLink st f).lines = s.lines := rfl
@[simp] theorem State.line_onLink (s : State) (st : Station) (f : Link → Link) (n : LineNo) :
    (s.onLink st f).line n = s.line n := rfl
@[simp] theorem State.table_onLink (s : State) (st : Station) (f : Link → Link) : (s.onLink st f).table = s.table := rfl
@[simp] theorem State.records_onLink (s : State) (st : Station) (f : Link → Link) :
    (s.onLink st f).records = s.records := rfl
@[simp] theorem State.record_onLink (s : State) (st : Station) (f : Link → Link) (g : GroupNo) :
    (s.onLink st f).record g = s.record g := rfl
@[simp] theorem State.berth_onLink (s : State) (st : Station) (f : Link → Link) : (s.onLink st f).berth = s.berth := rfl
@[simp] theorem State.due_onLink (s : State) (st : Station) (f : Link → Link) : (s.onLink st f).due = s.due := rfl
@[simp] theorem State.pendingRestart_onLink (s : State) (st : Station) (f : Link → Link) :
    (s.onLink st f).pendingRestart = s.pendingRestart := rfl
@[simp] theorem State.freeIndex_onLink (s : State) (st : Station) (f : Link → Link) :
    (s.onLink st f).freeIndex = s.freeIndex := rfl
@[simp] theorem State.pending_onLink (s : State) (st : Station) (f : Link → Link) :
    (s.onLink st f).pending = s.pending := rfl
@[simp] theorem State.setup_onLink (s : State) (st : Station) (f : Link → Link) (n : LineNo) :
    (s.onLink st f).setup n = s.setup n := rfl

/-! ### Records -/

@[simp] theorem State.record_putRecord_self (s : State) (g : GroupNo) (r : GroupRecord) :
    (s.putRecord g r).record g = r := by simp [State.record, State.putRecord]

theorem State.record_putRecord_ne (s : State) {g x : GroupNo} (r : GroupRecord) (h : x ≠ g) :
    (s.putRecord g r).record x = s.record x := by
  simp only [State.record, State.putRecord, Fin.getElem_fin]
  exact Vector.getElem_set_ne _ _ (fun e => h (Fin.ext e.symm))

theorem State.record_putRecord (s : State) (g x : GroupNo) (r : GroupRecord) :
    (s.putRecord g r).record x = if x = g then r else s.record x := by
  by_cases h : x = g
  · subst h; simp
  · rw [if_neg h, State.record_putRecord_ne s r h]

/-! ### Equal states from equal parts -/

/-- Two lists of lines with equal lines are equal. -/
theorem State.lines_ext {s t : State} (h : ∀ n, t.line n = s.line n) : t.lines = s.lines := by
  apply Vector.ext
  intro i hi
  exact h ⟨i, hi⟩

/-- Two states with the same authority records by group hold the same records. -/
theorem State.records_ext {s t : State} (h : ∀ g, t.record g = s.record g) : t.records = s.records := by
  apply Vector.ext
  intro i hi
  exact h ⟨i, hi⟩

theorem mem_allLines (n : LineNo) : n ∈ allLines := by revert n; decide

theorem mem_allGroups (g : GroupNo) : g ∈ allGroups := by revert g; decide

theorem mem_allStations (st : Station) : st ∈ allStations := by cases st <;> decide

end Sys2Proof.Machine
end

