-- ==== Sys2Proof/Laws/Authority.lean ====
section
/-! SUPPORT. What the Authority Arbiter's operations can change: the authority records, the events handed over and
the notice marks; and that a change of one line's record reaches no other line. -/

namespace Sys2Proof.Machine

/-- All but the authority records, the events handed over and the authority notice marks is as it was. -/
structure AuthorityOnly (s t : State) : Prop where
  powered : t.powered = s.powered
  resetAsserted : t.resetAsserted = s.resetAsserted
  lines : t.lines = s.lines
  table : t.table = s.table
  berth : t.berth = s.berth
  links : ∀ x, Link.sameButMarks (s.link x) (t.link x)
  lineMarks : ∀ x, (t.link x).lineMarks = (s.link x).lineMarks
  pendingRestart : t.pendingRestart = s.pendingRestart
  freeIndex : t.freeIndex = s.freeIndex
  pending : t.pending = s.pending

theorem Link.sameButMarks_refl (k : Link) : Link.sameButMarks k k := rfl

theorem Link.sameButMarks_trans {a b c : Link} (h : Link.sameButMarks a b) (h' : Link.sameButMarks b c) :
    Link.sameButMarks a c := by
  unfold Link.sameButMarks at *
  rw [h', h]

theorem AuthorityOnly.refl (s : State) : AuthorityOnly s s :=
  ⟨rfl, rfl, rfl, rfl, rfl, fun _ => rfl, fun _ => rfl, rfl, rfl, rfl⟩

theorem AuthorityOnly.trans {s t u : State} (h : AuthorityOnly s t) (h' : AuthorityOnly t u) : AuthorityOnly s u :=
  ⟨h'.powered.trans h.powered, h'.resetAsserted.trans h.resetAsserted, h'.lines.trans h.lines,
    h'.table.trans h.table, h'.berth.trans h.berth, fun x => Link.sameButMarks_trans (h.links x) (h'.links x),
    fun x => (h'.lineMarks x).trans (h.lineMarks x), h'.pendingRestart.trans h.pendingRestart, h'.freeIndex.trans h.freeIndex, h'.pending.trans h.pending⟩

theorem AuthorityOnly.line {s t : State} (h : AuthorityOnly s t) (n : LineNo) : t.line n = s.line n := by
  unfold State.line; rw [h.lines]

theorem AuthorityOnly.setup {s t : State} (h : AuthorityOnly s t) (n : LineNo) : t.setup n = s.setup n := by
  unfold State.setup; rw [h.table]

theorem AuthorityOnly.present {s t : State} (h : AuthorityOnly s t) (x : Station) : t.present x = s.present x := by
  unfold State.present; rw [h.links x]

/-- A fold of steps each of which is one of the Arbiter's is one of the Arbiter's. -/
theorem AuthorityOnly.foldl {α : Type} (f : State → α → State) (hf : ∀ s a, AuthorityOnly s (f s a)) :
    ∀ (l : List α) (s : State), AuthorityOnly s (l.foldl f s)
  | [], s => .refl s
  | a :: l, s => (hf s a).trans (AuthorityOnly.foldl f hf l (f s a))

theorem onLink_marks_authorityOnly (s : State) (st : Station) (f : Link → Link)
    (hf : ∀ k, Link.sameButMarks k (f k)) (hm : ∀ k, (f k).lineMarks = k.lineMarks) :
    AuthorityOnly s (s.onLink st f) := by
  refine ⟨rfl, rfl, rfl, rfl, rfl, fun x => ?_, fun x => ?_, rfl, rfl, rfl⟩
  · rw [State.link_onLink]
    split
    · exact hf _
    · rfl
  · rw [State.link_onLink]
    split
    next h => rw [h]; exact hm _
    · rfl

theorem markGroup_authorityOnly (g : GroupNo) (s : State) : AuthorityOnly s (s.markGroup g) := by
  unfold State.markGroup
  refine AuthorityOnly.foldl _ (fun s st => ?_) _ _
  refine onLink_marks_authorityOnly s st _ (fun k => ?_) fun k => ?_ <;> split <;> rfl

theorem handOverAll_authorityOnly (es : List DueEvent) (s : State) : AuthorityOnly s (s.handOverAll es) :=
  ⟨rfl, rfl, rfl, rfl, rfl, fun _ => rfl, fun _ => rfl, rfl, rfl, rfl⟩

theorem putRecord_authorityOnly (g : GroupNo) (r : GroupRecord) (s : State) : AuthorityOnly s (s.putRecord g r) :=
  ⟨rfl, rfl, rfl, rfl, rfl, fun _ => rfl, fun _ => rfl, rfl, rfl, rfl⟩

theorem setRecord_authorityOnly (g : GroupNo) (r : GroupRecord) (s : State) : AuthorityOnly s (s.setRecord g r) := by
  unfold State.setRecord
  have h1 := putRecord_authorityOnly g r s
  have h2 : AuthorityOnly s
      (if recordChanged (s.record g) r then (s.putRecord g r).markGroup g else s.putRecord g r) := by
    split
    · exact h1.trans (markGroup_authorityOnly g _)
    · exact h1
  dsimp only
  split
  · exact h2
  · exact h2.trans (handOverAll_authorityOnly _ _)

theorem removeEntry_authorityOnly (st : Station) (g : GroupNo) (s : State) :
    AuthorityOnly s (s.removeEntry st g) := by
  unfold State.removeEntry
  split
  · exact setRecord_authorityOnly g _ s
  · exact .refl s

theorem reevaluateAll_authorityOnly (s : State) : AuthorityOnly s s.reevaluateAll :=
  AuthorityOnly.foldl _ (fun s g => setRecord_authorityOnly g _ s) _ s

theorem testGroup_authorityOnly (n : LineNo) (g : GroupNo) (s : State) : AuthorityOnly s (s.testGroup n g) := by
  unfold State.testGroup
  refine AuthorityOnly.foldl _ (fun s e => ?_) _ _
  split
  · exact removeEntry_authorityOnly _ _ _
  · exact .refl s

theorem singleTest_authorityOnly (n : LineNo) (s : State) : AuthorityOnly s (s.singleTest n) :=
  AuthorityOnly.foldl _ (fun s g => testGroup_authorityOnly n g s) _ s

theorem setWatched_authorityOnly (st : Station) (g : GroupNo) (ns : List LineNo) (s : State) :
    AuthorityOnly s (s.setWatched st g ns) := putRecord_authorityOnly g _ s

theorem recordWatched_authorityOnly (st : Station) (taken : List LineNo) (s : State) :
    AuthorityOnly s (s.recordWatched st taken) := by
  unfold State.recordWatched
  refine AuthorityOnly.foldl _ (fun s g => ?_) _ _
  unfold State.recordWatchedIn
  dsimp only
  split
  · split
    · split
      · exact (setWatched_authorityOnly _ _ _ _).trans (removeEntry_authorityOnly _ _ _)
      · exact setWatched_authorityOnly _ _ _ _
    · exact .refl s
  · exact .refl s

/-! ### Marking a line's notice -/

theorem link_markLine (n : LineNo) (s : State) (x : Station) :
    (s.markLine n).link x
      = if s.present x = true then { s.link x with lineMarks := (s.link x).lineMarks.set n true } else s.link x := by
  have hp : s.present x = true ↔ (s.link x).presence = .present := by simp [State.present]
  simp only [hp]
  unfold State.markLine
  cases x <;> simp [allStations, State.link_onLink]

theorem markLine_links (n : LineNo) (s : State) (x : Station) : Link.sameButMarks (s.link x) ((s.markLine n).link x) := by
  rw [link_markLine]
  split <;> rfl

theorem markLine_groupMarks (n : LineNo) (s : State) (x : Station) :
    ((s.markLine n).link x).groupMarks = (s.link x).groupMarks := by
  rw [link_markLine]
  split <;> rfl

theorem markLine_lineMarks (n : LineNo) (s : State) (x : Station) (m : LineNo) :
    ((s.markLine n).link x).lineMarks[m] = true
      ↔ (s.link x).lineMarks[m] = true ∨ (s.present x = true ∧ m = n) := by
  rw [link_markLine]
  split
  next h =>
    simp only [h, true_and, Fin.getElem_fin, Vector.getElem_set]
    by_cases hm : m = n
    · simp [hm]
    · simp [hm, Ne.symm (Fin.val_ne_of_ne hm)]
  next h => simp [h]

/-- A word of flags gains a flag exactly if some flag is in the new word and not in the old. -/
theorem gained_iff (old new : BitVec 10) :
    (new &&& ~~~old) ≠ 0#10 ↔ ∃ f : Flag, flagSet new f = true ∧ flagSet old f = false := by
  constructor
  · intro h
    by_contra hn
    push Not at hn
    refine h (BitVec.eq_of_getLsbD_eq fun i hi => ?_)
    have : ∃ f : Flag, f.bit = i := by
      interval_cases i
      exacts [⟨.warn, rfl⟩, ⟨.trip, rfl⟩, ⟨.allow, rfl⟩, ⟨.limit, rfl⟩, ⟨.payoutEnd, rfl⟩, ⟨.stall, rfl⟩, ⟨.hook, rfl⟩,
        ⟨.snag, rfl⟩, ⟨.sensor, rfl⟩, ⟨.drive, rfl⟩]
    obtain ⟨f, rfl⟩ := this
    have hf := hn f
    unfold flagSet at hf
    cases h1 : new.getLsbD f.bit <;> simp_all
  · rintro ⟨f, h1, h2⟩ h
    unfold flagSet at h1 h2
    have hb : f.bit < 10 := by cases f <;> decide
    have := congrArg (fun w => BitVec.getLsbD w f.bit) h
    rw [BitVec.getLsbD_and, BitVec.getLsbD_not, h1, h2] at this
    simp [hb] at this

/-- The change that the model takes to mark a notice is the one that R65 names. -/
theorem notable_iff (a b : Line) : notable a.control b.control = true ↔ a.noticeDue b := by
  unfold notable Line.noticeDue Line.has
  rw [← gained_iff]
  simp only [Bool.or_eq_true, bne_iff_ne, or_assoc]
  tauto

theorem noticeDue_self (a : Line) : ¬a.noticeDue a := by
  simp [Line.noticeDue]

/-! ### A change of one line's record -/

/-- The change of a line's record with the notice that it marks, without what the Arbiter then does. -/
def State.lineChanged (n : LineNo) (l : Line) (s : State) : State :=
  if notable (s.line n).control l.control then (s.putLine n l).markLine n else s.putLine n l

/-- All but the lines, the authority records, the events handed over and the notice marks is as it was. -/
structure BesideLines (s t : State) : Prop where
  powered : t.powered = s.powered
  resetAsserted : t.resetAsserted = s.resetAsserted
  table : t.table = s.table
  berth : t.berth = s.berth
  links : ∀ x, Link.sameButMarks (s.link x) (t.link x)
  pendingRestart : t.pendingRestart = s.pendingRestart
  freeIndex : t.freeIndex = s.freeIndex
  pending : t.pending = s.pending

theorem BesideLines.refl (s : State) : BesideLines s s :=
  ⟨rfl, rfl, rfl, rfl, fun _ => rfl, rfl, rfl, rfl⟩

theorem BesideLines.trans {s t u : State} (h : BesideLines s t) (h' : BesideLines t u) : BesideLines s u :=
  ⟨h'.powered.trans h.powered, h'.resetAsserted.trans h.resetAsserted, h'.table.trans h.table,
    h'.berth.trans h.berth, fun x => Link.sameButMarks_trans (h.links x) (h'.links x),
    h'.pendingRestart.trans h.pendingRestart, h'.freeIndex.trans h.freeIndex, h'.pending.trans h.pending⟩

theorem AuthorityOnly.besideLines {s t : State} (h : AuthorityOnly s t) : BesideLines s t :=
  ⟨h.powered, h.resetAsserted, h.table, h.berth, h.links, h.pendingRestart, h.freeIndex, h.pending⟩

theorem BesideLines.present {s t : State} (h : BesideLines s t) (x : Station) : t.present x = s.present x := by
  unfold State.present; rw [h.links x]

theorem lineChanged_besideLines (n : LineNo) (l : Line) (s : State) : BesideLines s (s.lineChanged n l) := by
  unfold State.lineChanged
  split
  · exact ⟨rfl, rfl, rfl, rfl, fun x => markLine_links n (s.putLine n l) x, rfl, rfl, rfl⟩
  · exact ⟨rfl, rfl, rfl, rfl, fun _ => rfl, rfl, rfl, rfl⟩

theorem lineChanged_lines (n : LineNo) (l : Line) (s : State) : (s.lineChanged n l).lines = s.lines.set n l := by
  unfold State.lineChanged
  split <;> rfl

/-- What the Arbiter then does leaves every line and every line notice mark. -/
theorem onLine_authorityOnly (n : LineNo) (f : Line → Line) (s : State) :
    AuthorityOnly (s.lineChanged n (f (s.line n))) (s.onLine n f) := by
  have h : s.onLine n f
      = if (s.line n).control.state = (f (s.line n)).control.state then s.lineChanged n (f (s.line n))
        else (s.lineChanged n (f (s.line n))).singleTest n := rfl
  rw [h]
  split
  · exact .refl _
  · exact singleTest_authorityOnly n _

theorem onLine_besideLines (n : LineNo) (f : Line → Line) (s : State) : BesideLines s (s.onLine n f) :=
  (lineChanged_besideLines n _ s).trans (onLine_authorityOnly n f s).besideLines

/-- The line notices marked after a change of one line's record. -/
theorem onLine_lineMarks (n : LineNo) (f : Line → Line) (s : State) (x : Station) (m : LineNo) :
    ((s.onLine n f).link x).lineMarks[m] = true
      ↔ (s.link x).lineMarks[m] = true
        ∨ (s.present x = true ∧ m = n ∧ (s.line n).noticeDue (f (s.line n))) := by
  rw [(onLine_authorityOnly n f s).lineMarks x, ← notable_iff]
  unfold State.lineChanged
  split
  next h =>
    rw [markLine_lineMarks]
    simp [h, State.present]
  next h => simp [h]

/-- The line after a change of its record. -/
@[simp] theorem onLine_line_self (n : LineNo) (f : Line → Line) (s : State) : (s.onLine n f).line n = f (s.line n) := by
  rw [(onLine_authorityOnly n f s).line]
  unfold State.line
  simp [lineChanged_lines]

theorem onLine_line (n m : LineNo) (f : Line → Line) (s : State) :
    (s.onLine n f).line m = if m = n then f (s.line n) else s.line m := by
  rw [(onLine_authorityOnly n f s).line, ← State.line_putLine]
  unfold State.line
  rw [lineChanged_lines]
  rfl

@[simp] theorem onLine_table (n : LineNo) (f : Line → Line) (s : State) : (s.onLine n f).table = s.table :=
  (onLine_besideLines n f s).table

@[simp] theorem onLine_berth (n : LineNo) (f : Line → Line) (s : State) : (s.onLine n f).berth = s.berth :=
  (onLine_besideLines n f s).berth

@[simp] theorem onLine_setup (n m : LineNo) (f : Line → Line) (s : State) : (s.onLine n f).setup m = s.setup m := by
  unfold State.setup; rw [onLine_table]

@[simp] theorem onLine_fitted (n m : LineNo) (f : Line → Line) (s : State) : (s.onLine n f).fitted m = s.fitted m := by
  simp [State.fitted]

@[simp] theorem onLine_present (n : LineNo) (f : Line → Line) (s : State) (x : Station) :
    (s.onLine n f).present x = s.present x := (onLine_besideLines n f s).present x

/-! ### Without single marks -/

theorem noSingle_iff (s : State) :
    s.noSingle = true ↔ ∀ g, ∀ e ∈ (s.record g).entries, e.single = false := by
  simp only [State.noSingle, List.all_eq_true, Bool.not_eq_true']
  exact ⟨fun h g => h g (mem_allGroups g), fun h g _ => h g⟩

theorem noWatched_iff (s : State) :
    s.noWatched = true ↔ ∀ g, ∀ e ∈ (s.record g).entries, e.watched = none := by
  simp only [State.noWatched, List.all_eq_true, Option.isNone_iff_eq_none]
  exact ⟨fun h g => h g (mem_allGroups g), fun h g _ => h g⟩

/-- Where no entry watches a line as a marked entry does, the single-command test changes nothing. -/
theorem testGroup_eq_self (n : LineNo) (g : GroupNo) (s : State)
    (h : ∀ e ∈ (s.record g).entries, e.single = false ∨ e.watched = none) : s.testGroup n g = s := by
  unfold State.testGroup
  have h' : ∀ es : List Entry, (∀ e ∈ es, e.single = false ∨ e.watched = none) →
      es.foldl (fun s e =>
        if ((e.watched.getD []).contains n && s.singleDone e) = true then s.removeEntry e.station g else s) s = s := by
    intro es
    induction es with
    | nil => intro _; rfl
    | cons e es ih =>
      intro he
      have h1 : ((e.watched.getD []).contains n && s.singleDone e) = false := by
        rcases he e (by simp) with h1 | h1
        · simp [State.singleDone, h1]
        · simp [h1]
      simp only [List.foldl_cons, h1, Bool.false_eq_true, if_false]
      exact ih fun x hx => he x (by simp [hx])
  exact h' _ h

/-- Where no entry is both marked and watching, the single-command test changes nothing. -/
theorem singleTest_eq_self (n : LineNo) (s : State)
    (h : ∀ g, ∀ e ∈ (s.record g).entries, e.single = false ∨ e.watched = none) : s.singleTest n = s := by
  unfold State.singleTest
  have : ∀ gs : List GroupNo, gs.foldl (fun s g => s.testGroup n g) s = s := by
    intro gs
    induction gs with
    | nil => rfl
    | cons g gs ih => rw [List.foldl_cons, testGroup_eq_self n g s (h g), ih]
  exact this _

theorem noSingle_quiet {s : State} (h : s.noSingle = true) :
    ∀ g, ∀ e ∈ (s.record g).entries, e.single = false ∨ e.watched = none :=
  fun g e he => .inl ((noSingle_iff s).1 h g e he)

theorem noWatched_quiet {s : State} (h : s.noWatched = true) :
    ∀ g, ∀ e ∈ (s.record g).entries, e.single = false ∨ e.watched = none :=
  fun g e he => .inr ((noWatched_iff s).1 h g e he)

theorem markLine_records (n : LineNo) (s : State) : (s.markLine n).records = s.records := rfl

theorem markLine_due (n : LineNo) (s : State) : (s.markLine n).due = s.due := rfl

/-- Where no entry is both marked and watching, a change of a line's record leaves the authority records, the events
handed over and the authority notice marks as they are. -/
theorem onLine_sameAuthority (n : LineNo) (f : Line → Line) (s : State)
    (h : ∀ g, ∀ e ∈ (s.record g).entries, e.single = false ∨ e.watched = none) :
    s.sameAuthority (s.onLine n f) := by
  unfold State.onLine
  dsimp only
  have h1 : s.sameAuthority (s.putLine n (f (s.line n))) := ⟨rfl, rfl, fun _ => rfl⟩
  have hq : ∀ g, ∀ e ∈ ((s.putLine n (f (s.line n))).record g).entries, e.single = false ∨ e.watched = none := h
  generalize s.putLine n (f (s.line n)) = s1 at h1 hq
  have h2 : s.sameAuthority (if notable (s.line n).control (f (s.line n)).control then s1.markLine n else s1) ∧
      ∀ g, ∀ e ∈ ((if notable (s.line n).control (f (s.line n)).control then s1.markLine n else s1).record g).entries,
        e.single = false ∨ e.watched = none := by
    split
    · exact ⟨⟨h1.1, h1.2.1, fun x => (markLine_groupMarks n s1 x).trans (h1.2.2 x)⟩, hq⟩
    · exact ⟨h1, hq⟩
  split
  · exact h2.1
  · rw [singleTest_eq_self n _ h2.2]
    exact h2.1

/-- What a change of one line's record leaves alone. -/
theorem onLine_oneLine (n : LineNo) (f : Line → Line) (s : State) : s.oneLine (s.onLine n f) n := by
  have h := onLine_besideLines n f s
  refine ⟨fun m hm => ?_, ⟨h.powered, h.resetAsserted, h.table, h.pendingRestart, h.freeIndex, h.pending⟩, h.berth,
    fun x => h.links x, fun x m => ?_, fun hs => onLine_sameAuthority n f s (noSingle_quiet hs)⟩
  · rw [onLine_line, if_neg hm]
  · rw [onLine_lineMarks, onLine_line]
    by_cases hm : m = n
    · simp [hm]
    · simp [hm, noticeDue_self]

end Sys2Proof.Machine
end

