-- ==== Sys2Proof/Laws/Arbiter.lean ====
section
/-! SUPPORT. The rank order of a set of entries, re-evaluation of a group, and what a change of a group's record does. -/

namespace Sys2Proof.Machine

/-! ### Rank order -/

theorem rank_injective (lead : Bool) {a b : Station} (h : rank lead a = rank lead b) : a = b := by
  revert h; cases lead <;> cases a <;> cases b <;> decide

theorem mem_rankOrder (lead : Bool) (st : Station) : st ∈ rankOrder lead := by cases lead <;> cases st <;> decide

theorem rankOrder_pairwise (lead : Bool) : (rankOrder lead).Pairwise fun a b => rank lead a < rank lead b := by
  cases lead <;> decide

theorem entryOf_station {st : Station} {es : List Entry} {e : Entry} (h : entryOf st es = some e) : e.station = st := by
  have := List.find?_some h
  simpa using this

theorem entryOf_mem {st : Station} {es : List Entry} {e : Entry} (h : entryOf st es = some e) : e ∈ es :=
  List.mem_of_find?_eq_some h

/-- The entry of a station in a set that holds each station once. -/
theorem entryOf_eq_some {es : List Entry} (hd : (es.map Entry.station).Nodup) {e : Entry} (he : e ∈ es) :
    entryOf e.station es = some e := by
  induction es with
  | nil => simp at he
  | cons a es ih =>
    unfold entryOf
    rw [List.map_cons, List.nodup_cons] at hd
    rcases List.mem_cons.mp he with rfl | he'
    · simp
    · have hne : a.station ≠ e.station := fun h => hd.1 (h ▸ List.mem_map_of_mem he')
      rw [List.find?_cons, beq_eq_false_iff_ne.mpr hne]
      exact ih hd.2 he'

/-- A set put in rank order is in rank order (R114). -/
theorem inRankOrder_ranked (lead : Bool) (es : List Entry) : ranked lead (inRankOrder lead es) := by
  unfold ranked inRankOrder
  rw [List.pairwise_filterMap]
  refine (rankOrder_pairwise lead).imp fun {a b} hab => ?_
  intro x hx y hy
  rw [entryOf_station hx, entryOf_station hy]
  exact hab

theorem inRankOrder_subset (lead : Bool) {es : List Entry} {e : Entry} (h : e ∈ inRankOrder lead es) : e ∈ es := by
  obtain ⟨st, -, h⟩ := List.mem_filterMap.mp h
  exact entryOf_mem h

/-- Putting a set that holds each station once in rank order loses and makes no entry. -/
theorem mem_inRankOrder (lead : Bool) {es : List Entry} (hd : (es.map Entry.station).Nodup) (e : Entry) :
    e ∈ inRankOrder lead es ↔ e ∈ es :=
  ⟨inRankOrder_subset lead, fun h =>
    List.mem_filterMap.mpr ⟨e.station, mem_rankOrder lead _, entryOf_eq_some hd h⟩⟩

theorem ranked_nodup {lead : Bool} {es : List Entry} (h : ranked lead es) : (es.map Entry.station).Nodup := by
  unfold List.Nodup
  rw [List.pairwise_map]
  refine List.Pairwise.imp (fun {a b} hab heq => ?_) h
  rw [heq] at hab
  exact absurd hab (lt_irrefl _)

/-- Two sets in the same rank order with the same entries are equal. -/
theorem ranked_ext {lead : Bool} {es fs : List Entry} (he : ranked lead es) (hf : ranked lead fs)
    (h : ∀ e, e ∈ es ↔ e ∈ fs) : es = fs := by
  have hp : List.Perm es fs :=
    (List.perm_ext_iff_of_nodup (List.Nodup.of_map _ (ranked_nodup he)) (List.Nodup.of_map _ (ranked_nodup hf))).mpr h
  refine List.Perm.eq_of_pairwise (le := fun a b : Entry => rank lead a.station < rank lead b.station)
    (fun a b _ _ hab hba => absurd (hab.trans hba) (lt_irrefl _)) he hf hp

/-- A set already in rank order stays as it is (R114). -/
theorem inRankOrder_eq_self {lead : Bool} {es : List Entry} (h : ranked lead es) : inRankOrder lead es = es :=
  ranked_ext (inRankOrder_ranked lead es) h (mem_inRankOrder lead (ranked_nodup h))

/-! ### Re-evaluation -/

/-- Re-evaluation (R119): both sets are in rank order afterwards, no pending station outranks the active holder or waits
without one, and every entry was there before. -/
theorem reevaluated_spec (lead : Bool) (r : GroupRecord) :
    ranked lead (reevaluated lead r).waiting
      ∧ (ranked lead (reevaluated lead r).inService)
      ∧ (∀ b ∈ (reevaluated lead r).waiting, ∃ h, (reevaluated lead r).holder = some h ∧ rank lead h ≤ rank lead b.station)
      ∧ ∀ e ∈ (reevaluated lead r).entries, e ∈ r.entries := by
  have hs := inRankOrder_ranked lead r.inService
  have hw := inRankOrder_ranked lead r.waiting
  have hss : ∀ e ∈ inRankOrder lead r.inService, e ∈ r.inService := fun e => inRankOrder_subset lead
  have hws : ∀ e ∈ inRankOrder lead r.waiting, e ∈ r.waiting := fun e => inRankOrder_subset lead
  unfold reevaluated
  dsimp only
  generalize inRankOrder lead r.inService = S at *
  generalize inRankOrder lead r.waiting = W at *
  cases W with
  | nil =>
    refine ⟨List.Pairwise.nil, hs, by simp, fun e he => ?_⟩
    simp only [GroupRecord.entries, List.append_nil, List.mem_append] at he ⊢
    exact .inl (hss e he)
  | cons w ws =>
    have hw' := List.pairwise_cons.mp hw
    cases S with
    | nil =>
      refine ⟨hw'.2, List.pairwise_singleton _ _, fun b hb => ⟨w.station, rfl, (hw'.1 b hb).le⟩, fun e he => ?_⟩
      simp only [GroupRecord.entries, List.mem_append, List.mem_cons, List.not_mem_nil, or_false] at he ⊢
      exact .inr (hws e (List.mem_cons.mpr he))
    | cons h t =>
      dsimp only
      split
      next ho =>
        have ho' : rank lead w.station < rank lead h.station := by simpa [outranks] using ho
        have hs' := List.pairwise_cons.mp hs
        refine ⟨hw'.2, List.pairwise_cons.mpr ⟨fun e he => ?_, hs⟩, fun b hb => ⟨w.station, rfl, (hw'.1 b hb).le⟩,
          fun e he => ?_⟩
        · rcases List.mem_cons.mp he with rfl | he
          · exact ho'
          · exact ho'.trans (hs'.1 e he)
        · simp only [GroupRecord.entries, List.mem_append] at he ⊢
          rcases he with he | he
          · rcases List.mem_cons.mp he with rfl | he
            · exact .inr (hws _ (by simp))
            · exact .inl (hss e he)
          · exact .inr (hws e (by simp [he]))
      next ho =>
        have ho' : rank lead h.station ≤ rank lead w.station := by simpa [outranks] using ho
        refine ⟨hw, hs, fun b hb => ⟨h.station, rfl, ?_⟩, fun e he => ?_⟩
        · rcases List.mem_cons.mp hb with rfl | hb
          · exact ho'
          · exact ho'.trans (hw'.1 b hb).le
        · simp only [GroupRecord.entries, List.mem_append] at he ⊢
          exact he.imp (hss e) (hws e)

/-- Re-evaluation loses no entry of a record that holds each station once in each set. -/
theorem mem_reevaluated (lead : Bool) (r : GroupRecord) (hs : (r.inService.map Entry.station).Nodup)
    (hw : (r.waiting.map Entry.station).Nodup) (e : Entry) :
    e ∈ (reevaluated lead r).entries ↔ e ∈ r.entries := by
  refine ⟨(reevaluated_spec lead r).2.2.2 e, fun he => ?_⟩
  have hes := mem_inRankOrder lead hs e
  have hew := mem_inRankOrder lead hw e
  simp only [GroupRecord.entries, List.mem_append] at he ⊢
  rw [← hes, ← hew] at he
  unfold reevaluated
  dsimp only
  generalize inRankOrder lead r.inService = S at *
  generalize inRankOrder lead r.waiting = W at *
  cases W with
  | nil => simpa using he
  | cons w ws =>
    cases S with
    | nil => simpa using he
    | cons h t =>
      dsimp only
      split
      · simp only [List.mem_cons] at he ⊢
        tauto
      · simpa using he

/-- Re-evaluation in the literal form of R119, of a record that holds each station once. -/
theorem reevaluated_reevaluatedTo (lead : Bool) (r : GroupRecord) (hd : (r.entries.map Entry.station).Nodup) :
    r.reevaluatedTo lead (reevaluated lead r) := by
  have hd' := hd
  unfold GroupRecord.entries at hd'
  rw [List.map_append, List.nodup_append] at hd'
  obtain ⟨hds, hdw, hdisj⟩ := hd'
  have hes := mem_inRankOrder lead hds
  have hew := mem_inRankOrder lead hdw
  have hne : ∀ a ∈ r.inService, ∀ b ∈ r.waiting, a ≠ b := fun a ha b hb h =>
    hdisj _ (List.mem_map_of_mem ha) _ (List.mem_map_of_mem hb) (congrArg Entry.station h)
  obtain ⟨hrw, hrs, -, -⟩ := reevaluated_spec lead r
  refine ⟨hrs, hrw, ?_⟩
  clear hrw hrs
  have hs := inRankOrder_ranked lead r.inService
  have hw := inRankOrder_ranked lead r.waiting
  simp only [← hes, ← hew]
  unfold reevaluated
  dsimp only
  have hneq : ∀ a ∈ inRankOrder lead r.inService, ∀ b ∈ inRankOrder lead r.waiting, a ≠ b := fun a ha b hb =>
    hne a ((hes a).mp ha) b ((hew b).mp hb)
  generalize inRankOrder lead r.inService = S at *
  generalize inRankOrder lead r.waiting = W at *
  clear hes hew
  cases W with
  | nil => simp
  | cons w ws =>
    have hw' := List.pairwise_cons.mp hw
    have hnot : w ∉ ws := fun h => absurd (hw'.1 w h) (lt_irrefl _)
    have top : ∀ e ∈ w :: ws, (∀ f ∈ w :: ws, rank lead e.station ≤ rank lead f.station) → e = w := fun e he h => by
      rcases List.mem_cons.mp he with rfl | he'
      · rfl
      · exact absurd (hw'.1 e he') (not_lt.mpr (h w List.mem_cons_self))
    have least : ∀ f ∈ w :: ws, rank lead w.station ≤ rank lead f.station := fun f hf => by
      rcases List.mem_cons.mp hf with rfl | hf'
      · exact le_rfl
      · exact (hw'.1 f hf').le
    have moved : ∀ (p : Entry → Prop), (∀ e ∈ w :: ws, p e ↔ e = w) → ∀ e, (e ∈ ws ↔ e ∈ w :: ws ∧ ¬p e) := by
      intro p hp e
      constructor
      · intro he
        exact ⟨List.mem_cons_of_mem _ he, fun h => hnot ((hp e (List.mem_cons_of_mem _ he)).mp h ▸ he)⟩
      · rintro ⟨he, hn⟩
        rcases List.mem_cons.mp he with rfl | he'
        · exact absurd ((hp e List.mem_cons_self).mpr rfl) hn
        · exact he'
    cases S with
    | nil =>
      have hp : ∀ e ∈ w :: ws, ((∀ f ∈ w :: ws, rank lead e.station ≤ rank lead f.station)
          ∧ ∀ h ∈ ([] : List Entry), rank lead e.station < rank lead h.station) ↔ e = w := fun e he =>
        ⟨fun h => top e he h.1, fun h => by subst h; exact ⟨least, by simp⟩⟩
      refine ⟨fun e => ?_, fun e => moved _ hp e⟩
      constructor
      · intro h
        have : e = w := by simpa using h
        subst this
        exact .inr ⟨List.mem_cons_self, (hp e List.mem_cons_self).mpr rfl⟩
      · rintro (h | ⟨he, h⟩)
        · simp at h
        · simp [(hp e he).mp h]
    | cons h t =>
      have hs' := List.pairwise_cons.mp hs
      dsimp only
      split
      next ho =>
        have ho' : rank lead w.station < rank lead h.station := by simpa [outranks] using ho
        have hall : ∀ x ∈ h :: t, rank lead w.station < rank lead x.station := fun x hx => by
          rcases List.mem_cons.mp hx with rfl | hx'
          · exact ho'
          · exact ho'.trans (hs'.1 x hx')
        have hp : ∀ e ∈ w :: ws, ((∀ f ∈ w :: ws, rank lead e.station ≤ rank lead f.station)
            ∧ ∀ x ∈ h :: t, rank lead e.station < rank lead x.station) ↔ e = w := fun e he =>
          ⟨fun h => top e he h.1, fun h => by subst h; exact ⟨least, hall⟩⟩
        refine ⟨fun e => ?_, fun e => moved _ hp e⟩
        constructor
        · intro he
          rcases List.mem_cons.mp he with rfl | he'
          · exact .inr ⟨List.mem_cons_self, (hp e List.mem_cons_self).mpr rfl⟩
          · exact .inl he'
        · rintro (he | ⟨he, hm⟩)
          · exact List.mem_cons_of_mem _ he
          · rw [(hp e he).mp hm]; exact List.mem_cons_self
      next ho =>
        have ho' : rank lead h.station ≤ rank lead w.station := by simpa [outranks] using ho
        have hp : ∀ e ∈ w :: ws, ¬((∀ f ∈ w :: ws, rank lead e.station ≤ rank lead f.station)
            ∧ ∀ x ∈ h :: t, rank lead e.station < rank lead x.station) := fun e he hm => by
          rw [top e he hm.1] at hm
          exact absurd (hm.2 h List.mem_cons_self) (not_lt.mpr ho')
        exact ⟨fun e => ⟨fun he => .inl he, fun he => he.elim id fun ⟨he, hm⟩ => absurd hm (hp e he)⟩,
          fun e => ⟨fun he => ⟨he, hp e he⟩, fun he => he.1⟩⟩

/-- A record that R114 and R119 allow is left as it is by a re-evaluation. -/
theorem reevaluated_eq_self {lead : Bool} {r : GroupRecord} (hs : ranked lead r.inService) (hw : ranked lead r.waiting)
    (h : ∀ b ∈ r.waiting, ∃ x, r.holder = some x ∧ rank lead x < rank lead b.station) : reevaluated lead r = r := by
  unfold reevaluated
  dsimp only
  rw [inRankOrder_eq_self hs, inRankOrder_eq_self hw]
  obtain ⟨S, W⟩ := r
  cases W with
  | nil => rfl
  | cons w ws =>
    obtain ⟨x, hx, hlt⟩ := h w (by simp)
    cases S with
    | nil => simp [GroupRecord.holder] at hx
    | cons a t =>
      have hx' : a.station = x := by simpa [GroupRecord.holder] using hx
      dsimp only
      rw [if_neg]
      simp only [outranks, decide_eq_true_eq, not_lt, hx']
      exact hlt.le

/-! ### A change of a group's record -/

theorem markGroup_lines (g : GroupNo) (s : State) : (s.markGroup g).lines = s.lines := (markGroup_authorityOnly g s).lines
theorem markGroup_records (g : GroupNo) (s : State) : (s.markGroup g).records = s.records := rfl
theorem markGroup_due (g : GroupNo) (s : State) : (s.markGroup g).due = s.due := rfl

/-- The record of each group after a change of one (R130 is only about marks). -/
theorem setRecord_record (g x : GroupNo) (r : GroupRecord) (s : State) :
    (s.setRecord g r).record x = if x = g then r else s.record x := by
  have h : (s.setRecord g r).records = (s.putRecord g r).records := by
    unfold State.setRecord State.handOverAll
    dsimp only
    split <;> split <;> rfl
  unfold State.record
  rw [h]
  exact State.record_putRecord s g x r

/-- The halts that a change of a group's record hands over (R120). -/
theorem setRecord_due (g : GroupNo) (r : GroupRecord) (s : State) :
    (s.setRecord g r).due
      = if (s.record g).holder = r.holder then s.due else s.due ++ (s.groupLines g).map DueEvent.halt := by
  have h2 : ∀ u : State, u.table = s.table → u.groupLines g = s.groupLines g := by
    intro u hu
    unfold State.groupLines State.fitted State.setup
    rw [hu]
  unfold State.setRecord State.handOverAll
  dsimp only
  split <;> split <;> rfl

/-- The holder of each group after a change of one. -/
theorem setRecord_holder (g x : GroupNo) (r : GroupRecord) (s : State) :
    (s.setRecord g r).holder x = if x = g then r.holder else s.holder x := by
  unfold State.holder
  rw [setRecord_record]
  split <;> rfl

/-- The record of each group after a station's entry is removed from one (R117, R122, R124). -/
theorem removeEntry_record (st : Station) (g x : GroupNo) (s : State) :
    (s.removeEntry st g).record x
      = if x = g ∧ ((s.record g).entry st).isSome then
          reevaluated s.table.settings.vesselLead ((s.record g).without st)
        else s.record x := by
  unfold State.removeEntry
  by_cases h : ((s.record g).entry st).isSome
  · rw [if_pos h, setRecord_record]
    simp [h]
  · rw [if_neg h]
    simp [h]

theorem entry_isSome_iff (r : GroupRecord) (st : Station) :
    (r.entry st).isSome = true ↔ ∃ e ∈ r.entries, e.station = st := by
  unfold GroupRecord.entry entryOf GroupRecord.entries
  simp only [List.find?_isSome, List.mem_append, beq_iff_eq, or_and_right, exists_or]

theorem mem_without (r : GroupRecord) (st : Station) (e : Entry) :
    e ∈ (r.without st).entries ↔ e ∈ r.entries ∧ e.station ≠ st := by
  unfold GroupRecord.without GroupRecord.entries withoutStation
  simp only [List.mem_append, List.mem_filter, bne_iff_ne]
  tauto

/-! ### Notices of a change of a record -/

theorem holdsLike_iff (es : List Entry) (e : Entry) : holdsLike es e = true ↔ listed es e.station e.single := by
  simp [holdsLike, listed]

theorem sameEntries_iff (es fs : List Entry) :
    sameEntries es fs = true ↔ ∀ st single, listed es st single ↔ listed fs st single := by
  simp only [sameEntries, Bool.and_eq_true, List.all_eq_true, holdsLike_iff]
  constructor
  · rintro ⟨h1, h2⟩ st single
    exact ⟨fun ⟨e, he, h, h'⟩ => h ▸ h' ▸ h1 e he, fun ⟨e, he, h, h'⟩ => h ▸ h' ▸ h2 e he⟩
  · intro h
    exact ⟨fun e he => (h _ _).mp ⟨e, he, rfl, rfl⟩, fun e he => (h _ _).mpr ⟨e, he, rfl, rfl⟩⟩

/-- The changes of a record that mark its notice, in the literal form of R130. -/
theorem recordChanged_iff (a b : GroupRecord) : recordChanged a b = true ↔ a.noticeDue b := by
  simp only [recordChanged, GroupRecord.noticeDue, Bool.or_eq_true, bne_iff_ne, Bool.not_eq_true', ← Bool.not_eq_true,
    sameEntries_iff, not_forall, exists_or, or_assoc]

/-- What marking a group's notice does to each station's items. -/
theorem link_markGroup (g : GroupNo) (s : State) (x : Station) :
    (s.markGroup g).link x
      = if s.present x = true then { s.link x with groupMarks := (s.link x).groupMarks.set g true } else s.link x := by
  unfold State.markGroup State.present
  cases x <;> simp [allStations, State.link_onLink]

/-- The authority notices that a change of one group's record marks (R130, R158). -/
theorem setRecord_groupMarks (g x : GroupNo) (r : GroupRecord) (s : State) (st : Station) :
    ((s.setRecord g r).link st).groupMarks[x] = true
      ↔ (s.link st).groupMarks[x] = true ∨ (x = g ∧ s.present st = true ∧ (s.record g).noticeDue r) := by
  have h : (s.setRecord g r).link st
      = if recordChanged (s.record g) r = true then ((s.putRecord g r).markGroup g).link st else s.link st := by
    unfold State.setRecord State.handOverAll
    dsimp only
    split <;> split <;> rfl
  rw [h, ← recordChanged_iff]
  split
  next hc =>
    rw [link_markGroup]
    have hp : (s.putRecord g r).present st = s.present st := rfl
    have hl : (s.putRecord g r).link st = s.link st := rfl
    rw [hp, hl]
    split
    next hs =>
      simp only [hc, hs, and_true, Fin.getElem_fin, Vector.getElem_set]
      by_cases e : x = g
      · simp [e]
      · simp [e, Ne.symm (Fin.val_ne_of_ne e)]
    next hs => simp [hs]
  next hc => simp [hc]

end Sys2Proof.Machine
end

