-- ==== Sys2Proof/Laws/Berth.lean ====
section
/-! SUPPORT. What the Berth Action Unit's operations do: the appends to the release queue, the order of a release-all,
the recomputing of the stop, and the taking of the head. -/

namespace Sys2Proof.Machine

/-! ### Appending to the release queue -/

theorem mem_newEntries {n : LineNo} : ∀ {ns queue : List LineNo}, n ∈ newEntries queue ns ↔ n ∈ ns ∧ n ∉ queue
  | [], queue => by simp [newEntries]
  | a :: ns, queue => by
    unfold newEntries
    by_cases ha : a ∈ queue
    · rw [if_pos (by simpa using ha), mem_newEntries, List.mem_cons]
      constructor
      · exact fun h => ⟨.inr h.1, h.2⟩
      · rintro ⟨h | h, hq⟩
        · exact absurd (h ▸ ha) hq
        · exact ⟨h, hq⟩
    · rw [if_neg (by simpa using ha)]
      simp only [List.mem_cons, mem_newEntries, List.mem_append]
      by_cases hna : n = a
      · subst hna; simp [ha]
      · simp [hna]

theorem nodup_newEntries : ∀ (ns queue : List LineNo), (newEntries queue ns).Nodup
  | [], queue => by simp [newEntries]
  | a :: ns, queue => by
    unfold newEntries
    split
    · exact nodup_newEntries ns queue
    · refine List.nodup_cons.mpr ⟨fun h => ?_, nodup_newEntries ns _⟩
      exact (mem_newEntries.mp h).2 (by simp)

/-- Lines of which none is queued and none is named twice join as they are. -/
theorem newEntries_eq_self : ∀ {ns queue : List LineNo}, ns.Nodup → (∀ n ∈ ns, n ∉ queue) → newEntries queue ns = ns
  | [], queue, _, _ => rfl
  | a :: ns, queue, hd, hq => by
    unfold newEntries
    rw [if_neg (by simpa using hq a (by simp))]
    have hd' := List.nodup_cons.mp hd
    rw [newEntries_eq_self hd'.2 fun n hn h => ?_]
    rcases List.mem_append.mp h with h | h
    · exact hq n (by simp [hn]) h
    · exact hd'.1 (by simpa using (List.mem_singleton.mp h) ▸ hn)

/-- An append (R137, R142): the new entries join the tail, and a queue take comes due where one joined while the
stagger timer was idle and none was due. -/
theorem appendQueue_spec (ns : List LineNo) (s : State) :
    s.appendQueue ns
      = { s with
          berth := { s.berth with queue := s.berth.queue ++ newEntries s.berth.queue ns }
          due :=
            if newEntries s.berth.queue ns ≠ [] ∧ s.berth.stagger = none ∧ DueEvent.queueTake ∉ s.due then
              s.due ++ [.queueTake]
            else s.due } := by
  unfold State.appendQueue State.dueTake State.handOver
  dsimp only
  by_cases h1 : newEntries s.berth.queue ns = []
  · simp [h1]
  · by_cases h2 : s.berth.stagger = none
    · by_cases h3 : DueEvent.queueTake ∈ s.due <;> simp [h1, h2, h3]
    · have h2' : s.berth.stagger.isSome = true := Option.isSome_iff_ne_none.mpr h2
      simp [h1, h2, h2']

/-- The queue stays without repeats (R137). -/
theorem appendQueue_nodup (ns : List LineNo) (s : State) (h : s.berth.queue.Nodup) :
    (s.appendQueue ns).berth.queue.Nodup := by
  rw [appendQueue_spec]
  exact List.nodup_append.mpr ⟨h, nodup_newEntries ns _, fun a ha b hb hab =>
    (mem_newEntries.mp hb).2 (hab ▸ ha)⟩

/-- A list of lines without repeats has at most eight. -/
theorem length_le_eight {ns : List LineNo} (h : ns.Nodup) : ns.length ≤ 8 := by
  have := List.Nodup.length_le_card h
  simpa using this

/-- A queue take that comes due is the only one. -/
theorem dueTake_count (s : State) (h : s.due.count .queueTake ≤ 1) : s.dueTake.due.count .queueTake ≤ 1 := by
  unfold State.dueTake State.handOver
  split
  · exact h
  next hc =>
    have : s.due.count DueEvent.queueTake = 0 := List.count_eq_zero.mpr (by simpa using hc)
    simp [List.count_append, this]

/-! ### The order of a release-all -/

theorem mem_byRank (s : State) (ns : List LineNo) (n : LineNo) : n ∈ s.byRank ns ↔ n ∈ ns := by
  unfold State.byRank
  simp only [List.mem_flatMap, List.mem_filter, beq_iff_eq]
  exact ⟨fun ⟨_, _, h, _⟩ => h, fun h => ⟨(s.setup n).rank, mem_allLines _, h, rfl⟩⟩

/-- The lines of a set in order of release rank, and within a rank in their own order (R138). -/
theorem byRank_pairwise (s : State) (ns : List LineNo) (h : ns.Pairwise (· < ·)) :
    (s.byRank ns).Pairwise fun a b =>
      (s.setup a).rank < (s.setup b).rank ∨ ((s.setup a).rank = (s.setup b).rank ∧ a < b) := by
  unfold State.byRank
  rw [List.pairwise_flatMap]
  refine ⟨fun r _ => ?_, ?_⟩
  · refine (h.filter _).imp_of_mem fun {a b} ha hb hab => .inr ⟨?_, hab⟩
    have ha' := (List.mem_filter.mp ha).2
    have hb' := (List.mem_filter.mp hb).2
    rw [beq_iff_eq] at ha' hb'
    rw [ha', hb']
  · have hl : allLines.Pairwise (· < ·) := by decide
    refine hl.imp fun {r q} hrq => fun a ha b hb => .inl ?_
    have ha' := (List.mem_filter.mp ha).2
    have hb' := (List.mem_filter.mp hb).2
    rw [beq_iff_eq] at ha' hb'
    rw [ha', hb']
    exact hrq

theorem byRank_nodup (s : State) (ns : List LineNo) (h : ns.Pairwise (· < ·)) : (s.byRank ns).Nodup := by
  refine (byRank_pairwise s ns h).imp fun {a b} hab heq => ?_
  subst heq
  rcases hab with h | ⟨_, h⟩ <;> exact absurd h (lt_irrefl _)

theorem allLines_filter_pairwise (p : LineNo → Bool) : (allLines.filter p).Pairwise (· < ·) :=
  List.Pairwise.filter p (by decide)

/-! ### The berth stop and the stagger -/

/-- A recomputing of the stop (R134, R135): the condition, and the onsets of all eight lines where it comes into force. -/
theorem recomputeStopped_spec (s : State) :
    s.recomputeStopped
      = { s with
          berth := { s.berth with stopped := s.stopWanted }
          due := if s.stopWanted = true ∧ s.berth.stopped = false then s.due ++ allLines.map .stopOnset else s.due } := by
  unfold State.recomputeStopped State.handOverAll
  cases h1 : s.stopWanted <;> cases h2 : s.berth.stopped <;> simp

/-- The stop is wanted while a PRESENT station's validated stance is STOP (R134). -/
theorem stopWanted_iff (s : State) :
    s.stopWanted = true ↔ ∃ st, s.present st = true ∧ (s.link st).stance = .stop := by
  unfold State.stopWanted
  simp only [List.any_eq_true, Bool.and_eq_true, beq_iff_eq]
  exact ⟨fun ⟨st, _, h⟩ => ⟨st, h⟩, fun ⟨st, h⟩ => ⟨st, mem_allStations st, h⟩⟩

/-- A stagger expiry (R143). -/
theorem staggerExpire_spec (s : State) :
    s.staggerExpire
      = { s with
          berth := { s.berth with stagger := none }
          due :=
            if s.berth.queue = [] ∨ DueEvent.queueTake ∈ s.due then s.due else s.due ++ [.queueTake] } := by
  unfold State.staggerExpire State.dueTake State.handOver
  dsimp only
  by_cases h1 : s.berth.queue = []
  · simp [h1]
  · by_cases h2 : DueEvent.queueTake ∈ s.due <;> simp [h1, h2]

/-- A hook-closed line by its states (R37). -/
theorem hookClosed_iff (l : Line) :
    l.hookClosed = true
      ↔ l.control.state ∈ [LineState.engaging, .hauling, .locked, .rendering, .recovering, .held, .slipping, .slacking]
        ∨ (l.control.state = .faulted ∧ l.sense.hook = .closed) := by
  unfold Line.hookClosed
  cases l.control.state <;> simp [LineState.attached]

end Sys2Proof.Machine
end

