-- ==== Sys2Proof/Laws/LineCommands.lean ====
section
/-! SUPPORT. What a line command does as a whole: the lines of a command do not reach one another, and beside them only
the notice marks, the reply and the single-command bookkeeping change. -/

namespace Sys2Proof.Machine

/-- No entry is both marked and watching (R123). -/
def State.quiet (s : State) : Prop := ∀ g, ∀ e ∈ (s.record g).entries, e.single = false ∨ e.watched = none

theorem State.quiet_of_records {s t : State} (h : t.records = s.records) (hq : s.quiet) : t.quiet := by
  intro g e he
  apply hq g e
  unfold State.record at *
  rw [← h]; exact he

/-- What the lines of a command leave alone: beside lines, only the authority records, the events handed over and the
notice marks differ; the line notices are marked as R65 says; and while no entry is both marked and watching, the
Arbiter's items stand. -/
structure LinesTaken (s t : State) : Prop where
  beside : BesideLines s t
  notices : s.lineNoticesMarked t
  authority : s.quiet → s.sameAuthority t

theorem LinesTaken.refl (s : State) : LinesTaken s s :=
  ⟨.refl s, fun x n => by simp [noticeDue_self], fun _ => ⟨rfl, rfl, fun _ => rfl⟩⟩

/-- A line not changed before in the command is changed. -/
theorem LinesTaken.onLine {s u : State} (h : LinesTaken s u) (n : LineNo) (f : Line → Line) (hn : u.line n = s.line n) :
    LinesTaken s (u.onLine n f) where
  beside := h.beside.trans (onLine_besideLines n f u)
  notices := fun x m => by
    rw [onLine_lineMarks, h.notices x m, h.beside.present x, onLine_line, hn]
    by_cases hm : m = n
    · subst hm
      simp [hn, noticeDue_self]
    · simp [hm]
  authority := fun hq => by
    obtain ⟨hr, hd, hg⟩ := h.authority hq
    obtain ⟨hr', hd', hg'⟩ := onLine_sameAuthority n f u (State.quiet_of_records hr hq)
    exact ⟨hr'.trans hr, hd'.trans hd, fun x => (hg' x).trans (hg x)⟩

/-- The lines of a command, taken one after another, do not reach one another (R43, R163). -/
theorem takeLines_spec {s : State} {f : LineNo → State → State × ReplyCode} {out : LineNo → ReplyCode}
    {g : LineNo → Line → Line}
    (hf : ∀ n u, u.line n = s.line n → u.table = s.table → u.berth = s.berth →
      f n u = if out n = .done then (u.onLine n (g n), .done) else (u, out n)) :
    ∀ (ns : List LineNo) (u : State), ns.Nodup → (∀ n ∈ ns, u.line n = s.line n) → LinesTaken s u →
      (takeLines f ns u).2 = ns.map out
        ∧ (∀ m, (takeLines f ns u).1.line m = if m ∈ ns ∧ out m = .done then g m (u.line m) else u.line m)
        ∧ LinesTaken s (takeLines f ns u).1
  | [], u, _, _, hu => ⟨rfl, fun m => by simp [takeLines], hu⟩
  | n :: ns, u, hnd, hl, hu => by
    have hn : n ∉ ns := (List.nodup_cons.1 hnd).1
    have hln := hl n (by simp)
    have e := hf n u hln hu.beside.table hu.beside.berth
    have key : ∀ v c, f n u = (v, c) → c = out n → LinesTaken s v →
        (∀ m, v.line m = if m = n ∧ out n = .done then g n (u.line n) else u.line m) →
        (takeLines f (n :: ns) u).2 = (n :: ns).map out
          ∧ (∀ m, (takeLines f (n :: ns) u).1.line m
              = if m ∈ n :: ns ∧ out m = .done then g m (u.line m) else u.line m)
          ∧ LinesTaken s (takeLines f (n :: ns) u).1 := by
      intro v c hv hc hvs hvl
      have ih := takeLines_spec hf ns v (List.nodup_cons.1 hnd).2
        (fun m hm => by
          have hmn : m ≠ n := fun h => hn (h ▸ hm)
          rw [hvl m, if_neg (fun h => hmn h.1)]
          exact hl m (by simp [hm])) hvs
      simp only [takeLines, hv]
      refine ⟨by rw [ih.1, hc, List.map_cons], fun m => ?_, ih.2.2⟩
      rw [ih.2.1 m, hvl m]
      by_cases hm : m = n
      · subst hm
        simp [hn]
      · simp [hm]
    by_cases ho : out n = .done
    · rw [if_pos ho] at e
      refine key _ _ e ho.symm (hu.onLine n (g n) hln) fun m => ?_
      rw [onLine_line]
      by_cases hm : m = n <;> simp [hm, ho]
    · rw [if_neg ho] at e
      exact key _ _ e rfl hu fun m => by simp [ho]

theorem maskLines_nodup (mask : Byte) : (maskLines mask).Nodup :=
  List.Nodup.filter _ (by decide)

theorem mem_maskLines (mask : Byte) (n : LineNo) : n ∈ maskLines mask ↔ mask.getLsbD n.val = true := by
  simp [maskLines, mem_allLines]

theorem recordWatched_eq_self (st : Station) (taken : List LineNo) {s : State} (h : s.noSingle = true) :
    s.recordWatched st taken = s := by
  unfold State.recordWatched
  have : ∀ gs : List GroupNo, gs.foldl (fun s g => s.recordWatchedIn st taken g) s = s := by
    intro gs
    induction gs with
    | nil => rfl
    | cons g gs ih =>
      rw [List.foldl_cons]
      have h1 : s.recordWatchedIn st taken g = s := by
        unfold State.recordWatchedIn
        dsimp only
        split
        · rename_i e he
          have hm : e ∈ (s.record g).entries := by
            unfold GroupRecord.entries
            exact List.mem_append_left _ (List.mem_of_find?_eq_some he)
          simp [(noSingle_iff s).1 h g e hm]
        · rfl
      rw [h1]; exact ih
  exact this _

theorem noSingle_of_records {s t : State} (h : t.records = s.records) (hs : s.noSingle = true) : t.noSingle = true := by
  rw [noSingle_iff] at *
  intro g e he
  apply hs g e
  unfold State.record at *
  rw [← h]; exact he

theorem code_eq_outcomeByte (c : ReplyCode) : c.code = outcomeByte c := by cases c <;> rfl

/-- A line command while the sender's restart indicator is clear (R43, R163). -/
theorem lineCommand_result {s : State} {st : Station} {kind mask : Byte}
    {f : (LineNo → Bool) → LineNo → State → State × ReplyCode} {out : LineNo → ReplyCode} {g : LineNo → Line → Line}
    (hf : ∀ n u, u.line n = s.line n → u.table = s.table → u.berth = s.berth →
      f (s.permitted st) n u = if out n = .done then (u.onLine n (g n), .done) else (u, out n))
    (hr : (s.link st).restartInd = false) :
    LineCommandResult kind st mask s (s.lineCommand st kind mask f) out fun n => g n (s.line n) := by
  have hspec := takeLines_spec hf (maskLines mask) s (maskLines_nodup mask) (fun _ _ => rfl) (.refl s)
  unfold State.lineCommand
  have hr' : s.restartSet st = false := hr
  simp only [hr', Bool.false_eq_true, if_false]
  generalize takeLines (f (s.permitted st)) (maskLines mask) s = a at hspec ⊢
  obtain ⟨hc, hl, ho⟩ := hspec
  have hw := recordWatched_authorityOnly st (takenLines (maskLines mask) a.2) a.1
  have hid : s.noSingle = true → a.1.recordWatched st (takenLines (maskLines mask) a.2) = a.1 :=
    fun h => recordWatched_eq_self _ _ (noSingle_of_records (ho.authority (noSingle_quiet h)).1 h)
  have hb := ho.beside.trans hw.besideLines
  generalize a.1.recordWatched st (takenLines (maskLines mask) a.2) = b at hw hid hb ⊢
  unfold State.placeReply
  have hmarks : ∀ (h : Link → Link) x, (∀ k, (h k).lineMarks = k.lineMarks) →
      ((b.onLink st h).link x).lineMarks = (a.1.link x).lineMarks := by
    intro h x hk
    rw [State.link_onLink]
    split
    next hx => rw [hk, hx]; exact hw.lineMarks st
    · exact hw.lineMarks x
  refine ⟨fun n => ?_, ?_, ⟨hb.powered, hb.resetAsserted, hb.table, hb.pendingRestart, hb.freeIndex, hb.pending⟩,
    hb.berth, fun x => ?_, fun x n => ?_, fun h => ?_⟩
  · rw [State.line_onLink, hw.line, hl]
    simp only [mem_maskLines]
  · simp only [State.link_onLink_self, hc, List.map_map, maskLines]
    congr 3
  · have h1 := hb.links x
    rw [State.link_onLink]
    by_cases hx : x = st
    · subst hx
      simp only [if_true, State.link_onLink_self]
      unfold Link.sameButMarks at h1
      rw [h1]
    · simp only [hx, if_false]
      exact h1
  · have e := hmarks
      (fun k => { k with replySlot := some { kind := kind, body := [ReplyCode.done.code, mask] ++ a.2.map ReplyCode.code } })
      x fun _ => rfl
    rw [e, ho.notices x n, State.line_onLink, hw.line]
  · rw [hid h]
    obtain ⟨h1, h2, h3⟩ := ho.authority (noSingle_quiet h)
    refine ⟨h1, h2, fun x => ?_⟩
    rw [State.link_onLink]
    split <;> exact h3 x

end Sys2Proof.Machine
end

