-- ==== Sys2Proof/Laws/Link.lean ====
section
/-! SUPPORT. What the stages of a frame event leave alone: a stage that works one station's lanes changes that station's
link items and nothing else of the part. -/

namespace Sys2Proof.Machine

/-- `t` is `s` but for the link items of one station. -/
def LinkOnly (st : Station) (s t : State) : Prop :=
  t = { s with links := t.links } ∧ ∀ x, x ≠ st → t.link x = s.link x

theorem LinkOnly.refl (st : Station) (s : State) : LinkOnly st s s := ⟨rfl, fun _ _ => rfl⟩

theorem LinkOnly.trans {st : Station} {s t u : State} (h : LinkOnly st s t) (h' : LinkOnly st t u) :
    LinkOnly st s u := by
  refine ⟨?_, fun x hx => (h'.2 x hx).trans (h.2 x hx)⟩
  have h1 := h'.1
  rw [h.1] at h1
  exact h1

theorem LinkOnly.line {st : Station} {s t : State} (h : LinkOnly st s t) (n : LineNo) : t.line n = s.line n := by
  rw [h.1]; rfl

theorem LinkOnly.record {st : Station} {s t : State} (h : LinkOnly st s t) (g : GroupNo) :
    t.record g = s.record g := by
  rw [h.1]; rfl

theorem LinkOnly.due {st : Station} {s t : State} (h : LinkOnly st s t) : t.due = s.due := by
  rw [h.1]

theorem onLink_linkOnly (st : Station) (f : Link → Link) (s : State) : LinkOnly st s (s.onLink st f) :=
  ⟨rfl, fun x hx => by rw [State.link_onLink, if_neg hx]⟩

theorem latchLinkError_linkOnly (st : Station) (s : State) : LinkOnly st s (s.latchLinkError st) :=
  onLink_linkOnly st _ s

theorem abortGap_linkOnly (st : Station) (s : State) : LinkOnly st s (s.abortGap st) :=
  onLink_linkOnly st _ s

/-- A frame event at which no byte is latched works the station's own gap count alone (R154). -/
theorem gapStep_linkOnly (st : Station) (s : State) : LinkOnly st s (s.gapStep st) := by
  unfold State.gapStep
  dsimp only
  split
  · exact LinkOnly.refl st s
  · split
    · exact abortGap_linkOnly st s
    · exact onLink_linkOnly st _ s

theorem offerMessage_linkOnly (st : Station) (bytes : List Byte) (isReply : Bool) (s : State) :
    LinkOnly st s (s.offerMessage st bytes isReply) :=
  onLink_linkOnly st _ s

/-- A transfer that begins works the station's own items alone (R157). -/
theorem beginTransfer_linkOnly (st : Station) (s : State) : LinkOnly st s (s.beginTransfer st) := by
  unfold State.beginTransfer
  dsimp only
  split
  · exact offerMessage_linkOnly st _ _ s
  · split
    · exact (onLink_linkOnly st _ s).trans (offerMessage_linkOnly st _ _ _)
    · split
      · exact (onLink_linkOnly st _ s).trans (offerMessage_linkOnly st _ _ _)
      · exact LinkOnly.refl st s

/-- A lane completion works the station's own items alone, but for that of a RESTART reply (R156, R170). -/
theorem laneCompletion_linkOnly (st : Station) (isReply : Bool) (s : State)
    (h : (isReply && s.pendingRestart.contains st) = false) : LinkOnly st s (s.laneCompletion st isReply) := by
  unfold State.laneCompletion
  dsimp only
  rw [if_neg (by rw [h]; decide)]
  exact onLink_linkOnly st _ s

/-- A step of the send lane works the station's own items alone, but for the lane completion of a RESTART reply
(R156, R170). -/
theorem sendStep_linkOnly (st : Station) (take : Bool) (s : State) (h : s.pendingRestart.contains st = false) :
    LinkOnly st s (s.sendStep st take) := by
  unfold State.sendStep
  dsimp only
  split
  · exact LinkOnly.refl st s
  · split
    · split
      · split
        · exact onLink_linkOnly st _ s
        · exact laneCompletion_linkOnly st _ s (by rw [h, Bool.and_false])
      · exact onLink_linkOnly st _ s
    · exact LinkOnly.refl st s
  · split
    · exact LinkOnly.refl st s
    · split
      · split <;> exact onLink_linkOnly st _ s
      · exact onLink_linkOnly st _ s

/-- A stance code read works the station's own items, and hands over at most the change of its stance (R152). -/
theorem stanceStep_spec (st : Station) (code : BitVec 4) (s : State) :
    ∃ k es, LinkOnly st s k ∧ s.stanceStep st code = { k with due := s.due ++ es } ∧
      (es = [] ∨ ∃ x, stanceOf code = some x ∧ x ≠ (s.link st).stance ∧ (s.link st).candidate = some code ∧
        es = [.stance st (s.link st).stance x]) := by
  unfold State.stanceStep
  dsimp only
  split
  · exact ⟨(s.onLink st fun k => { k with candidate := some code }).latchLinkError st, [],
      (onLink_linkOnly st _ s).trans (latchLinkError_linkOnly st _), by rw [List.append_nil]; rfl, .inl rfl⟩
  next x hx =>
    split
    next hc =>
      exact ⟨_, _, (onLink_linkOnly st _ s).trans (onLink_linkOnly st _ _), rfl, .inr ⟨x, hx, hc.2, hc.1, rfl⟩⟩
    next =>
      exact ⟨s.onLink st fun k => { k with candidate := some code }, [], onLink_linkOnly st _ s,
        by rw [List.append_nil]; rfl, .inl rfl⟩

/-- Composing the next slot writes that slot alone (R147). -/
theorem composeSlot_linkOnly (st : Station) (s : State) : LinkOnly st s (s.composeSlot st) :=
  onLink_linkOnly st (fun k => { k with downstream := s.compose st }) s

/-- A byte is latched only where the lane saw an offered byte once before and sees it again (R153). -/
theorem recvStep_latched_iff (offer : Bool) (b c : Byte) (l : RecvLane) :
    (recvStep offer b l).2 = some c ↔ offer = true ∧ l = .oneLook b ∧ c = b := by
  cases l with
  | idle => cases offer <;> simp [recvStep]
  | taken => cases offer <;> simp [recvStep]
  | oneLook d =>
    cases offer
    · simp [recvStep]
    · by_cases h : b = d
      · simp [recvStep, h, eq_comm]
      · simp [recvStep, h, Ne.symm h]

/-- A link's items but for those that a byte received works on: the receive lane, the incoming message, the gap count and
the link-error indicator. -/
def Link.receivedTo (k k' : Link) : Prop :=
  k' = { k with recv := k'.recv, incoming := k'.incoming, gap := k'.gap, linkError := k'.linkError }

/-- `t` is `s` but for what a byte received works on at one station. -/
def ReceiveOnly (st : Station) (s t : State) : Prop := LinkOnly st s t ∧ (s.link st).receivedTo (t.link st)

theorem ReceiveOnly.refl (st : Station) (s : State) : ReceiveOnly st s s := ⟨LinkOnly.refl st s, rfl⟩

theorem Link.receivedTo.trans {a b c : Link} (h : a.receivedTo b) (h' : b.receivedTo c) : a.receivedTo c := by
  unfold Link.receivedTo at *
  generalize b.recv = r, b.incoming = i, b.gap = g, b.linkError = e at h
  subst h
  exact h'

theorem ReceiveOnly.onLink {st : Station} {s t : State} (h : ReceiveOnly st s t) (f : Link → Link)
    (hf : ∀ k, Link.receivedTo k (f k)) : ReceiveOnly st s (t.onLink st f) := by
  refine ⟨h.1.trans (onLink_linkOnly st f t), ?_⟩
  rw [State.link_onLink, if_pos rfl]
  exact h.2.trans (hf _)

/-- A good slot that completes no message is received by the station's receive lane and incoming message alone: its send
lane, reply slot and notice marks, and all else of the part, stand (R153, R154). -/
theorem receiveStep_receiveOnly (st : Station) (slot : BitVec 32) (s : State)
    (h : (s.link st).completes slot = false) :
    ReceiveOnly st s (s.receiveStep st (slotOffer slot) (slotByte slot)) := by
  have base : ∀ r, ReceiveOnly st s (s.onLink st fun k => { k with recv := r }) :=
    fun r => (ReceiveOnly.refl st s).onLink _ fun _ => rfl
  unfold State.receiveStep
  dsimp only
  split
  next c hc =>
    obtain ⟨ho, hl, rfl⟩ := (recvStep_latched_iff _ _ _ _).mp hc
    unfold State.takeByte State.setIncoming State.latchLinkError
    rw [State.link_onLink, if_pos rfl]
    have zero := fun r => (base r).onLink (fun k => { k with gap := 0 }) fun _ => rfl
    have next := fun r i => (zero r).onLink (fun k => { k with incoming := i }) fun _ => rfl
    cases hi : (s.link st).incoming with
    | kind => exact next _ _
    | length kind =>
      have hb : ¬slotByte slot = 0#8 := by simpa [Link.completes, ho, hl, hi] using h
      dsimp only
      rw [if_neg hb]
      split
      · exact (next _ _).onLink _ fun _ => rfl
      · exact next _ _
    | body kind length remaining bytes =>
      have hb : ¬remaining ≤ 1 := by simpa [Link.completes, ho, hl, hi] using h
      dsimp only
      rw [if_neg hb]
      exact next _ _
  next =>
    unfold State.gapStep State.abortGap
    dsimp only
    split
    · exact base _
    · split <;> exact (base _).onLink _ fun _ => rfl

/-- A link's items but for those that the send lane and the composing of the next slot work on. -/
def Link.sentTo (k k' : Link) : Prop :=
  k' = { k with
    send := k'.send, outgoing := k'.outgoing, replySlot := k'.replySlot, groupMarks := k'.groupMarks
    lineMarks := k'.lineMarks, downstream := k'.downstream }

/-- `t` is `s` but for what the send lane and the composing of the next slot work on at one station. -/
def SendOnly (st : Station) (s t : State) : Prop := LinkOnly st s t ∧ (s.link st).sentTo (t.link st)

theorem SendOnly.refl (st : Station) (s : State) : SendOnly st s s := ⟨LinkOnly.refl st s, rfl⟩

theorem Link.sentTo.trans {a b c : Link} (h : a.sentTo b) (h' : b.sentTo c) : a.sentTo c := by
  unfold Link.sentTo at *
  generalize b.send = v, b.outgoing = o, b.replySlot = r, b.groupMarks = g, b.lineMarks = l, b.downstream = d at h
  subst h
  exact h'

theorem SendOnly.trans {st : Station} {s t u : State} (h : SendOnly st s t) (h' : SendOnly st t u) : SendOnly st s u :=
  ⟨h.1.trans h'.1, h.2.trans h'.2⟩

theorem SendOnly.onLink {st : Station} {s t : State} (h : SendOnly st s t) (f : Link → Link)
    (hf : ∀ k, Link.sentTo k (f k)) : SendOnly st s (t.onLink st f) := by
  refine h.trans ⟨onLink_linkOnly st f t, ?_⟩
  rw [State.link_onLink, if_pos rfl]
  exact hf _

/-- The send lane's work in the terms that the claims use. -/
theorem SendOnly.sendLaneOnly {st : Station} {s t : State} (h : SendOnly st s t) : s.sendLaneOnly t st := by
  unfold State.sendLaneOnly
  rw [← h.2, h.1.1, State.putLink]
  congr 1
  have all := h.1.2
  simp only [State.link, Fin.getElem_fin] at all ⊢
  ext1 i hi
  rw [Vector.getElem_set]
  split
  next e => simp only [e]
  next e =>
    match i, hi with
    | 0, _ => exact all .quay (by rintro rfl; exact e rfl)
    | 1, _ => exact all .vessel (by rintro rfl; exact e rfl)
    | 2, _ => exact all .panel (by rintro rfl; exact e rfl)
    | 3, _ => exact all .service (by rintro rfl; exact e rfl)

theorem offerMessage_sendOnly (st : Station) (bytes : List Byte) (isReply : Bool) (s : State) :
    SendOnly st s (s.offerMessage st bytes isReply) :=
  (SendOnly.refl st s).onLink _ fun _ => rfl

/-- A transfer that begins works the station's send lane alone (R157). -/
theorem beginTransfer_sendOnly (st : Station) (s : State) : SendOnly st s (s.beginTransfer st) := by
  unfold State.beginTransfer
  dsimp only
  split
  · exact offerMessage_sendOnly st _ _ s
  · split
    next g _ =>
      exact ((SendOnly.refl st s).onLink (fun k => { k with groupMarks := k.groupMarks.set g false }) fun _ => rfl).trans
        (offerMessage_sendOnly st _ _ _)
    · split
      next n _ =>
        exact ((SendOnly.refl st s).onLink (fun k => { k with lineMarks := k.lineMarks.set n false }) fun _ => rfl).trans
          (offerMessage_sendOnly st _ _ _)
      · exact SendOnly.refl st s

/-- A step of the send lane works that lane alone, but for the lane completion of a RESTART reply (R156, R170). -/
theorem sendStep_sendOnly (st : Station) (slot : BitVec 32) (s : State)
    (h : st ∈ s.pendingRestart → ¬(s.link st).endsReply slot) : SendOnly st s (s.sendStep st (slotTake slot)) := by
  have base := SendOnly.refl st s
  unfold State.sendStep
  dsimp only
  split
  · exact base
  next b hb =>
    split
    next ht =>
      split
      next o ho =>
        split
        · exact base.onLink _ fun _ => rfl
        next hn =>
          unfold State.laneCompletion
          dsimp only
          rw [if_neg]
          · exact base.onLink _ fun _ => rfl
          · simp only [Bool.and_eq_true, List.contains_iff_mem]
            exact fun hr => h hr.2 ⟨ht, ⟨b, hb⟩, o, ho, hr.1, Nat.le_of_not_lt hn⟩
      · exact base.onLink _ fun _ => rfl
    · exact base
  · split
    · exact base
    · split
      · split <;> exact base.onLink _ fun _ => rfl
      · exact base.onLink _ fun _ => rfl

/-- Composing the next slot writes that slot alone (R147). -/
theorem composeSlot_sendOnly (st : Station) (s : State) : SendOnly st s (s.composeSlot st) :=
  (SendOnly.refl st s).onLink (fun k => { k with downstream := s.compose st }) fun _ => rfl

end Sys2Proof.Machine
end

