-- ==== Sys2Proof/Laws/Requests.lean ====
section
/-! SUPPORT. What entering a state makes of a line, when a request is taken, and who is permitted. -/

namespace Sys2Proof.Machine

/-- Entering a state, with the demands and the hook timer of the state written out. -/
theorem enter_eq_placed (a : Line) (x : LineState) (r : CommandRecord) {d : Int} {b : Brake} {h : HookDemand}
    {t : Option HookTimer} (hd : driveDemand a.applied x = d) (hb : brakeDemand x = b) (hh : hookDemandOf x = h)
    (ht : (if x.timed then a.freshTimer else none) = t) : a.enter x r = a.placed x r d b h t := by
  subst hd hb hh ht
  unfold Line.enter Line.placed Line.setDrive Line.zeroTending Line.freshTimer
  dsimp only
  split <;> rfl

theorem accepts_iff (s : State) (st : Station) :
    s.accepts st = true ↔ s.running = true ∧ s.present st = true ∧ (s.link st).replySlot = none := by
  simp [State.accepts, and_assoc]

/-- A well-formed request that the part would accept is taken. -/
theorem request_taken {s : State} {st : Station} {take : State → State} {ok : Bool} (h : s.accepts st = true)
    (hok : ok = true) : whileRunning (State.requestEvent st ok take) s = .next (take s) := by
  obtain ⟨h1, h2, h3⟩ := (accepts_iff s st).1 h
  simp [whileRunning, State.requestEvent, h1, h2, h3, hok]

/-- An event of the running part answers the state that it makes. -/
theorem whileRunning_running {s : State} (f : State → State) (h : s.running = true) :
    whileRunning f s = .next (f s) := by
  simp [whileRunning, h]

theorem setup_congr {s u : State} (n : LineNo) (h : u.table = s.table) : u.setup n = s.setup n := by
  unfold State.setup; rw [h]

theorem permitted_iff (s : State) (st : Station) (n : LineNo) :
    s.permitted st n = decide (s.holder (s.setup n).group = some st) := by
  rw [Bool.eq_iff_iff]
  simp [State.permitted]

/-- Derivation, with every outcome written out (R41). -/
theorem derive_eq_derivedAs (fitted : Bool) (a : Line) : a.derive fitted = a.derivedAs fitted := by
  have e : ∀ x : LineState, driveDemand a.applied x = 0 → brakeDemand x = .apply → hookDemandOf x = .none →
      x.timed = false → a.enter x {} = a.idleIn x := by
    intro x h1 h2 h3 h4
    exact enter_eq_placed a x {} h1 h2 h3 (by simp [h4])
  have f := e .faulted rfl rfl rfl rfl
  unfold Line.derive Line.derivedAs Line.enterFaulted Line.latch Line.reference
  cases fitted
  · simp only [Bool.not_false, if_true]
    exact e .notFitted rfl rfl rfl rfl
  · simp only [Bool.not_true, Bool.false_eq_true, if_false, e .stowed rfl rfl rfl rfl, e .opened rfl rfl rfl rfl,
      e .held rfl rfl rfl rfl, f, Bool.true_eq_false]
    rfl

end Sys2Proof.Machine
end

