-- ==== Sys2Proof/Laws/Sample.lean ====
section
/-! SUPPORT. What the Protection Unit's re-evaluation of the haul inhibits does, once for all its callers, and what
each stage of a sample event leaves alone. -/

namespace Sys2Proof.Machine

/-! ### Re-evaluation of the haul inhibits -/

@[simp] theorem Line.setInhibit_flags (v : Bool) (l : Line) : (l.setInhibit v).control = l.control := rfl
@[simp] theorem Line.setInhibit_inhibit (v : Bool) (l : Line) : (l.setInhibit v).protection.inhibit = v := rfl
@[simp] theorem Line.setInhibit_sense (v : Bool) (l : Line) : (l.setInhibit v).sense = l.sense := rfl
@[simp] theorem Line.setInhibit_tension (v : Bool) (l : Line) : (l.setInhibit v).tension = l.tension := rfl
@[simp] theorem Line.setInhibit_applied (v : Bool) (l : Line) : (l.setInhibit v).applied = l.applied := rfl
@[simp] theorem Line.setInhibit_self (l : Line) : l.setInhibit l.protection.inhibit = l := rfl
@[simp] theorem Line.setInhibit_setInhibit (v w : Bool) (l : Line) : (l.setInhibit v).setInhibit w = l.setInhibit w := rfl

/-- The inhibit that a line is to have depends on the Group Table and the flag words alone (R91). -/
theorem inhibitOf_congr {s t : State} (ht : t.table = s.table)
    (hf : ∀ m, (t.line m).control.flags = (s.line m).control.flags) (n : LineNo) : t.inhibitOf n = s.inhibitOf n := by
  simp only [State.inhibitOf, State.fitted, State.setup, Line.overloaded, Line.has, ht, hf]

/-- All but the lines' records of their inhibits and the events handed over is as it was. -/
structure InhibitsOnly (s t : State) : Prop where
  powered : t.powered = s.powered
  resetAsserted : t.resetAsserted = s.resetAsserted
  line : ∀ m, t.line m = (s.line m).setInhibit (t.line m).protection.inhibit
  table : t.table = s.table
  records : t.records = s.records
  berth : t.berth = s.berth
  links : t.links = s.links
  pendingRestart : t.pendingRestart = s.pendingRestart
  freeIndex : t.freeIndex = s.freeIndex
  pending : t.pending = s.pending

theorem InhibitsOnly.refl (s : State) : InhibitsOnly s s := ⟨rfl, rfl, fun _ => rfl, rfl, rfl, rfl, rfl, rfl, rfl, rfl⟩

theorem InhibitsOnly.trans {s t u : State} (h : InhibitsOnly s t) (h' : InhibitsOnly t u) : InhibitsOnly s u :=
  ⟨h'.powered.trans h.powered, h'.resetAsserted.trans h.resetAsserted,
    fun m => by rw [h'.line m, h.line m]; rfl,
    h'.table.trans h.table, h'.records.trans h.records, h'.berth.trans h.berth, h'.links.trans h.links,
    h'.pendingRestart.trans h.pendingRestart, h'.freeIndex.trans h.freeIndex, h'.pending.trans h.pending⟩

theorem InhibitsOnly.control {s t : State} (h : InhibitsOnly s t) (m : LineNo) :
    (t.line m).control = (s.line m).control := by rw [h.line m]; rfl

theorem InhibitsOnly.inhibitOf {s t : State} (h : InhibitsOnly s t) (n : LineNo) : t.inhibitOf n = s.inhibitOf n :=
  inhibitOf_congr h.table (fun m => by rw [h.control m]) n

/-- One line's re-evaluation sets that line's record to what R91 gives, and changes no other line. -/
theorem reevaluateInhibit_line (own : Option LineNo) (n m : LineNo) (s : State) :
    (s.reevaluateInhibit own n).line m = if m = n then (s.line n).setInhibit (s.inhibitOf n) else s.line m := by
  unfold State.reevaluateInhibit
  dsimp only
  split
  next h =>
    split
    next hm => subst hm; rw [← h, Line.setInhibit_self]
    next => rfl
  next h =>
    split
    · exact State.line_putLine s n m _
    · exact State.line_putLine s n m _

theorem reevaluateInhibit_inhibitsOnly (own : Option LineNo) (n : LineNo) (s : State) :
    InhibitsOnly s (s.reevaluateInhibit own n) := by
  have hl : ∀ m, (s.reevaluateInhibit own n).line m
      = (s.line m).setInhibit ((s.reevaluateInhibit own n).line m).protection.inhibit := by
    intro m
    rw [reevaluateInhibit_line]
    split
    next hm => subst hm; rfl
    next => rfl
  refine ⟨?_, ?_, hl, ?_, ?_, ?_, ?_, ?_, ?_, ?_⟩ <;>
    · unfold State.reevaluateInhibit
      dsimp only
      split
      · rfl
      · split <;> rfl

/-- The re-evaluation as a whole (R92): every line's record is what R91 gives, and nothing else of a line changes. -/
theorem reevaluateInhibits_spec (own : Option LineNo) (s : State) :
    InhibitsOnly s (s.reevaluateInhibits own)
      ∧ ∀ m, (s.reevaluateInhibits own).line m = (s.line m).setInhibit (s.inhibitOf m) := by
  have key : ∀ (l : List LineNo) (u : State), InhibitsOnly s u →
      InhibitsOnly s (l.foldl (fun s n => s.reevaluateInhibit own n) u)
        ∧ ∀ m, m ∈ l ∨ u.line m = (s.line m).setInhibit (s.inhibitOf m) →
          (l.foldl (fun s n => s.reevaluateInhibit own n) u).line m = (s.line m).setInhibit (s.inhibitOf m) := by
    intro l
    induction l with
    | nil => exact fun u hu => ⟨hu, fun m hm => by simpa using hm⟩
    | cons a l ih =>
      intro u hu
      have h1 := hu.trans (reevaluateInhibit_inhibitsOnly own a u)
      refine ⟨(ih _ h1).1, fun m hm => (ih _ h1).2 m ?_⟩
      by_cases hma : m = a
      · right
        rw [reevaluateInhibit_line, if_pos hma, hu.inhibitOf, hma, hu.line a]
        rfl
      · rcases hm with hm | hm
        · exact .inl ((List.mem_cons.mp hm).resolve_left hma)
        · right
          rw [reevaluateInhibit_line, if_neg hma, hm]
  have h := key allLines s (.refl s)
  exact ⟨h.1, fun m => h.2 m (.inl (mem_allLines m))⟩

/-- After a re-evaluation every haul inhibit agrees with the flags (R91). -/
theorem reevaluateInhibits_agree (own : Option LineNo) (s : State) (m : LineNo) :
    ((s.reevaluateInhibits own).line m).protection.inhibit = (s.reevaluateInhibits own).inhibitOf m := by
  have h := reevaluateInhibits_spec own s
  rw [h.2 m, h.1.inhibitOf]
  rfl

/-- The invariant `inhibitsAgree` in terms of `inhibitOf`. -/
theorem inhibitsAgree_iff (s : State) :
    s.inhibitsAgree ↔ ∀ n, (s.line n).protection.inhibit = s.inhibitOf n := by
  unfold State.inhibitsAgree
  refine forall_congr' fun n => ?_
  refine Iff.trans ?_ Bool.eq_iff_iff.symm
  refine iff_congr Iff.rfl ?_
  simp only [State.inhibitOf, Bool.and_eq_true, List.any_eq_true, Bool.or_eq_true, beq_iff_eq, Line.overloaded]
  constructor
  · rintro ⟨hn, m, hm, hs, hf⟩
    exact ⟨hn, m, mem_allLines m, ⟨hm, hs⟩, hf⟩
  · rintro ⟨hn, m, -, ⟨hm, hs⟩, hf⟩
    exact ⟨hn, m, hm, hs, hf⟩

/-! ### The stages of a sample event -/

/-- What a stage of a sample event of line `n` leaves alone: every other line but for its record of its inhibit, and
all but the authority records, the events handed over, the notice marks and the Berth Action Unit. -/
structure StageOnly (n : LineNo) (s t : State) : Prop where
  powered : t.powered = s.powered
  resetAsserted : t.resetAsserted = s.resetAsserted
  lines : ∀ m, m ≠ n → t.line m = (s.line m).setInhibit (t.line m).protection.inhibit
  table : t.table = s.table
  links : ∀ x, Link.sameButMarks (s.link x) (t.link x)
  pendingRestart : t.pendingRestart = s.pendingRestart
  freeIndex : t.freeIndex = s.freeIndex
  pending : t.pending = s.pending

theorem StageOnly.refl (n : LineNo) (s : State) : StageOnly n s s :=
  ⟨rfl, rfl, fun _ _ => rfl, rfl, fun _ => rfl, rfl, rfl, rfl⟩

theorem StageOnly.trans {n : LineNo} {s t u : State} (h : StageOnly n s t) (h' : StageOnly n t u) : StageOnly n s u :=
  ⟨h'.powered.trans h.powered, h'.resetAsserted.trans h.resetAsserted,
    fun m hm => by rw [h'.lines m hm, h.lines m hm]; rfl,
    h'.table.trans h.table, fun x => Link.sameButMarks_trans (h.links x) (h'.links x),
    h'.pendingRestart.trans h.pendingRestart, h'.freeIndex.trans h.freeIndex, h'.pending.trans h.pending⟩

theorem putLine_stageOnly (n : LineNo) (l : Line) (s : State) : StageOnly n s (s.putLine n l) :=
  ⟨rfl, rfl, fun m hm => by rw [State.line_putLine_ne s l hm]; rfl, rfl, fun _ => rfl, rfl, rfl, rfl⟩

theorem onLine_stageOnly (n : LineNo) (f : Line → Line) (s : State) : StageOnly n s (s.onLine n f) := by
  have h := onLine_besideLines n f s
  exact ⟨h.powered, h.resetAsserted, fun m hm => by rw [onLine_line, if_neg hm]; rfl, h.table,
    fun x => h.links x, h.pendingRestart, h.freeIndex, h.pending⟩

theorem InhibitsOnly.stageOnly {s t : State} (h : InhibitsOnly s t) (n : LineNo) : StageOnly n s t :=
  ⟨h.powered, h.resetAsserted, fun m _ => h.line m, h.table,
    fun x => by unfold State.link; rw [h.links]; rfl, h.pendingRestart, h.freeIndex, h.pending⟩

theorem afterLatch_stageOnly (n : LineNo) (s : State) : StageOnly n s (s.afterLatch n) := by
  have h := (reevaluateInhibits_spec (some n) s).1.stageOnly n
  unfold State.afterLatch
  dsimp only
  split
  · exact h.trans (onLine_stageOnly n _ _)
  · exact h

theorem protectionStage_stageOnly (n : LineNo) (s : State) : StageOnly n s (s.protectionStage n) := by
  unfold State.protectionStage
  dsimp only
  split
  · split
    · exact putLine_stageOnly n _ s
    · split
      · exact (putLine_stageOnly n _ s).trans (onLine_stageOnly n _ _)
      · exact ((putLine_stageOnly n _ s).trans (onLine_stageOnly n _ _)).trans (afterLatch_stageOnly n _)
  · split
    · exact ((putLine_stageOnly n _ s).trans (onLine_stageOnly n _ _)).trans (afterLatch_stageOnly n _)
    · exact putLine_stageOnly n _ s

theorem tensionStage_stageOnly (n : LineNo) (sample : BitVec 12) (s : State) :
    StageOnly n s (s.tensionStage n sample) := by
  unfold State.tensionStage
  split
  · exact ((putLine_stageOnly n _ s).trans (onLine_stageOnly n _ _)).trans (protectionStage_stageOnly n _)
  · exact .refl n s

theorem sensorStage_stageOnly (n : LineNo) (sample : BitVec 12) (s : State) : StageOnly n s (s.sensorStage n sample) := by
  unfold State.sensorStage
  dsimp only
  split
  · exact (putLine_stageOnly n _ s).trans (onLine_stageOnly n _ _)
  · exact putLine_stageOnly n _ s

theorem profileStage_stageOnly (n : LineNo) (s : State) : StageOnly n s (s.profileStage n) := by
  unfold State.profileStage
  split
  · exact onLine_stageOnly n _ s
  · split
    · exact onLine_stageOnly n _ s
    · exact .refl n s

theorem appendQueue_stageOnly (n : LineNo) (ns : List LineNo) (s : State) : StageOnly n s (s.appendQueue ns) := by
  unfold State.appendQueue State.dueTake
  dsimp only
  split
  · exact ⟨rfl, rfl, fun _ _ => rfl, rfl, fun _ => rfl, rfl, rfl, rfl⟩
  · split
    · exact ⟨rfl, rfl, fun _ _ => rfl, rfl, fun _ => rfl, rfl, rfl, rfl⟩
    · exact ⟨rfl, rfl, fun _ _ => rfl, rfl, fun _ => rfl, rfl, rfl, rfl⟩

theorem hookChange_stageOnly (n : LineNo) (old new : HookPos) (s : State) : StageOnly n s (s.hookChange n old new) := by
  unfold State.hookChange
  dsimp only
  split
  · exact (onLine_stageOnly n _ s).trans (appendQueue_stageOnly n _ _)
  · exact onLine_stageOnly n _ s

theorem switchStage_stageOnly (n : LineNo) (pins : SwitchPins) (s : State) : StageOnly n s (s.switchStage n pins) := by
  unfold State.switchStage
  dsimp only
  have h1 := putLine_stageOnly n { s.line n with sense := (s.line n).sense.sampleSwitches pins } s
  generalize s.putLine n { s.line n with sense := (s.line n).sense.sampleSwitches pins } = s1 at h1
  have h2 : StageOnly n s
      (if ((s.line n).sense.sampleSwitches pins).hook = (s.line n).sense.hook then s1
        else s1.hookChange n (s.line n).sense.hook ((s.line n).sense.sampleSwitches pins).hook) := by
    split
    · exact h1
    · exact h1.trans (hookChange_stageOnly n _ _ s1)
  generalize (if ((s.line n).sense.sampleSwitches pins).hook = (s.line n).sense.hook then s1
        else s1.hookChange n (s.line n).sense.hook ((s.line n).sense.sampleSwitches pins).hook) = s2 at h2
  split
  · split
    · exact (h2.trans (onLine_stageOnly n _ _)).trans (onLine_stageOnly n _ _)
    · exact h2.trans (onLine_stageOnly n _ _)
  · split
    · exact h2.trans (onLine_stageOnly n _ _)
    · exact h2

/-! ### The Berth Action Unit in a sample event -/

@[simp] theorem afterLatch_berth (n : LineNo) (s : State) : (s.afterLatch n).berth = s.berth := by
  have h := (reevaluateInhibits_spec (some n) s).1.berth
  unfold State.afterLatch
  dsimp only
  split
  · rw [onLine_berth, h]
  · exact h

@[simp] theorem protectionStage_berth (n : LineNo) (s : State) : (s.protectionStage n).berth = s.berth := by
  unfold State.protectionStage
  dsimp only
  split
  · split
    · rfl
    · split <;> simp
  · split
    · simp
    · rfl

@[simp] theorem tensionStage_berth (n : LineNo) (sample : BitVec 12) (s : State) :
    (s.tensionStage n sample).berth = s.berth := by
  unfold State.tensionStage
  split
  · simp
  · rfl

@[simp] theorem sensorStage_berth (n : LineNo) (sample : BitVec 12) (s : State) :
    (s.sensorStage n sample).berth = s.berth := by
  unfold State.sensorStage
  dsimp only
  split
  · simp
  · rfl

@[simp] theorem profileStage_berth (n : LineNo) (s : State) : (s.profileStage n).berth = s.berth := by
  unfold State.profileStage
  split
  · simp
  · split
    · simp
    · rfl

/-- The hook's change reaches the Berth Action Unit at an ENGAGING completion alone (R141). -/
theorem hookChange_berth (n : LineNo) (old new : HookPos) (s : State)
    (h : (s.line n).control.state ≠ .engaging ∨ new ≠ .closed ∨ s.berth.releaseAll = false) :
    (s.hookChange n old new).berth = s.berth := by
  unfold State.hookChange
  dsimp only
  split
  next hc =>
    obtain ⟨⟨h1, h2⟩, h3⟩ := hc
    rw [onLine_berth] at h3
    rcases h with h | h | h
    · exact absurd h1 h
    · exact absurd h2 h
    · rw [h] at h3; cases h3
  next => exact onLine_berth n _ s

/-! ### The line after each stage -/

/-- The line after the re-evaluation that follows its own latch (R84, R92, R93). -/
theorem afterLatch_line (n : LineNo) (s : State) :
    (s.afterLatch n).line n
      = if !(s.line n).protection.inhibit && s.inhibitOf n then ((s.line n).setInhibit (s.inhibitOf n)).inhibitOnset
        else (s.line n).setInhibit (s.inhibitOf n) := by
  have h := (reevaluateInhibits_spec (some n) s).2 n
  unfold State.afterLatch
  dsimp only
  rw [h, Line.setInhibit_inhibit]
  split
  · rw [onLine_line_self, h]
  · exact h

/-- The line after the protection stage of a sample at which WARN is clear (R84, R85). -/
theorem protectionStage_line_warn (n : LineNo) (s : State) (hw : (s.line n).has .warn = false) :
    (s.protectionStage n).line n
      = let l := s.line n
        let w := watchStep l.applied.warnDwell l.protection.warnWatch (l.applied.warn < l.tension.reported)
        if w.2 = .fired then
          (((s.putLine n (l.setWatches 0 0)).onLine n Line.warnReport).afterLatch n).line n
        else l.setWatches w.1 0 := by
  unfold State.protectionStage
  simp only [hw, Bool.false_eq_true, if_false]
  split
  · rfl
  · exact State.line_putLine_self s n _

/-- The line after the protection stage of a sample at which WARN is latched (R84, R86). -/
theorem protectionStage_line_trip (n : LineNo) (s : State) (hw : (s.line n).has .warn = true) :
    (s.protectionStage n).line n
      = let l := s.line n
        let w := watchStep l.applied.tripDwell l.protection.tripWatch (l.applied.trip < l.tension.reported)
        if w.2 = .none then l.setWatches 0 w.1
        else if l.has .trip then (l.setWatches 0 w.1).tripReport
        else (((s.putLine n (l.setWatches 0 w.1)).onLine n Line.tripReport).afterLatch n).line n := by
  unfold State.protectionStage
  simp only [hw, if_true]
  split
  · exact State.line_putLine_self s n _
  · split
    · rw [onLine_line_self, State.line_putLine_self]
    · rfl

theorem sensorStage_line (n : LineNo) (sample : BitVec 12) (s : State) :
    (s.sensorStage n sample).line n
      = let l := { s.line n with sense := (s.line n).sense.sampleLoad (sampleValid sample) }
        if l.sense.invalidCount = 8 then l.sensorFaultReport else l := by
  unfold State.sensorStage
  dsimp only
  split
  · rw [onLine_line_self, State.line_putLine_self]
  · exact State.line_putLine_self s n _

theorem profileStage_line (n : LineNo) (s : State) :
    (s.profileStage n).line n
      = if (s.line n).profileDue then (s.line n).applyProfile (s.profile (s.setup n).group)
        else
          match (s.line n).joined with
          | some p => (s.line n).useJoined p
          | none => s.line n := by
  unfold State.profileStage
  split
  · exact onLine_line_self n _ s
  · cases (s.line n).joined with
    | some p => exact onLine_line_self n _ s
    | none => rfl

@[simp] theorem appendQueue_line (ns : List LineNo) (n : LineNo) (s : State) : (s.appendQueue ns).line n = s.line n := by
  unfold State.appendQueue State.dueTake
  dsimp only
  split
  · rfl
  · split <;> rfl

theorem hookChange_line (n : LineNo) (old new : HookPos) (s : State) :
    (s.hookChange n old new).line n = (s.line n).hookReport s.berth old new := by
  unfold State.hookChange
  dsimp only
  split
  · rw [appendQueue_line, onLine_line_self]
  · exact onLine_line_self n _ s

/-- The line after the switch readings of a sample: the hook position's report, then stowed's, then the drive fault's
(R5 to R9). -/
theorem switchStage_line (n : LineNo) (pins : SwitchPins) (s : State) :
    (s.switchStage n pins).line n
      = let old := (s.line n).sense
        let new := old.sampleSwitches pins
        let l1 := { s.line n with sense := new }
        let l2 := if new.hook = old.hook then l1 else l1.hookReport s.berth old.hook new.hook
        let l3 := if new.stowed.accepted = .active ∧ old.stowed.accepted ≠ .active then l2.stowedReport else l2
        if new.driveFault.accepted = .active ∧ old.driveFault.accepted ≠ .active then l3.driveFaultReport else l3 := by
  unfold State.switchStage
  dsimp only
  have h2 : (if ((s.line n).sense.sampleSwitches pins).hook = (s.line n).sense.hook then
        s.putLine n { s.line n with sense := (s.line n).sense.sampleSwitches pins }
      else (s.putLine n { s.line n with sense := (s.line n).sense.sampleSwitches pins }).hookChange n (s.line n).sense.hook
        ((s.line n).sense.sampleSwitches pins).hook).line n
      = if ((s.line n).sense.sampleSwitches pins).hook = (s.line n).sense.hook then
          { s.line n with sense := (s.line n).sense.sampleSwitches pins }
        else Line.hookReport s.berth (s.line n).sense.hook ((s.line n).sense.sampleSwitches pins).hook
          { s.line n with sense := (s.line n).sense.sampleSwitches pins } := by
    split
    · exact State.line_putLine_self s n _
    · rw [hookChange_line, State.line_putLine_self]
      rfl
  generalize (if ((s.line n).sense.sampleSwitches pins).hook = (s.line n).sense.hook then
        s.putLine n { s.line n with sense := (s.line n).sense.sampleSwitches pins }
      else (s.putLine n { s.line n with sense := (s.line n).sense.sampleSwitches pins }).hookChange n (s.line n).sense.hook
        ((s.line n).sense.sampleSwitches pins).hook) = s2 at h2
  rw [← h2]
  split <;> split <;> simp [onLine_line_self]

/-- The line after the evaluator's computation and hand-over of a valid sample, before the protection stage. -/
def State.evaluated (n : LineNo) (sample : BitVec 12) (s : State) : State :=
  let l := s.line n
  let e := l.tension.sample l.applied.filterShift (loadOf sample (s.setup n).zeroOffset)
  let w := if l.control.state = .locked then e.tendStep l.applied else (e, TendOutcome.none)
  (s.putLine n { l with tension := w.1 }).onLine n (Line.tensionReport s.berth.stopped w.2)

theorem evaluated_line (n : LineNo) (sample : BitVec 12) (s : State) :
    (s.evaluated n sample).line n
      = let l := s.line n
        let e := l.tension.sample l.applied.filterShift (loadOf sample (s.setup n).zeroOffset)
        let w := if l.control.state = .locked then e.tendStep l.applied else (e, TendOutcome.none)
        Line.tensionReport s.berth.stopped w.2 { l with tension := w.1 } := by
  unfold State.evaluated
  dsimp only
  rw [onLine_line_self, State.line_putLine_self]

theorem tensionStage_valid (n : LineNo) (sample : BitVec 12) (s : State) (h : sampleValid sample = true) :
    s.tensionStage n sample = (s.evaluated n sample).protectionStage n := by
  unfold State.tensionStage
  rw [if_pos h]
  rfl

theorem tensionStage_invalid (n : LineNo) (sample : BitVec 12) (s : State) (h : sampleValid sample = false) :
    s.tensionStage n sample = s := by
  unfold State.tensionStage
  rw [h]
  rfl

/-- The line after its whole sample event, from the line after the stages before the close (R39). -/
theorem sampleEvent_line_fitted (n : LineNo) (sample : BitVec 12) (pins : SwitchPins) (s : State)
    (h : s.fitted n = true) :
    (s.sampleEvent n sample pins).line n
      = Line.close true
          ((((((s.putLine n (s.line n).advanceHookTimer).profileStage n).switchStage n pins).sensorStage n
            sample).tensionStage n sample).line n) := by
  unfold State.sampleEvent
  dsimp only
  rw [if_pos h, onLine_line_self, h]

theorem sampleEvent_line_unfitted (n : LineNo) (sample : BitVec 12) (pins : SwitchPins) (s : State)
    (h : s.fitted n = false) :
    (s.sampleEvent n sample pins).line n = Line.close false (s.line n).advanceHookTimer := by
  unfold State.sampleEvent
  simp only [h, Bool.false_eq_true, if_false, onLine_line_self, State.line_putLine_self]

end Sys2Proof.Machine
end

