-- ==== Sys2Proof/Laws/Store.lean ====
section
/-! SUPPORT. What a load and an abandoned save can do to the Group Table (R110, R111). -/

namespace Sys2Proof.Machine

/-- An image passes the checks of a load exactly where its check word matches and every field is in range (R110). -/
theorem checkedSetups_eq_some (img : StoreImage) (us : Vector LineSetup 8) :
    checkedSetups img = some us ↔ img.check = Config.checkWord img.setups ∧ setupsOfImage img = some us := by
  unfold checkedSetups; split_ifs with h <;> simp [h]

/-- An image fails a load exactly where a field is out of range or the check word does not match (R110). -/
theorem checkedSetups_eq_none (img : StoreImage) :
    checkedSetups img = none ↔ setupsOfImage img = none ∨ img.check ≠ Config.checkWord img.setups := by
  unfold checkedSetups; split_ifs with h <;> simp [h]

/-- A load of an image that passes (R110). -/
theorem GroupTable.load_some {t : GroupTable} {us : Vector LineSetup 8} (h : checkedSetups t.store = some us) :
    t.load = { t with setups := us, storeState := .current, source := .store } := by
  simp [GroupTable.load, h]

/-- A load of an image that fails (R110). -/
theorem GroupTable.load_none {t : GroupTable} (h : checkedSetups t.store = none) :
    t.load = { t with setups := defaultSetups, storeState := .stale, source := .default } := by
  simp [GroupTable.load, h]

@[simp] theorem GroupTable.load_store (t : GroupTable) : t.load.store = t.store := by
  unfold GroupTable.load; split <;> rfl

@[simp] theorem GroupTable.load_saveCopy (t : GroupTable) : t.load.saveCopy = t.saveCopy := by
  unfold GroupTable.load; split <;> rfl

/-- What an abandoned save can leave in the store (R111): the image before, the one being written, or one that fails a
load. -/
theorem abandonedImage_cases (before written draw : StoreImage) :
    abandonedImage before written draw = before ∨ abandonedImage before written draw = written
      ∨ checkedSetups (abandonedImage before written draw) = none := by
  unfold abandonedImage
  split_ifs with h
  · exact h
  · exact .inr (.inr ((checkedSetups_eq_none _).mpr (.inr (Nat.succ_ne_self _))))

/-- Every image that R111 allows is left by some draw: itself. -/
theorem abandonedImage_self {before written draw : StoreImage}
    (h : draw = before ∨ draw = written ∨ checkedSetups draw = none) : abandonedImage before written draw = draw :=
  if_pos h

@[simp] theorem State.abandonSave_saveCopy (s : State) : s.abandonSave.table.saveCopy = none := by
  unfold State.abandonSave; split <;> simp_all

/-- Without a save in progress nothing is abandoned. -/
theorem State.abandonSave_none {s : State} (h : s.table.saveCopy = none) : s.abandonSave = s := by
  simp [State.abandonSave, h]

/-- The store after an abandoned save holds the image before, the one being written, or one that fails a load (R111). -/
theorem State.abandonSave_store {s : State} {img : StoreImage} (h : s.table.saveCopy = some img) :
    s.abandonSave.table.store = s.table.store ∨ s.abandonSave.table.store = img
      ∨ checkedSetups s.abandonSave.table.store = none := by
  simpa [State.abandonSave, h] using abandonedImage_cases _ _ _

end Sys2Proof.Machine
end

