-- ==== Sys2Proof/Laws/Values.lean ====
section
/-! SUPPORT. The values that writes carry: the checks of the machine agree with the ranges as the manual prints them, and
their fields stand at the bytes that the tables of R172 give them. -/

namespace Sys2Proof.Machine

/-- The value check of WRITE PROFILE is that of R100 and R101. -/
theorem profileTaken_eq (p : Profile) : profileTaken p = profileValid p := by
  rw [Bool.eq_iff_iff]
  simp only [profileTaken, profileValid, profileInRange, profileOrdered, within, Bool.and_eq_true, decide_eq_true_eq,
    List.all_cons, List.all_nil, and_true]
  constructor <;> intro h <;> refine ⟨?_, ?_⟩ <;> simp_all

/-- Fields that WRITE LINE SETUP takes spell a line setup, and no others do (R103, R172). -/
theorem setupOfFields_isSome (f : SetupFields) : (setupOfFields f).isSome = setupTaken f := by
  rw [Bool.eq_iff_iff]
  unfold setupOfFields setupTaken within
  split_ifs with hg hr h <;> simp_all <;> omega

/-- The line setup that taken fields stand for is the one that they spell. -/
theorem setupOfFields_eq_some (f : SetupFields) (u : LineSetup) :
    setupOfFields f = some u ↔ setupTaken f = true ∧ setupSpelled f u := by
  obtain ⟨fitted, group, hand, offset, rank, capacity⟩ := u
  unfold setupOfFields setupTaken setupSpelled within
  have byte : ∀ b : Byte, b.toNat ≤ 1 → b = 0#8 ∨ b = 1#8 := by
    intro b hb
    rcases Nat.le_one_iff_eq_zero_or_eq_one.mp hb with h | h
    · exact .inl (BitVec.eq_of_toNat_eq h)
    · exact .inr (BitVec.eq_of_toNat_eq h)
  constructor
  · intro h
    rcases Nat.lt_or_ge f.group.toNat 4 with hg | hg
    swap
    · rw [dif_neg (by omega)] at h; cases h
    rw [dif_pos hg] at h
    rcases Nat.lt_or_ge f.rank.toNat 8 with hr | hr
    swap
    · rw [dif_neg (by omega)] at h; cases h
    rw [dif_pos hr] at h
    by_cases hw : (decide (f.fitted.toNat ≤ 1) && decide (f.hand.toNat ≤ 1) && decide (f.zeroOffset.toNat ≤ 1023)
        && (decide (1000 ≤ f.capacity.toNat) && decide (f.capacity.toNat ≤ 60000))) = true
    swap
    · rw [if_neg hw] at h; cases h
    rw [if_pos hw] at h
    simp only [Option.some.injEq, LineSetup.mk.injEq] at h
    obtain ⟨rfl, rfl, rfl, rfl, rfl, rfl⟩ := h
    simp only [Bool.and_eq_true, decide_eq_true_eq] at hw
    obtain ⟨⟨⟨h1, h2⟩, h3⟩, h4, h5⟩ := hw
    refine ⟨by simp only [decide_eq_true_eq]; omega, ?_⟩
    rcases byte _ h1 with a | a <;> rcases byte _ h2 with b | b <;> simp [a, b]
  · rintro ⟨h, a, b, c, d, e, g⟩
    simp only [decide_eq_true_eq] at h
    obtain ⟨h1, h2, h3, h4, h5, h6, h7⟩ := h
    rw [dif_pos (by omega), dif_pos (by omega), if_pos (by simp [h1, h3, h4, h6, h7])]
    subst d g
    cases fitted <;> cases hand <;> simp_all

/-! ### Layouts -/

/-- Two 12-bit values can be read back from the three bytes that pack them (R172). -/
theorem packedBytes_reads (a b : Nat) (ha : a < 4096) (hb : b < 4096) :
    ∃ x y z, packedBytes a b = [x, y, z] ∧ x.toNat * 16 + y.toNat / 16 = a ∧ y.toNat % 16 * 256 + z.toNat = b := by
  refine ⟨_, _, _, rfl, ?_, ?_⟩ <;> simp only [BitVec.toNat_ofNat] <;> omega

/-- A quantity can be read back from its two bytes (R172). -/
theorem wordBytes_reads (n : Nat) (h : n < 65536) :
    ∃ x y, wordBytes n = [x, y] ∧ x.toNat * 256 + y.toNat = n := by
  refine ⟨_, _, rfl, ?_⟩
  simp only [BitVec.toNat_ofNat]
  omega

/-- A quantity can be read back from its byte. -/
theorem byte_reads (n : Nat) (h : n < 256) : (BitVec.ofNat 8 n).toNat = n := by
  rw [BitVec.toNat_ofNat]
  omega

/-- A profile that fits its bytes stands in them where the table of R172 puts its fields. -/
theorem encodeProfile_laidOut (p : Profile) (h : p.fits = true) (first : Byte) (rest : List Byte) :
    profileLaidOut (first :: encodeProfile p ++ rest) p := by
  simp only [Profile.fits, List.all_cons, List.all_nil, Bool.and_eq_true, decide_eq_true_eq, and_true] at h
  obtain ⟨⟨b, t⟩, w⟩ := h
  obtain ⟨b1, b2, b3, b4, b5, b6⟩ := b
  obtain ⟨t1, t2, t3, t4, t5, t6, t7, t8⟩ := t
  obtain ⟨w1, w2, w3, w4, w5, w6, w7, w8, w9, w10⟩ := w
  obtain ⟨x1, x2, x3, e1, f1, f2⟩ := packedBytes_reads _ _ t1 t2
  obtain ⟨x4, x5, x6, e2, f3, f4⟩ := packedBytes_reads _ _ t3 t4
  obtain ⟨x7, x8, x9, e3, f5, f6⟩ := packedBytes_reads _ _ t5 t6
  obtain ⟨x10, x11, x12, e4, f7, f8⟩ := packedBytes_reads _ _ t7 t8
  obtain ⟨y1, z1, g1, h1⟩ := wordBytes_reads _ w1
  obtain ⟨y2, z2, g2, h2⟩ := wordBytes_reads _ w2
  obtain ⟨y3, z3, g3, h3⟩ := wordBytes_reads _ w3
  obtain ⟨y4, z4, g4, h4⟩ := wordBytes_reads _ w4
  obtain ⟨y5, z5, g5, h5⟩ := wordBytes_reads _ w5
  obtain ⟨y6, z6, g6, h6⟩ := wordBytes_reads _ w6
  obtain ⟨y7, z7, g7, h7⟩ := wordBytes_reads _ w7
  obtain ⟨y8, z8, g8, h8⟩ := wordBytes_reads _ w8
  obtain ⟨y9, z9, g9, h9⟩ := wordBytes_reads _ w9
  obtain ⟨y10, z10, g10, h10⟩ := wordBytes_reads _ w10
  unfold encodeProfile profileLaidOut
  rw [e1, e2, e3, e4, g1, g2, g3, g4, g5, g6, g7, g8, g9, g10]
  simp only [List.cons_append, List.nil_append, List.getD_cons_zero, List.getD_cons_succ]
  exact ⟨byte_reads _ b1, f1, f2, f3, f4, f5, f6, f7, f8, h1, h2, h3, h4, h5, h6, h7, h8, byte_reads _ b2, byte_reads _ b3,
    byte_reads _ b4, byte_reads _ b5, byte_reads _ b6, h9, h10⟩

/-- The setup fields stand in their bytes where the table of R172 puts them. -/
theorem encodeSetup_laidOut (f : SetupFields) (first : Byte) (rest : List Byte) :
    setupLaidOut (first :: encodeSetup f ++ rest) f := by
  refine ⟨rfl, rfl, rfl, ?_, rfl, ?_⟩ <;>
    simp only [encodeSetup, List.cons_append, List.nil_append, List.getD_cons_zero, List.getD_cons_succ,
      BitVec.extractLsb'_toNat] <;>
    omega

end Sys2Proof.Machine
end

