-- ==== Sys2Proof/Tests/Slice0.lean ====
section
/-! SUPPORT. Tests: WellFormed's checks, figures and examples of the manual, and for each statement a state and operands
that meet its hypotheses. -/

namespace Sys2Proof.Tests
open Sys2Proof Sys2Proof.Machine

/-! ### Small states -/

/-- A line whose switches have settled with the hook closed, in state `x`, its lock mark at 0 and its tension at `t`. -/
def held (x : LineState) (t : Nat) : Line :=
  let w : Switch := { accepted := .inactive, run := 0 }
  let l : Line :=
    { lineAtPowerOn with
      sense :=
        { senseAtPowerOn with
          hookClosed := { accepted := .active, run := 0 }, hookOpen := w, stowed := w, driveFault := w, hook := .closed
          samples := 8, referenced := true }
      tension := { tensionAtReset with filtered := some (16 * t), reported := t }
      control := { controlAtPowerOn with lockMark := some 0 } }
  l.enter x {}

/-- The same line with its hook open. -/
def free (x : LineState) (t : Nat) : Line :=
  let l := held x t
  let w : Switch := { accepted := .active, run := 0 }
  { l with
    sense := { l.sense with hookClosed := { accepted := .inactive, run := 0 }, hookOpen := w, hook := .opened } }

/-- The pins of a line with its hook closed, and with its hook open. -/
def pinsClosed : SwitchPins := { hookClosed := .low, hookOpen := .high, stowed := .high, driveFault := .high }
def pinsOpen : SwitchPins := { hookClosed := .high, hookOpen := .low, stowed := .high, driveFault := .high }

/-- Every station PRESENT with its restart indicator clear, and PANEL holding every group. -/
def manned : State :=
  { State.reset with
    links := Vector.replicate 4 { linkAtPowerOn with presence := .present, restartInd := false }
    records := Vector.replicate 4 { inService := [{ station := .panel, single := false, watched := none }], waiting := [] } }

/-- The same with SERVICE holding every group. -/
def served : State :=
  { manned with
    records := Vector.replicate 4
      { inService := [{ station := .service, single := false, watched := none }], waiting := [] } }

/-- Line 0 replaced in `manned`. -/
def with0 (l : Line) : State := manned.putLine 0 l

/-- A default profile without smoothing and with short dwells, as the examples of spec/04 and spec/05 use. -/
def shortProfile : Profile :=
  { defaultProfile with filterShift := 0, renderDwell := 3, recoverDwell := 3, warnDwell := 3, tripDwell := 2
                        slackDwell := 2 }

/-- A line under the short profile. -/
def short (l : Line) : Line := { l with applied := shortProfile }

/-- A command answers a next state with a property. -/
def gives (c : Instr) (s : State) (p : State → Bool) : Bool :=
  match exec c s with
  | .next t => p t
  | .fault _ => false
  | .refused _ => false

/-- A good upstream slot with a stance code, a byte, the offer and the take bit (R172). -/
def goodSlot (stance : BitVec 4) (b : Byte) (offer take : Bool) : BitVec 32 :=
  let raw : BitVec 32 := slotMarker ++ stance ++ b ++ oneBit offer ++ oneBit take ++ 0#12
  if oddParity raw then raw ||| 1#32 else raw

/-! ### WellFormed refuses an ill-formed term of each check (R161, R172) -/

theorem test_wf_claim_mask : WellFormed (.claim .quay 0x10#8 0#8) = false := by decide
theorem test_wf_claim_option : WellFormed (.claim .quay 0x0F#8 2#8) = false := by decide
theorem test_wf_yield_mask : WellFormed (.yieldGroups .quay 0x80#8) = false := by decide
theorem test_wf_release_option : WellFormed (.release .quay 0xFF#8 2#8) = false := by decide
theorem test_wf_readLines_first : WellFormed (.readLines .quay 8#8 1#8) = false := by decide
theorem test_wf_readLines_count :
    WellFormed (.readLines .quay 0#8 0#8) = false ∧ WellFormed (.readLines .quay 0#8 9#8) = false := by decide
theorem test_wf_readGroup : WellFormed (.readGroup .quay 4#8) = false := by decide
theorem test_wf_readSetup : WellFormed (.readSetup .quay 8#8) = false := by decide
theorem test_wf_clearFlags : WellFormed (.clearFlags .quay 1#8 0x0400#16) = false := by decide
theorem test_wf_clearStation : WellFormed (.clearStation .quay 4#8) = false := by decide
theorem test_wf_writeProfile_group : WellFormed (.writeProfile .quay 4#8 defaultProfile) = false := by decide
theorem test_wf_writeProfile_fits : WellFormed (.writeProfile .quay 0#8 { defaultProfile with trip := 4096 }) = false := by
  decide
theorem test_wf_writeLineSetup : WellFormed (.writeLineSetup .service 8#8 (fieldsOfSetup (defaultSetup 0))) = false := by
  decide
theorem test_wf_accepts : WellFormed (.claim .quay 0x0F#8 1#8) = true ∧ WellFormed (.readLines .quay 7#8 8#8) = true
    ∧ WellFormed (.writeProfile .quay 3#8 defaultProfile) = true := by decide

/-! ### Messages, slots and figures of the manual -/

/-- Kind codes and bodies (R172): CLAIM of groups 0 and 2 with SINGLE, CLEAR FLAGS, and two that are no request. -/
theorem test_decode_claim : decodeRequest .vessel 0x10#8 [0x05#8, 0x01#8] = some (.claim .vessel 0x05#8 0x01#8) := by
  decide
theorem test_decode_clearFlags :
    decodeRequest .quay 0x40#8 [0xFF#8, 0x03#8, 0x01#8] = some (.clearFlags .quay 0xFF#8 0x0301#16) := by decide
theorem test_decode_unknown_kind : decodeRequest .quay 0x13#8 [] = none := by decide
theorem test_decode_wrong_length : decodeRequest .quay 0x20#8 [] = none := by decide

/-- Two packed thresholds (R172): L 400 = 190h and Hc 280 = 118h in the bytes 19h 01h 18h. -/
theorem test_packed_thresholds : packedBytes 400 280 = [0x19#8, 0x01#8, 0x18#8] := by decide

/-- The step of the filter is truncated toward zero (R22): D = -14550 gives -3637 with k = 2, and D = -3 gives 0. -/
theorem test_filter_truncates : filterStep 2 14550 0 = 14550 - 3637 ∧ filterStep 2 3 0 = 3 := by decide

set_option maxRecDepth 4000 in
/-- The slot composed from the power-on values is the one held at reset (log 15). -/
theorem test_downstream_at_power_on : State.reset.compose .quay = downstreamAtPowerOn := by decide

set_option maxRecDepth 4000 in
/-- All zeros and all ones are bad slots (R148), as are a changed bit of a good one. -/
theorem test_slot_good :
    slotGood 0#32 = false ∧ slotGood 0xFFFFFFFF#32 = false ∧ slotGood (goodSlot 0b0110#4 5#8 true false) = true
      ∧ slotGood (goodSlot 0b0110#4 5#8 true false ^^^ 0x4000#32) = false := by decide

/-! ### Single steps of the manual's examples -/

/-- A switch that is accepted in one position and has been read seven times in the other. -/
def turning (w : Accepted) : Switch := { accepted := w, run := 7 }

/-- 1.11, hook closing on the pin, sample 14: the eighth ACTIVE reading makes the position CLOSED; an ENGAGING line then
hauls (11.1), its speed lead at 30 % and the direction lead of a RIGHT-hand line high. -/
theorem test_hook_closes_and_line_hauls :
    let l := free .engaging 30
    let l' : Line :=
      { l with
        sense :=
          { l.sense with
            hookClosed := turning .inactive, hookOpen := { accepted := .inactive, run := 0 }, hook := .moving } }
    gives (.sampleEvent 0 40#12 pinsClosed) (with0 l') (fun t =>
      (t.line 0).sense.hook == .closed && (t.line 0).control.state == .hauling && (t.line 0).control.drive == -30
        && (t.pins 0).speedDuty == 30 && (t.pins 0).direction == .high && (t.pins 0).releaseLead
        && !(t.pins 0).closeLead) = true := by decide

/-- 1.11, payout counter at its limit: the limit count leaves P at 65535 and loses the reference, and LIMIT latches. -/
theorem test_count_limit :
    let l := held .held 300
    gives (.countEvent 0 .aLeads) (with0 { l with sense := { l.sense with payout := 65535 } }) (fun t =>
      (t.line 0).sense.payout == 65535 && !(t.line 0).sense.referenced && (t.line 0).has .limit
        && (t.line 0).control.state == .held) = true := by decide

/-- 2.13, surge: F 12800 steps to 13440 at t = 960 with k = 2, and T is 840. -/
theorem test_surge_sample :
    (({ tensionAtReset with filtered := some 12800, reported := 800 } : Tension).sample 2 (loadOf 1000#12 40)).filtered
        = some 13440
      ∧ (({ tensionAtReset with filtered := some 12800, reported := 800 } : Tension).sample 2 (loadOf 1000#12 40)).reported
        = 840 := by decide

/-- 2.13, rest above and rest below the load: F stands at 14547 and at 14541. -/
theorem test_filter_rests : filterStep 2 14547 909 = 14547 ∧ filterStep 2 14548 909 = 14547
    ∧ filterStep 2 14541 909 = 14541 ∧ filterStep 2 14540 909 = 14541 := by decide

/-- 4.10, sample 3: the third sample above Hr fires, and the line renders on its brake, its watch zeroed. -/
theorem test_render_fires :
    let l := short (held .locked 780)
    let l' : Line := { l with tension := { l.tension with tendDir := some .render, tendCount := 2 } }
    gives (.sampleEvent 0 800#12 pinsClosed) (with0 l') (fun t =>
      (t.line 0).control.state == .rendering && (t.line 0).control.brake == .slip
        && (t.line 0).tension.tendCount == 0 && (t.pins 0).slipLead && (t.link .quay).lineMarks[(0 : LineNo)]) = true := by
  decide

/-- 4.10, falling tide: the count that brings E to Emax ends the render in LOCKED and latches ALLOW. -/
theorem test_render_meets_allowance :
    let l := held .rendering 740
    let l' : Line :=
      { l with
        sense := { l.sense with payout := 5199 }
        control := { l.control with lockMark := some 5000 }
        applied := { l.applied with allowance := 200 } }
    gives (.countEvent 0 .aLeads) (with0 l') (fun t =>
      (t.line 0).control.state == .locked && (t.line 0).has .allow && (t.line 0).sense.payout == 5200) = true := by
  decide

/-- 5.9, sample 3: the third sample above W latches WARN, and under GROUP scope the other line of the group is told. -/
theorem test_warn_fires :
    let l := short (held .locked 1180)
    let l' : Line :=
      { l with
        protection := { l.protection with warnWatch := 2 }
        applied := { l.applied with allowance := 0 } }
    let s := (with0 l').putLine 1 (held .hauling 350)
    gives (.sampleEvent 0 1200#12 pinsClosed)
      { s with table := { s.table with settings := { s.table.settings with scope := .group } } } (fun t =>
      (t.line 0).has .warn && (t.line 0).control.state == .locked && (t.line 1).protection.inhibit
        && !(t.line 2).protection.inhibit && t.due == [.inhibitOnset 1]) = true := by decide

/-- 5.9, sample 5: the second sample above X under WARN latches TRIP, and the line slips. -/
theorem test_trip_fires :
    let l := short (held .locked 1210)
    let l' : Line :=
      { l with
        protection := { l.protection with tripWatch := 1, inhibit := true }
        control := { l.control with flags := Flag.warn.mask } }
    gives (.sampleEvent 0 1220#12 pinsClosed) (with0 l') (fun t =>
      (t.line 0).has .trip && (t.line 0).control.state == .slipping && (t.line 0).protection.tripWatch == 2) = true := by
  decide

/-- 6.8: a recovery at E = -151 ends at the start of the sample at which an allowance of 100 is applied. -/
theorem test_profile_write_ends_recovery :
    let l := held .recovering 200
    let l' : Line :=
      { l with
        sense := { l.sense with payout := 5000 - 151 }
        control := { l.control with lockMark := some 5000 }
        profileDue := true }
    let s := with0 l'
    gives (.sampleEvent 0 4095#12 pinsClosed)
      { s with table := { s.table with profiles := s.table.profiles.set 0 { defaultProfile with allowance := 100 } } }
      (fun t => (t.line 0).control.state == .locked && (t.line 0).has .allow && (t.line 0).applied.allowance == 100)
      = true := by decide

/-- 7.14: PANEL's single claim over QUAY is GRANTED, and the holder change is handed to lines 2 and 3 of group 1. -/
theorem test_panel_steps_in :
    let quay : GroupRecord := { inService := [{ station := .quay, single := false, watched := none }], waiting := [] }
    gives (.claim .panel 0x02#8 1#8) { manned with records := Vector.replicate 4 quay } (fun t =>
      t.holder 1 == some .panel && t.holder 0 == some .quay && t.due == [.halt 2, .halt 3]
        && ((t.link .panel).replySlot.map (·.body)) == some [0x01#8, 0x02#8, 0x03#8]
        && t.standing .quay == 0b0001#4) = true := by decide

/-- 7.15: with vessel-lead on, a pending VESSEL moves above QUAY in group 2 at WRITE BERTH. -/
theorem test_vessel_lead_moves_pending :
    let quay : Entry := { station := .quay, single := false, watched := none }
    reevaluated true { inService := [quay], waiting := [{ quay with station := .vessel }] }
      = { inService := [{ quay with station := .vessel }, quay], waiting := [] } := by decide

/-- 8.8: the release-all selects the hook-closed lines in rank order, line 5 of rank 0 behind line 0. -/
theorem test_release_all_order :
    let s0 := { manned with lines := Vector.replicate 8 (held .locked 500) }
    let s1 := (s0.putLine 6 (free .opened 0)).putLine 7 (free .stowed 0)
    let s :=
      { s1 with
        table := { s1.table with setups := s1.table.setups.set 5 { defaultSetup 5 with rank := 0 } }
        due := [.stance .panel .idle .releaseAll] }
    gives (.stanceChange .panel) s (fun t =>
      t.berth.queue == [0, 5, 1, 2, 3, 4] && t.berth.releaseAll && t.due == [.queueTake]) = true := by decide

/-- 8.9: with an interval of 0 the next take is due at once, and no timer runs. -/
theorem test_take_without_stagger :
    let s := ((with0 (held .held 300)).putLine 2 (held .held 300)).putLine 3 (held .held 300)
    gives .queueTake
      { s with
        berth := { s.berth with queue := [2, 3] }
        due := [.queueTake]
        table := { s.table with settings := { s.table.settings with stagger := 0 } } } (fun t =>
      (t.line 2).control.state == .opening && (t.pins 2).openLead && t.berth.queue == [3] && t.berth.stagger == none
        && t.due == [.queueTake]) = true := by decide

/-- 3.18: the slack watch stands at its dwell, and the line opens once P - P0 reaches the slack length. -/
theorem test_slack_reached :
    let l := held .slacking 50
    let l' : Line :=
      { l with
        sense := { l.sense with payout := 5604 }
        control :=
          { l.control with
            slackWatch := 100
            record := { current := some .release, slackStart := some 5200, thenRewind := true } } }
    gives (.sampleEvent 0 50#12 pinsClosed) (with0 l') (fun t =>
      (t.line 0).control.state == .opening && (t.line 0).control.record.thenRewind
        && (t.line 0).control.hookTimer == some { limit := 100, elapsed := 0 }) = true := by decide

set_option maxRecDepth 4000 in
/-- 9.9, frame 3: the second look at the byte latches it, and take is set in the next frame's slot. -/
theorem test_second_look_latches :
    let s := manned.onLink .quay fun k => { k with recv := .oneLook 5#8, candidate := some 0b0110#4 }
    gives (.frameEvent .quay (goodSlot 0b0110#4 5#8 true false)) s (fun t =>
      (t.link .quay).recv == .taken && (t.link .quay).incoming == .length 5#8
        && (t.link .quay).downstream.getLsbD 8 && slotGood (t.link .quay).downstream) = true := by decide

set_option maxRecDepth 4000 in
/-- 9.9, frame 2: a bad slot is skipped by the receive lane. -/
theorem test_bad_slot_skipped :
    let s := manned.onLink .quay fun k => { k with recv := .oneLook 5#8 }
    gives (.frameEvent .quay 0xFFFFFFFF#32) s (fun t =>
      (t.link .quay).recv == .oneLook 5#8 && (t.link .quay).badCount == 1) = true := by decide

/-- 10.7: RESTART from QUAY is not permitted, and from PANEL it joins the pending restart. -/
theorem test_restart_request :
    gives (.restart .quay) manned (fun t =>
        t.pendingRestart == [] && ((t.link .quay).replySlot.map (·.body)) == some [0x0B#8]) = true
      ∧ gives (.restart .panel) manned (fun t =>
        t.pendingRestart == [.panel] && ((t.link .panel).replySlot.map (·.body)) == some [0x01#8]) = true := by decide

/-- The line record of a HELD line (R164, R172): state 0Ah, T 300 = 012Ch, P -2 = FFFFFEh, referenced with a mark at 5,
E -7 = FFFFF9h. -/
theorem test_line_record :
    let l := held .held 300
    let l' : Line :=
      { l with sense := { l.sense with payout := -2 }, control := { l.control with lockMark := some 5 } }
    lineRecordBytes l' = [0x0A#8, 0#8, 0#8, 0#8, 0x01#8, 0x2C#8, 0xFF#8, 0xFF#8, 0xFE#8, 0x03#8, 0xFF#8, 0xFF#8, 0xF9#8] := by
  decide


/-- R105: a line moved to a group of another profile deploys by its old speed until its next sample event. -/
theorem test_group_change_waits_for_sample :
    let fast := { defaultProfile with deploySpeed := 55 }
    let s := served.putLine 0 (free .stowed 30)
    let s' := { s with table := { s.table with profiles := s.table.profiles.set 3 fast } }
    gives (.writeLineSetup .service 0#8 { fieldsOfSetup (defaultSetup 0) with group := 3#8 }) s' (fun t =>
      (t.line 0).applied == defaultProfile && (t.line 0).joined == some fast
        && gives (.deploy .service 0x01#8) (t.onLink .service fun k => { k with replySlot := none }) (fun u =>
          (u.line 0).control.drive == (defaultProfile.deploySpeed : Int)
            && gives (.sampleEvent 0 40#12 pinsOpen) u (fun v => (v.line 0).control.drive == 55))) = true := by decide

/-- R130: vessel-lead re-orders the stations in service below PANEL, and marks no notice. -/
theorem test_reorder_marks_nothing :
    let e := fun x => ({ station := x, single := false, watched := none } : Entry)
    gives (.writeBerth .panel 0#8 25#8 1#8)
      { manned with records := Vector.replicate 4 { inService := [e .panel, e .quay, e .vessel], waiting := [] } }
      (fun t => (t.record 0).inService == [e .panel, e .vessel, e .quay]
        && allGroups.all fun g => !(t.link .quay).groupMarks[g]) = true := by decide

/-- R43, R127: with lines 2 and 3 watched, HOLD of both is taken for both, though line 2's rest alone already ends the
sender's entry where line 3 rests. -/
theorem test_hold_decided_before_first_line :
    let e : Entry := { station := .panel, single := true, watched := some [2] }
    let s := ((manned.putLine 2 (held .hauling 300)).putLine 3 (held .hauling 300))
    gives (.hold .panel 0x0C#8) { s with records := Vector.replicate 4 { inService := [e], waiting := [] } } (fun t =>
      (t.line 2).control.state == .held && (t.line 3).control.state == .held
        && ((t.link .panel).replySlot.map (·.body)) == some [0x01#8, 0x0C#8, 0x01#8, 0x01#8]) = true := by decide
/-! ### Witnesses: line commands -/

theorem witness_DeployReleaseRewindResult :
    let s := (with0 (free .opened 30)).putLine 1 (held .locked 500)
    s.accepts .panel = true ∧ (s.link .panel).restartInd = false ∧ optionOk 1#8 = true
      ∧ deployOutcome s .panel 0 = .done ∧ rewindOutcome s .panel 0 = .done ∧ releaseOutcome s .panel 1 = .done
      ∧ deployOutcome s .panel 1 = .badState ∧ deployOutcome s .quay 0 = .notHolder := by decide

theorem witness_EngageLockResult :
    let s := ((with0 (free .opened 30)).putLine 1 (held .held 400)).putLine 2 (held .held 399)
    s.accepts .panel = true ∧ (s.link .panel).restartInd = false
      ∧ engageOutcome s .panel 0 = .done ∧ engageOutcome s .panel 1 = .badState
      ∧ lockOutcome s .panel 1 = .done ∧ (s.line 1).tension.reported ≥ (s.line 1).applied.lock
      ∧ lockOutcome s .panel 2 = .done ∧ ¬(s.line 2).tension.reported ≥ (s.line 2).applied.lock := by decide

theorem witness_HoldMarkResetResult :
    let s := ((with0 (held .locked 500)).putLine 1 (free .deploying 30)).putLine 2 (held .faulted 300)
    s.accepts .panel = true ∧ (s.link .panel).restartInd = false
      ∧ holdOutcome s .panel 0 = .done ∧ holdOutcome s .panel 1 = .done ∧ markOutcome s .panel 0 = .done
      ∧ markOutcome s .panel 1 = .badState ∧ resetLineOutcome s .panel 2 = .done
      ∧ resetLineOutcome s .panel 0 = .badState := by decide

theorem witness_QuickReleaseResult :
    let s := (with0 (held .locked 500)).putLine 1 (held .faulted 300)
    s.accepts .panel = true ∧ (s.link .panel).restartInd = false ∧ s.noSingle = true
      ∧ quickReleaseOutcome s .panel 0 = .done ∧ quickReleaseOutcome s .panel 1 = .done
      ∧ quickReleaseOutcome s .panel 2 = .badState ∧ s.berth.stagger = none ∧ DueEvent.queueTake ∉ s.due := by decide

theorem witness_LineCommandRestartPending :
    let s := manned.onLink .panel fun k => { k with restartInd := true }
    s.accepts .panel = true ∧ (s.link .panel).restartInd = true ∧ optionOk 0#8 = true := by decide

/-- PANEL holds every group by a marked entry above QUAY; line 0 is LOCKED and line 1 hauls. -/
def single : State :=
  let e : Entry := { station := .quay, single := false, watched := none }
  { (with0 (held .locked 500)).putLine 1 (held .hauling 300) with
    records := Vector.replicate 4 { inService := [{ e with station := .panel, single := true }, e], waiting := [] } }

/-- The same with the watched set of group 0 recorded as lines 0 and 1, and a stall expiry of line 1 to come. -/
def watching : State :=
  let e : Entry := { station := .quay, single := false, watched := none }
  { single with
    records := single.records.set 0
      { inService := [{ e with station := .panel, single := true, watched := some [0, 1] }, e], waiting := [] } }

theorem sound_of_served {s : State}
    (h : ∀ g, ranked s.table.settings.vesselLead (s.record g).inService ∧ (s.record g).waiting = []
      ∧ ∀ e ∈ (s.record g).inService, s.present e.station = true) : s.authoritySound := fun g => by
  obtain ⟨h1, h2, h3⟩ := h g
  refine ⟨h1, ?_, ?_, ?_, ?_⟩ <;> simp_all [ranked, GroupRecord.entries]

theorem single_authoritySound : single.authoritySound := sound_of_served (by unfold ranked; decide)

theorem watching_authoritySound : watching.authoritySound := sound_of_served (by unfold ranked; decide)

/-- Of lines 0 and 1 HOLD brings both to rest and the entry goes; of a LOCKED line 0 DEPLOY is taken for none; REWIND of
an OPENED line leaves the entry with its watched set. -/
theorem witness_SingleCommandRequest :
    single.accepts .panel = true ∧ (single.link .panel).restartInd = false ∧ single.noWatched = true
      ∧ single.authoritySound ∧ optionOk 0#8 = true
      ∧ holdOutcome single .panel 0 = .done ∧ holdOutcome single .panel 1 = .done
      ∧ deployOutcome single .panel 0 = .badState
      ∧ gives (.hold .panel 0x03#8) single (fun t => t.holder 0 == some .quay && t.due == [.halt 0, .halt 1]) = true
      ∧ gives (.rewind .panel 0x01#8) (single.putLine 0 (free .opened 30)) (fun t =>
          t.holder 0 == some .panel
            && ((t.record 0).inService.map (·.watched)) == [some [0], none]) = true :=
  ⟨by decide, by decide, by decide, single_authoritySound, by decide, by decide, by decide, by decide, by decide,
    by decide⟩

/-- A stall expiry of line 1 removes the entry, as line 0 rests; an inhibit onset of line 0 changes no state. -/
theorem witness_SingleCommandStateChange :
    let e : Entry := { station := .panel, single := true, watched := some [0, 1] }
    watching.running = true ∧ watching.authoritySound ∧ e ∈ (watching.record 0).inService
      ∧ (∀ g', ∀ e' ∈ (watching.record g').entries, e'.watched ≠ none → g' = 0 ∧ e' = e)
      ∧ gives (.stallExpiry 1) watching (fun t =>
          t.holder 0 == some .quay && t.due == [.halt 0, .halt 1] && (t.link .vessel).groupMarks[(0 : GroupNo)]) = true
      ∧ gives (.inhibitOnset 0) watching (fun t => t.holder 0 == some .panel) = true :=
  ⟨by decide, watching_authoritySound, by decide, by decide, by decide, by decide⟩

/-- The same with line 1 at a tension of at least L, at which a sample locks it; and with it at the head of the queue. -/
def arriving : State := watching.putLine 1 (held .hauling 500)
def queuedLine : State := { watching with due := [.queueTake], berth := { watching.berth with queue := [1] } }

/-- A line 1 that moves meets the hypotheses of every clause: a sample that locks it removes the entry, a queue take that
opens it and a count leave it; of line commands, a HOLD brings it to rest, and a MARK of line 0 does not. -/
theorem witness_SingleCommandStateChange_watched :
    (arriving.calmSample 1 500#12 pinsClosed = true ∧ profileTaken (arriving.line 1).applied = true
      ∧ gives (.sampleEvent 1 500#12 pinsClosed) arriving (fun t =>
          (t.line 1).control.state == .locked && t.holder 0 == some .quay && t.due == [.halt 0, .halt 1]) = true)
    ∧ (DueEvent.queueTake ∈ queuedLine.due ∧ queuedLine.berth.queue = 1 :: [] ∧ queuedLine.berth.stagger = none
      ∧ gives .queueTake queuedLine (fun t =>
          (t.line 1).control.state == .opening && t.record 0 == queuedLine.record 0) = true)
    ∧ gives (.countEvent 1 .bLeads) watching (fun t => t.record 0 == watching.record 0) = true
    ∧ watching.accepts .panel = true ∧ (watching.link .panel).restartInd = false ∧ optionOk 0#8 = true
    ∧ (∀ e' ∈ (watching.record 0).inService, e'.single = true → e'.watched = some [0, 1])
    ∧ (watching.line 1).control.state ∈ [LineState.deploying, .engaging, .hauling, .slacking, .opening, .rewinding]
    ∧ gives (.hold .panel 0x02#8) watching (fun t => t.holder 0 == some .quay && t.due == [.halt 0, .halt 1]) = true
    ∧ gives (.mark .panel 0x01#8) watching (fun t => t.record 0 == watching.record 0) = true := by decide

/-! ### Witnesses: sample and count events -/

theorem witness_ValidSampleFormsTension :
    let s := with0 (held .locked 500)
    s.running = true ∧ s.fitted 0 = true ∧ (s.line 0).profileStands = true ∧ (1000#12).toNat ≠ 4095
      ∧ (s.line 0).tension.filtered = some 8000 ∧ (s.line 1).profileStands = true
      ∧ (s.line 1).tension.filtered = none := by decide

theorem witness_InvalidSampleEffects :
    let f := fun l : Line => { l with sense := { l.sense with invalidCount := 7 } }
    let slip := held .slipping 500
    let slip' : Line := { slip with control := { slip.control with record := { returnTo := some .stall } } }
    let s := (((with0 (f (held .locked 500))).putLine 1 (f (held .faulted 500))).putLine 2 (f slip')).putLine 3
      (held .slacking 50)
    s.running = true ∧ s.fitted 0 = true ∧ (s.line 0).profileStands = true ∧ (4095#12).toNat = 4095
      ∧ 7 ≤ (s.line 0).sense.invalidCount ∧ (s.line 0).sense.settled pinsClosed = true
      ∧ (s.line 0).control.state ∉ [LineState.starting, .notFitted, .slipping, .faulted]
      ∧ s.fitted 1 = true ∧ (s.line 1).profileStands = true ∧ 7 ≤ (s.line 1).sense.invalidCount
      ∧ (s.line 1).sense.settled pinsClosed = true ∧ (s.line 1).control.state = .faulted
      ∧ s.fitted 2 = true ∧ (s.line 2).profileStands = true ∧ 7 ≤ (s.line 2).sense.invalidCount
      ∧ (s.line 2).sense.settled pinsClosed = true ∧ (s.line 2).control.state = .slipping
      ∧ s.fitted 3 = true ∧ (s.line 3).profileStands = true ∧ (s.line 3).sense.invalidCount < 7
      ∧ (s.line 3).sense.settled pinsClosed = true ∧ (s.line 3).control.state = .slacking
      ∧ (s.line 3).control.stallCounter + 1 < (s.line 3).applied.stallWindow := by decide

/-- Each input of line 0 in another clause: unknown at its eighth sample, read as accepted, turned seven times, six. -/
theorem witness_SwitchesDebounced :
    let l := held .held 300
    let s := with0
      { l with
        sense :=
          { l.sense with
            hookClosed := turning .inactive, hookOpen := { accepted := .active, run := 6 }
            driveFault := unknownSwitch, samples := 7 } }
    s.running = true ∧ s.fitted 0 = true ∧ (s.line 0).sense.driveFault.accepted = .unknown ∧ (s.line 0).sense.samples = 7
      ∧ (s.line 0).sense.stowed.accepted = PinLevel.reading pinsClosed.stowed
      ∧ (s.line 0).sense.hookClosed.accepted ≠ PinLevel.reading pinsClosed.hookClosed
      ∧ (s.line 0).sense.hookClosed.run = 7
      ∧ (s.line 0).sense.hookOpen.accepted ≠ PinLevel.reading pinsClosed.hookOpen
      ∧ (s.line 0).sense.hookOpen.run < 7 := by decide

/-- Line 0 not fitted. -/
def unfitted (l : Line) : State :=
  let s := with0 l
  { s with table := { s.table with setups := s.table.setups.set 0 { defaultSetup 0 with fitted := false } } }

theorem witness_StartingAndUnfittedSamples :
    let f := fun n => unfitted { lineAtPowerOn with control := { controlAtPowerOn with startingCount := n } }
    let s := with0
      { lineAtPowerOn with
        sense := { senseAtPowerOn with samples := 7 }, control := { controlAtPowerOn with startingCount := 7 } }
    (f 6).running = true ∧ (f 6).fitted 0 = false ∧ ((f 6).line 0).control.state = .starting
      ∧ ((f 6).line 0).control.startingCount < 7 ∧ 7 ≤ ((f 7).line 0).control.startingCount
      ∧ ((unfitted (lineAtPowerOn.enter .notFitted {})).line 0).control.state = .notFitted
      ∧ s.running = true ∧ s.fitted 0 = true ∧ (s.line 0).control.state = .starting
      ∧ (s.line 1).control.state = .starting ∧ s.fitted 1 = true ∧ (s.line 1).control.startingCount < 7
      ∧ (s.line 0).control.startingCount = 7 ∧ (s.line 0).sense.samples = 7
      ∧ (s.line 0).sense.hookClosed.accepted = .unknown ∧ (s.line 0).sense.hookOpen.accepted = .unknown
      ∧ (s.line 0).sense.stowed.accepted = .unknown ∧ (s.line 0).sense.driveFault.accepted = .unknown
      ∧ gives (.sampleEvent 0 40#12 pinsOpen) s (fun t => (t.line 0).control.state == .opened) = true
      ∧ gives (.sampleEvent 0 40#12 pinsClosed) s (fun t => (t.line 0).control.state == .held) = true := by decide

theorem witness_SampleEventFrame :
    ((with0 (held .locked 500)).line 0).control.state ≠ .engaging
      ∧ State.running { manned with powered := false } = false ∧ manned.noSingle = true ∧ manned.present .vessel = true
      ∧ State.reset.present .vessel = false := by decide

/-- A valid sample of line 0 that meets no other condition on it, and at which the trip watch neither fires nor stands. -/
def untripped (s : State) (sample : BitVec 12) : Bool :=
  s.plainSample 0 sample pinsClosed && profileTaken (s.line 0).applied
    && (!(s.line 0).has .warn || decide (s.reportedNext 0 sample ≤ (s.line 0).applied.trip)
      || decide ((s.line 0).protection.tripWatch + 1 < (s.line 0).applied.tripDwell))

/-- A LOCKED line at E = `e` under the short profile, its tending watch in direction `d` at `c`. -/
def tended (e : Int) (d : Option TendDir) (c : Nat) : State :=
  let l := short (held .locked 500)
  with0 { l with sense := { l.sense with payout := e }, tension := { l.tension with tendDir := d, tendCount := c } }

theorem witness_TendingEntry :
    let meets := fun (s : State) (sample : BitVec 12) (T : Nat) (e : Int) =>
      untripped s sample && (s.line 0).control.state == .locked
        && (s.line 0).control.lockMark == some 0 && s.reportedNext 0 sample == T && (s.line 0).sense.payout == e
        && decide ((s.line 0).tension.tendCount ≤ 3)
    -- Hc 280, Hr 720, both dwells 3, Emax 2000: the band, a count, an entry, a blocked entry, in each direction
    meets (tended 0 none 0) 720#12 720 0 = true ∧ meets (tended 0 none 0) 280#12 280 0 = true
      ∧ meets (tended 0 (some .render) 1) 721#12 721 0 = true
      ∧ meets (tended 1999 (some .render) 2) 721#12 721 1999 = true
      ∧ meets (tended 2000 (some .render) 3) 721#12 721 2000 = true
      ∧ meets (tended 0 (some .render) 2) 1000#12 1000 0 = true
      ∧ meets (tended 0 (some .recover) 1) 279#12 279 0 = true
      ∧ meets (tended (-1999) (some .recover) 2) 279#12 279 (-1999) = true
      ∧ meets (tended (-2000) (some .recover) 2) 279#12 279 (-2000) = true := by decide

/-- A line in state `x` under the short profile with command record `r`, at P = `p`. -/
def running (x : LineState) (r : CommandRecord) (p : Int) : State :=
  let l := short (held x 500)
  with0
    { l with
      sense := { l.sense with payout := p }
      control := { l.control with record := r, slackWatch := if x = .slacking then 1 else 0 } }

theorem witness_TensionReportEffects :
    let meets := fun (x : LineState) (r : CommandRecord) (p : Int) (sample : BitVec 12) (T : Nat) =>
      let s := running x r p
      untripped s sample && (s.line 0).control.state == x
        && (s.line 0).control.record == r && s.reportedNext 0 sample == T
        && decide ((s.line 0).control.stallCounter + 1 < (s.line 0).applied.stallWindow)
    let slack : CommandRecord := { current := some .release, slackStart := some 0 }
    -- L 400, Hh 600, snag 200, slack 60, deploy length 6000, slack length 400, slack dwell 2
    meets .hauling {} 0 400#12 400 = true ∧ meets .hauling {} 0 399#12 399 = true
      ∧ meets .rendering {} 0 600#12 600 = true ∧ meets .rendering {} 0 601#12 601 = true
      ∧ meets .recovering {} 0 400#12 400 = true ∧ meets .recovering {} 0 399#12 399 = true
      ∧ meets .deploying {} 0 201#12 201 = true ∧ meets .rewinding {} 0 201#12 201 = true
      ∧ meets .deploying {} 6000 200#12 200 = true
      ∧ meets .slacking slack 400 60#12 60 = true ∧ meets .slacking slack 399 60#12 60 = true
      ∧ meets .slacking slack 400 61#12 61 = true
      ∧ meets .slipping {} 0 900#12 900 = true ∧ meets .slipping { returnTo := some .stall } 0 900#12 900 = true
      ∧ meets .slipping {} 0 901#12 901 = true ∧ meets .hauling {} 0 1000#12 1000 = true
      ∧ meets .deploying {} 5999 200#12 200 = true ∧ meets .rewinding {} 0 200#12 200 = true
      ∧ meets .held {} 0 1000#12 1000 = true ∧ meets .opening {} 0 50#12 50 = true
      ∧ meets .faulted {} 0 1000#12 1000 = true
      ∧ (let s := running .hauling {} 0
        let l := s.line 0
        let s := s.putLine 0 { l with control := { l.control with flags := Flag.warn.mask } }
        -- X 1100, trip dwell 2: WARN latched and T above X, the trip watch at 0
        untripped s 1210#12 = true ∧ s.reportedNext 0 1210#12 = 1210
          ∧ gives (.sampleEvent 0 1210#12 pinsClosed) s (fun t =>
            (t.line 0).control.state == .locked && (t.line 0).protection.tripWatch == 1) = true) := by
  decide

/-- A line in state `x` whose stall counter stands one short of its window, at P = `p`. -/
def stalling (x : LineState) (p : Int) : State :=
  let s := running x { current := some .release, slackStart := some 0 } p
  let l := s.line 0
  s.putLine 0 { l with control := { l.control with stallCounter := l.applied.stallWindow - 1 } }

/-- The close that brings the stall counter to its window, at a valid sample and at an invalid one. -/
theorem witness_TensionReportEffects_stall :
    let meets := fun (x : LineState) (p : Int) (sample : BitVec 12) (T : Nat) =>
      let s := stalling x p
      untripped s sample && (s.line 0).control.state == x
        && s.reportedNext 0 sample == T
        && decide ((s.line 0).applied.stallWindow ≤ (s.line 0).control.stallCounter + 1)
    let s := stalling .hauling 0
    meets .hauling 0 400#12 400 = true ∧ meets .hauling 0 399#12 399 = true ∧ meets .recovering 0 399#12 399 = true
      ∧ meets .rewinding 0 200#12 200 = true ∧ meets .slacking 0 61#12 61 = true
      ∧ meets .slacking 400 60#12 60 = true ∧ meets .slacking 399 60#12 60 = true ∧ meets .deploying 5999 200#12 200 = true
      ∧ meets .deploying 6000 200#12 200 = true ∧ meets .deploying 6000 201#12 201 = true
      ∧ s.running = true ∧ s.fitted 0 = true ∧ (s.line 0).profileStands = true
      ∧ (s.line 0).sense.settled pinsClosed = true ∧ (s.line 0).sense.invalidCount < 7 ∧ (4095#12).toNat = 4095
      ∧ gives (.sampleEvent 0 4095#12 pinsClosed) s (fun t => (t.line 0).control.cause == some .stall) = true := by
  decide

/-- The pins with both hook switches active, and with neither. -/
def pinsBoth : SwitchPins := { hookClosed := .low, hookOpen := .low, stowed := .high, driveFault := .high }
def pinsNone : SwitchPins := { hookClosed := .high, hookOpen := .high, stowed := .high, driveFault := .high }

theorem witness_HookPositionEffects :
    let meets := fun (x : LineState) (r : CommandRecord) (open' : Bool) (pins : SwitchPins) (after : HookPos) (s : State) =>
      let l0 := if open' then free x 30 else held x 30
      let l : Line :=
        { l0 with
          sense :=
            { l0.sense with
              hookClosed := turning (if open' then .inactive else .active)
              hookOpen := turning (if open' then .active else .inactive) }
          control := { l0.control with record := r } }
      let s := s.putLine 0 l
      s.running && s.fitted 0 && (s.line 0).profileStands && decide ((s.line 0).sense.invalidCount < 7)
        && ((s.line 0).sense.sampleSwitches pins).hook == after && after != (s.line 0).sense.hook
        && PinLevel.reading pins.driveFault == (s.line 0).sense.driveFault.accepted && profileTaken (s.line 0).applied
        && (s.line 0).control.state == x
    meets .engaging { current := some .engage, tripDeferred := true } true pinsClosed .closed manned = true
      ∧ meets .engaging { current := some .engage } true pinsClosed .closed
          { manned with berth := { manned.berth with stopped := true } } = true
      ∧ meets .engaging { current := some .engage } true pinsClosed .closed manned = true
      ∧ meets .engaging { current := some .engage } true pinsClosed .closed
          { manned with berth := { manned.berth with releaseAll := true, queue := [2] } } = true
      ∧ meets .engaging { current := some .engage } true pinsClosed .closed
          { manned with
            berth := { manned.berth with releaseAll := true, queue := [2, 0], stagger := some { interval := 25, elapsed := 3 } } } = true
      ∧ manned.berth.stagger = none ∧ manned.noSingle = true ∧ DueEvent.queueTake ∉ manned.due
      ∧ meets .opening { current := some .queue } false pinsOpen .opened manned = true
      ∧ meets .opening { current := some .release, thenRewind := true } false pinsOpen .opened manned = true
      ∧ meets .opening { current := some .release, thenRewind := true } false { pinsOpen with stowed := .low } .opened
          (manned.onLink .quay id) = true
      ∧ meets .stowed {} true pinsClosed .closed manned = true ∧ meets .rewinding {} true pinsBoth .invalid manned = true
      ∧ meets .opening {} false pinsBoth .invalid manned = true ∧ meets .stowed {} true pinsNone .moving manned = true
      ∧ meets .engaging {} true pinsNone .moving manned = true ∧ meets .opening {} false pinsNone .moving manned = true
      ∧ meets .slipping {} false pinsOpen .opened manned = true
      ∧ meets .slipping { returnTo := some .drive } false pinsOpen .opened manned = true
      ∧ meets .locked {} false pinsOpen .opened manned = true
      ∧ meets .faulted {} false pinsNone .moving manned = true ∧ meets .faulted {} true pinsNone .moving manned = true
      ∧ meets .deploying {} true pinsNone .moving manned = true ∧ meets .rewinding {} true pinsNone .moving manned = true
      ∧ (free .rewinding 30).control.stallCounter + 1 < (free .rewinding 30).applied.stallWindow
      ∧ (free .deploying 30).sense.payout < (free .deploying 30).applied.deployLength := by decide

/-- The stowed, the drive-fault and both inputs of line 0 in state `x` at their eighth sample at the other level. -/
theorem witness_StowedAndDriveReports :
    let at' := fun (x : LineState) (r : CommandRecord) =>
      let l := free x 30
      with0
        { l with
          sense :=
            { l.sense with stowed := turning .inactive, driveFault := turning .inactive, payout := 40, referenced := false }
          control := { l.control with record := r } }
    let meets := fun (x : LineState) (r : CommandRecord) (pins : SwitchPins) (arrives fails : Bool) =>
      let s := at' x r
      let sensed := (s.line 0).sense.sampleSwitches pins
      s.running && s.fitted 0 && (s.line 0).profileStands && decide ((s.line 0).sense.invalidCount < 7)
        && sensed.hook == (s.line 0).sense.hook && (s.line 0).control.state == x && (s.line 0).control.record == r
        && (sensed.stowed.accepted == .active && (s.line 0).sense.stowed.accepted != .active) == arrives
        && (sensed.driveFault.accepted == .active && (s.line 0).sense.driveFault.accepted != .active) == fails
    let stowed' : SwitchPins := { pinsOpen with stowed := .low }
    let fault' : SwitchPins := { pinsOpen with driveFault := .low }
    let both : SwitchPins := { pinsOpen with stowed := .low, driveFault := .low }
    meets .rewinding {} stowed' true false = true ∧ meets .rewinding {} both true true = true
      ∧ meets .deploying {} stowed' true false = true ∧ meets .starting {} stowed' true false = true
      ∧ meets .hauling {} fault' false true = true ∧ meets .slipping {} fault' false true = true
      ∧ meets .slipping { returnTo := some .stall } fault' false true = true
      ∧ meets .faulted {} fault' false true = true ∧ ((at' .faulted {}).line 0).control.hookTimer = none
      ∧ meets .starting {} fault' false true = true ∧ ((at' .starting {}).line 0).control.startingCount < 7
      ∧ gives (.sampleEvent 0 4095#12 stowed') (at' .rewinding {}) (fun t =>
          (t.line 0).control.state == .stowed && (t.line 0).sense.payout == 0 && (t.line 0).sense.referenced) = true
      ∧ gives (.sampleEvent 0 4095#12 both) (at' .rewinding {}) (fun t =>
          (t.line 0).control.cause == some .drive && (t.line 0).sense.payout == 0) = true := by decide

/-- A line with flag word `f` and its warn and trip watches at `w` and `v`, in state `x`. -/
def watched (x : LineState) (f : BitVec 10) (w v : Nat) : State :=
  let l := short (held x 950)
  with0
    { l with
      protection := { warnWatch := w, tripWatch := v, inhibit := false }
      control := { l.control with flags := f, cause := if x = .faulted then some .stall else none } }

theorem witness_WarnWatch :
    let meets := fun (s : State) (sample : BitVec 12) (T : Nat) =>
      s.running && s.fitted 0 && (s.line 0).profileStands && sampleValid sample && !(s.line 0).has .warn
        && decide ((s.line 0).protection.warnWatch < (s.line 0).applied.warnDwell) && s.reportedNext 0 sample == T
    -- W 900, warn dwell 3
    meets (watched .locked 0#10 2 0) 900#12 900 = true ∧ meets (watched .locked 0#10 1 0) 901#12 901 = true
      ∧ meets (watched .hauling 0#10 2 0) 901#12 901 = true
      ∧ ((watched .hauling 0#10 2 0).line 0).sense.settled pinsClosed = true
      ∧ (watched .hauling 0#10 2 0).noWatched = true ∧ (watched .hauling 0#10 2 0).inhibitsAgree
      ∧ gives (.sampleEvent 0 901#12 pinsClosed) (watched .hauling 0#10 2 0) (fun t => t.due.length == 7) = true :=
  ⟨by decide, by decide, by decide, by decide, by decide, by unfold State.inhibitsAgree; decide, by decide⟩

theorem witness_TripReport :
    let meets := fun (x : LineState) (v : Nat) (sample : BitVec 12) =>
      let s := watched x Flag.warn.mask 0 v
      s.plainSample 0 sample pinsClosed && profileTaken (s.line 0).applied && (s.line 0).has .warn
        && decide ((s.line 0).protection.tripWatch ≤ (s.line 0).applied.tripDwell)
        && s.reportedNext 0 sample == sample.toNat && (s.line 0).control.state == x
    let open' : State :=
      let s := watched .faulted Flag.warn.mask 0 1
      let f := free .deploying 950
      let l := s.line 0
      (s.putLine 0 { l with sense := f.sense }).putLine 1
        { l with sense := f.sense, control := { f.control with flags := Flag.warn.mask } }
    -- X 1100, trip dwell 2: at X, below the dwell, firing, standing, and each state of its own
    meets .held 2 1100#12 = true ∧ meets .slipping 1 1100#12 = true ∧ meets .held 0 1101#12 = true
      ∧ meets .held 1 1101#12 = true ∧ meets .held 2 1101#12 = true ∧ meets .faulted 1 1101#12 = true
      ∧ meets .engaging 1 1101#12 = true ∧ meets .opening 1 1101#12 = true ∧ meets .stowed 1 1101#12 = true
      ∧ meets .slipping 1 1101#12 = true ∧ meets .starting 1 1101#12 = true
      ∧ ((watched .faulted Flag.warn.mask 0 1).line 0).control.cause = some .stall
      ∧ ((watched .faulted Flag.warn.mask 0 1).line 0).sense.hook = .closed
      ∧ open'.plainSample 0 1101#12 pinsOpen = true ∧ (open'.line 0).control.state = .faulted
      ∧ (open'.line 0).sense.hook ≠ .closed ∧ (open'.line 1).sense.hook ≠ .closed
      ∧ (open'.line 1).control.state = .deploying ∧ open'.plainSample 1 1101#12 pinsOpen = true
      ∧ (open'.line 1).applied = shortProfile ∧ (open'.line 1).has .warn = true
      ∧ open'.reportedNext 1 1101#12 = 1101 ∧ (open'.line 1).protection.tripWatch = 1
      ∧ gives (.sampleEvent 0 1101#12 pinsOpen) open' (fun t =>
          (t.line 0).control.state == .faulted && (t.line 0).has .trip) = true := by decide

theorem witness_ProfileApplied :
    let meets := fun (x : LineState) (e : Int) =>
      let l := held x 500
      let s := with0 { l with sense := { l.sense with payout := e }, profileDue := true }
      s.running && s.fitted 0 && (s.line 0).profileDue && (s.line 0).sense.settled pinsClosed
        && decide ((s.line 0).sense.invalidCount < 7) && profileTaken (s.profile (s.setup 0).group)
        && decide ((s.line 0).control.stallCounter + 1 < (s.profile (s.setup 0).group).stallWindow)
        && (s.line 0).control.state == x && (s.line 0).control.lockMark == some 0
    meets .rendering 2000 = true ∧ meets .recovering (-2000) = true ∧ meets .recovering (-1999) = true
      ∧ meets .slacking 0 = true
      ∧ (let q := { defaultProfile with deploySpeed := 55 }
        let s := (with0 { free .deploying 30 with joined := some q }).putLine 1 { free .stowed 30 with joined := some q }
        s.running = true ∧ s.fitted 0 = true ∧ (s.line 0).sense.settled pinsOpen = true
          ∧ (s.line 0).sense.invalidCount < 7 ∧ (s.line 0).profileDue = false ∧ (s.line 0).joined = some q
          ∧ (s.line 0).control.stallCounter + 1 < q.stallWindow ∧ (s.line 0).sense.payout < q.deployLength
          ∧ (s.line 1).control.hookTimer = none
          ∧ gives (.sampleEvent 0 4095#12 pinsOpen) s (fun t => (t.line 0).control.drive == 55) = true) := by decide

/-- A RENDERING line whose write ends it at its allowance, one that goes on, and a HELD line at which the new trip
threshold is passed, each at a valid sample and with WARN latched or clear. -/
theorem witness_ProfileApplied_valid :
    let due := fun (x : LineState) (e : Int) (f : BitVec 10) =>
      let l := held x 500
      with0
        { l with
          sense := { l.sense with payout := e }, profileDue := true, control := { l.control with flags := f } }
    let meets := fun (s : State) =>
      s.running && s.fitted 0 && (s.line 0).profileDue && profileTaken (s.profile (s.setup 0).group)
        && (s.line 0).control.lockMark == some 0 && (s.line 0).tension.filtered == some 8000
    meets (due .rendering 2000 0#10) = true ∧ meets (due .rendering 1999 0#10) = true
      ∧ meets (due .recovering (-2000) 0#10) = true ∧ meets (due .held 0 Flag.warn.mask) = true
      ∧ ((due .rendering 2000 0#10).profile 0).allowance = 2000 ∧ (4094#12).toNat ≠ 4095
      ∧ ((due .held 0 Flag.warn.mask).line 0).has .warn = true
      ∧ ((due .held 0 0#10).line 0).has .warn = false
      ∧ gives (.sampleEvent 0 500#12 pinsClosed) (due .rendering 2000 0#10) (fun t =>
          (t.line 0).control.state == .locked && (t.line 0).has .allow) = true
      ∧ gives (.sampleEvent 0 4094#12 pinsClosed) (due .held 0 Flag.warn.mask) (fun t =>
          (t.line 0).protection.tripWatch == 1) = true := by decide

theorem witness_CountMovesPayout :
    let l := held .held 300
    let s := with0 { l with sense := { l.sense with payout := 65535 } }
    s.running = true ∧ s.fitted 0 = true ∧ (unfitted lineAtPowerOn).fitted 0 = false ∧ (s.setup 0).hand = .right
      ∧ (s.line 0).sense.payout - 1 ≤ 65535 ∧ 65535 < (s.line 0).sense.payout + 1 := by decide

theorem witness_CountReportEffects :
    let at' := fun (x : LineState) (p : Int) =>
      let l := held x 300
      with0 { l with sense := { l.sense with payout := p } }
    let meets := fun (x : LineState) (p p' : Int) =>
      (at' x p).running && (at' x p).fitted 0 && decide (-65535 ≤ p') && decide (p' ≤ 65535)
        && ((at' x p).line 0).control.state == x && ((at' x p).line 0).control.lockMark == some 0
        && ((at' x p).setup 0).capacity == 40000
    -- capacity 40000, Emax 2000
    meets .deploying 39999 40000 = true ∧ meets .rendering 39999 40000 = true ∧ meets .rendering 1999 2000 = true
      ∧ meets .recovering (-1999) (-2000) = true ∧ meets .recovering (-1998) (-1999) = true
      ∧ meets .hauling 0 (-1) = true ∧ meets .slacking 0 1 = true ∧ meets .rewinding 0 (-1) = true
      ∧ meets .locked 0 1 = true ∧ meets .slipping 39999 40000 = true ∧ meets .slipping 39998 39999 = true
      ∧ meets .rendering 1998 1999 = true
      ∧ gives (.countEvent 0 .aLeads) (at' .slipping 39999) (fun t => (t.line 0).control.cause == some .payoutEnd) = true
      ∧ ((at' .slipping 65535).line 0).sense.payout = 65535 ∧ ((at' .slacking (-65535)).line 0).sense.payout = -65535
      ∧ ((at' .rendering 65535).line 0).control.state = .rendering
      ∧ meets .stowed 0 1 = true ∧ meets .opened 0 1 = true ∧ meets .engaging 0 1 = true ∧ meets .opening 0 1 = true
      ∧ meets .faulted 0 1 = true
      ∧ (let f := fun x : LineState =>
          let l := held x 300
          with0
            { l with
              sense := { l.sense with payout := -65535 }, control := { l.control with lockMark := some (-65535) } }
        ((f .recovering).line 0).control.lockMark = some (-65535) ∧ ((f .recovering).line 0).sense.payout = -65535
          ∧ ((f .rendering).line 0).control.state = .rendering
          ∧ gives (.countEvent 0 .bLeads) (f .recovering) (fun t =>
              (t.line 0).control.state == .recovering && (t.line 0).has .limit) = true)
      ∧ gives (.countEvent 0 .bLeads) (at' .slacking (-65535)) (fun t =>
          (t.line 0).control.state == .slacking && (t.line 0).has .limit) = true := by decide

theorem witness_ExpiriesAndDerivation :
    let s := ((with0 (held .engaging 30)).putLine 1 (held .hauling 30)).putLine 2 lineAtPowerOn
    s.running = true
      ∧ ((s.line 0).control.hookTimer.isSome = true
          ↔ (s.line 0).control.state = .engaging ∨ (s.line 0).control.state = .opening)
      ∧ ((s.line 1).control.hookTimer.isSome = true
          ↔ (s.line 1).control.state = .engaging ∨ (s.line 1).control.state = .opening)
      ∧ (s.line 2).control.state = .starting := by decide

theorem witness_HandedEventsHaltLine :
    let s := { with0 (held .hauling 300) with due := [.halt 0, .stopOnset 0, .inhibitOnset 0, .inhibitLift 0] }
    s.running = true ∧ DueEvent.halt 0 ∈ s.due ∧ DueEvent.stopOnset 0 ∈ s.due ∧ DueEvent.inhibitOnset 0 ∈ s.due
      ∧ DueEvent.inhibitLift 0 ∈ s.due := by decide

/-! ### Witnesses: requests -/

/-- PANEL holds every group and QUAY waits behind it; line 0 has WARN latched, so that every haul inhibit is in force. -/
def warned : State :=
  let e : Entry := { station := .panel, single := false, watched := none }
  let l := lineAtPowerOn.setInhibit true
  { manned with
    records := Vector.replicate 4 { inService := [e], waiting := [{ e with station := .quay }] }
    lines := (Vector.replicate 8 l).set 0 { l with control := { l.control with flags := Flag.warn.mask } } }

theorem warned_inhibitsAgree : warned.inhibitsAgree := by unfold State.inhibitsAgree; decide

/-- A record in which every pending station stands behind a holder that outranks it, as a test. -/
def queued (s : State) (g : GroupNo) : Bool :=
  (s.record g).waiting.all fun b =>
    (s.record g).holder.any fun h =>
      rank s.table.settings.vesselLead h < rank s.table.settings.vesselLead b.station

theorem sound_of_queued {s : State}
    (h : ∀ g, (ranked s.table.settings.vesselLead (s.record g).inService
      ∧ ranked s.table.settings.vesselLead (s.record g).waiting)
      ∧ (∀ a ∈ (s.record g).inService, ∀ b ∈ (s.record g).waiting, a.station ≠ b.station)
      ∧ queued s g = true ∧ ∀ e ∈ (s.record g).entries, s.present e.station = true) : s.authoritySound := fun g => by
  obtain ⟨⟨h1, h2⟩, h3, h4, h5⟩ := h g
  refine ⟨h1, h2, h3, fun b hb => ?_, h5⟩
  have hq := List.all_eq_true.mp h4 b hb
  cases hr : (s.record g).holder with
  | none => simp [hr] at hq
  | some x => exact ⟨x, rfl, by simpa [hr] using hq⟩

theorem warned_authoritySound : warned.authoritySound := sound_of_queued (by unfold ranked; decide)

theorem warned_figuresBounded : warned.figuresBounded := fun n => by
  have h : ∀ m, (warned.line m).tension.filtered = none := by decide
  refine ⟨by revert n; decide, by revert n; decide, fun f hf => ?_, by revert n; decide⟩
  rw [h n] at hf
  cases hf

theorem warned_figuresValid : warned.figuresValid := by unfold State.figuresValid; decide

theorem witness_ClaimPlacesStation :
    warned.accepts .vessel = true ∧ warned.accepts .quay = true ∧ warned.accepts .panel = true
      ∧ groupMaskOk 0x0F#8 = true ∧ optionOk 1#8 = true ∧ warned.authoritySound :=
  ⟨by decide, by decide, by decide, by decide, by decide, warned_authoritySound⟩

theorem witness_YieldRemovesEntry :
    warned.accepts .panel = true ∧ groupMaskOk 0x0F#8 = true ∧ groupMaskOk 0#8 = true ∧ warned.holder 0 = some .panel
      ∧ warned.authoritySound
      ∧ gives (.yieldGroups .panel 0#8) warned (fun t =>
          t.holder 0 == some .quay && (t.record 0).waiting == [] && (t.link .vessel).groupMarks[(3 : GroupNo)]) = true :=
  ⟨by decide, by decide, by decide, by decide, warned_authoritySound, by decide⟩

theorem witness_QueryReportsRecords : warned.accepts .quay = true ∧ warned.authoritySound :=
  ⟨by decide, warned_authoritySound⟩

theorem witness_ReadLinesReply :
    warned.accepts .quay = true ∧ lineNoOk 7#8 = true ∧ countOk 8#8 = true ∧ warned.figuresBounded
      ∧ ((with0 (held .held 300)).line 0).control.lockMark = some 0 :=
  ⟨by decide, by decide, by decide, warned_figuresBounded, by decide⟩

theorem witness_ReadGroupAndSetupReplies : warned.accepts .quay = true ∧ warned.figuresValid :=
  ⟨by decide, warned_figuresValid⟩

theorem witness_ClearFlagsResult :
    warned.accepts .panel = true ∧ flagMaskOk 0x03FF#16 = true ∧ warned.inhibitsAgree
      ∧ gives (.clearFlags .panel 0x01#8 0x0001#16) warned (fun t =>
          !(t.line 0).has .warn && !(t.line 7).protection.inhibit && t.due.length == 8) = true :=
  ⟨by decide, by decide, warned_inhibitsAgree, by decide⟩

theorem witness_ClearStationResult : warned.accepts .quay = true ∧ indicatorMaskOk 0x03#8 = true := by decide

theorem witness_WriteProfileResult :
    warned.accepts .panel = true ∧ warned.holder 0 = some .panel ∧ (warned.link .panel).restartInd = false
      ∧ profileTaken defaultProfile = true ∧ profileTaken { defaultProfile with trip := 4095 } = false
      ∧ profileTaken { defaultProfile with slack := 0 } = false := by decide

theorem witness_WriteBerthResult :
    warned.accepts .panel = true ∧ warned.accepts .quay = true ∧ warned.inhibitsAgree ∧ warned.authoritySound
      ∧ (∀ n, warned.fitted n = true → warned.holder (warned.setup n).group = some .panel)
      ∧ ¬(∀ n, warned.fitted n = true → warned.holder (warned.setup n).group = some .quay)
      ∧ (200#8).toNat ≤ 200 ∧ 200 < (201#8).toNat
      ∧ (State.accepts (warned.onLink .panel fun k => { k with restartInd := true }) .panel) = true :=
  ⟨by decide, by decide, warned_inhibitsAgree, warned_authoritySound, by decide, by decide, by decide, by decide,
    by decide⟩

theorem witness_WriteLineSetupResult :
    let s := (served.putLine 0 (free .stowed 0)).putLine 1 ((lineAtPowerOn).enter .notFitted {})
    let s' := { s with table := { s.table with setups := s.table.setups.set 1 { defaultSetup 1 with fitted := false } } }
    let f := fieldsOfSetup (defaultSetup 0)
    s'.accepts .service = true ∧ (s'.link .service).restartInd = false ∧ s'.holder (s'.setup 0).group = some .service
      ∧ s'.table.storeState ≠ .saving ∧ (s'.line 0).control.state = .stowed ∧ (s'.setup 0).fitted = true
      ∧ setupTaken { f with fitted := 0#8, group := 3#8 } = true
      ∧ setupSpelled { f with fitted := 0#8, group := 3#8 } { defaultSetup 0 with fitted := false, group := 3 }
      ∧ (s'.line 1).control.state = .notFitted ∧ (s'.setup 1).fitted = false
      ∧ setupTaken f = true ∧ setupSpelled f (defaultSetup 0) ∧ setupTaken { f with rank := 8#8 } = false := by
  unfold setupSpelled
  decide

theorem witness_SaveSetupAndRestart :
    served.accepts .service = true ∧ (served.link .service).restartInd = false ∧ served.table.storeState ≠ .saving
      ∧ served.pendingRestart = [] ∧ served.figuresValid
      ∧ (State.running { served with table := { served.table with saveCopy := some erasedImage } }) = true
      ∧ manned.accepts .panel = true ∧ manned.accepts .quay = true ∧ manned.berth.queue = []
      ∧ manned.table.storeState ≠ .saving :=
  ⟨by decide, by decide, by decide, by decide, by unfold State.figuresValid; decide, by decide, by decide, by decide,
    by decide, by decide⟩

theorem witness_MalformedDiscarded :
    (Instr.claim .quay 0x10#8 0#8).sender = some .quay ∧ (Instr.claim .quay 0x10#8 0#8).bodyOk = false
      ∧ manned.running = true ∧ manned.present .quay = true
      ∧ (State.link (manned.onLink .quay fun k => { k with replySlot := some { kind := 0x12#8, body := [] } })
          .quay).replySlot ≠ none := by decide

theorem witness_RequestDecodesEncoded :
    (Instr.writeProfile .quay 3#8 defaultProfile).sender = some .quay
      ∧ (Instr.writeProfile .quay 3#8 defaultProfile).kind = some 0x50#8
      ∧ WellFormed (.writeProfile .quay 3#8 defaultProfile) = true
      ∧ decodeRequest .quay 0x50#8 (encodeBody (.writeProfile .quay 3#8 defaultProfile))
          = some (.writeProfile .quay 3#8 defaultProfile) := by decide

/-! ### Witnesses: berth and links -/

theorem witness_StanceChangeEffects :
    let s := { with0 (held .locked 500) with due := [.stance .panel .idle .releaseAll, .halt 3] }
    s.running = true ∧ s.due = .stance .panel .idle .releaseAll :: [.halt 3]
      ∧ ({ s with due := [.stance .quay .idle .stop] } : State).due = .stance .quay .idle .stop :: [] := by decide

theorem witness_QueueTakeAndStagger :
    let s := { with0 (held .locked 500) with
      due := [.queueTake], berth := { manned.berth with queue := [0, 6] } }
    s.running = true ∧ DueEvent.queueTake ∈ s.due ∧ s.berth.queue = 0 :: [6] ∧ s.berth.stagger = none ∧ s.noSingle = true
      ∧ s.table.settings.stagger ≠ 0
      ∧ ({ s.berth with stagger := some { interval := 25, elapsed := 24 } } : BerthAction).stagger
          = some { interval := 25, elapsed := 24 } := by decide

/-- A good slot of a station that offers a byte, and one that offers none; both show stance IDLE. -/
def offering : BitVec 32 := goodSlot 0b0110#4 5#8 true false
def quiet : BitVec 32 := goodSlot 0b0110#4 0#8 false false

set_option maxRecDepth 4000 in
theorem witness_PresenceGain :
    let s := State.reset.onLink .quay fun k => { k with goodCount := 3 }
    s.running = true ∧ (s.link .quay).presence = .absent ∧ 3 ≤ (s.link .quay).goodCount
      ∧ (s.link .vessel).presence = .absent ∧ (s.link .vessel).goodCount < 3 ∧ slotGood offering = true
      ∧ slotGood 0#32 = false
      ∧ gives (.frameEvent .quay offering) s (fun t =>
          (t.link .quay).presence == .present && (t.link .quay).goodCount == 4) = true := by decide

theorem witness_BadSlotAndGapAbort :
    let s := manned.onLink .quay fun k => { k with badCount := 62, incoming := .length 0x10#8, gap := 31 }
    s.running = true ∧ (s.link .quay).presence = .present ∧ slotGood 0#32 = false ∧ (s.link .quay).badCount < 63
      ∧ (s.link .quay).incoming ≠ .kind := by decide

theorem manned_authoritySound : manned.authoritySound := sound_of_queued (by unfold ranked; decide)

theorem witness_PresenceLossEffects :
    let s := manned.onLink .panel fun k => { k with badCount := 63, stance := .stop }
    s.running = true ∧ (s.link .panel).presence = .present ∧ s.authoritySound ∧ slotGood 0#32 = false
      ∧ (s.link .panel).badCount = 63 ∧ s.holder 0 = some .panel
      ∧ gives (.frameEvent .panel 0#32) s (fun t =>
          (t.link .panel).presence == .absent && (t.link .panel).badCount == 64) = true :=
  ⟨by decide, by decide, sound_of_queued (by unfold ranked; decide), by decide, by decide, by decide, by decide⟩

set_option maxRecDepth 4000 in
theorem witness_GoodSlotTaken :
    let s := manned.onLink .quay fun k => { k with recv := .oneLook 5#8, candidate := some 0b0110#4, stance := .stop }
    s.running = true ∧ (s.link .quay).presence = .present ∧ slotGood offering = true ∧ .quay ∉ s.pendingRestart
      ∧ (s.link .quay).incoming = .kind ∧ (s.link .quay).recv = .oneLook (slotByte offering)
      ∧ slotOffer offering = true ∧ stanceOf (slotStance offering) = some .idle
      ∧ (s.link .quay).candidate = some (slotStance offering) ∧ Stance.idle ≠ (s.link .quay).stance
      ∧ slotGood (goodSlot 0b0011#4 0#8 false false) = true
      ∧ stanceOf (slotStance (goodSlot 0b0011#4 0#8 false false)) = none
      ∧ (let s := manned.onLink .quay fun k => { k with incoming := .length 0x10#8, gap := 31 }
        (s.link .quay).incoming ≠ .kind ∧ 31 ≤ (s.link .quay).gap ∧ (s.link .quay).recv ≠ .oneLook (slotByte quiet)
          ∧ gives (.frameEvent .quay quiet) s (fun t =>
              (t.link .quay).incoming == .kind && (t.link .quay).linkError) = true) := by decide

set_option maxRecDepth 4000 in
/-- Slots at which a length or an inner body byte is latched, and at which a stance is validated meanwhile. -/
theorem witness_GoodSlotTaken_latched :
    let s := fun next : Incoming => manned.onLink .quay fun k =>
      { k with recv := .oneLook 5#8, candidate := some 0b1001#4, incoming := next }
    let slot := goodSlot 0b1001#4 5#8 true false
    let long := goodSlot 0b1001#4 41#8 true false
    slotGood slot = true ∧ slotGood long = true ∧ ((s (.length 0x10#8)).link .quay).completes slot = false
      ∧ ((s (.body 0x10#8 2 2 [])).link .quay).completes slot = false
      ∧ (((s (.length 0x10#8)).onLink .quay fun k => { k with recv := .oneLook 41#8 }).link .quay).completes long = false
      ∧ gives (.frameEvent .quay slot) (s (.body 0x10#8 2 2 [])) (fun t =>
          (t.link .quay).stance == .stop && (t.link .quay).incoming == .body 0x10#8 2 1 [5#8]
            && t.due == [.stance .quay .idle .stop]) = true := by
  decide

/-- VESSEL's byte `b` at its second look, with the message framed as far as `next`. -/
def framing (next : Incoming) (b : Byte) : State :=
  manned.onLink .vessel fun k => { k with recv := .oneLook b, incoming := next, send := .awaitingClear }

/-- Where no reply is in transfer but in an occupied reply slot, station by station, every reply in transfer is held. -/
theorem repliesHeld_of {s : State}
    (h : ∀ st ∈ allStations, ((s.link st).outgoing.all fun o => !o.isReply || (s.link st).replySlot.isSome) = true) :
    s.repliesHeld := by
  intro st o ho hr
  have := h st (by cases st <;> decide)
  rw [ho] at this
  simpa [hr, Option.ne_none_iff_isSome] using this

set_option maxRecDepth 4000 in
theorem framing_repliesHeld (next : Incoming) (b : Byte) : (framing next b).repliesHeld :=
  repliesHeld_of fun st hst => by
    fin_cases hst <;> rfl

set_option maxRecDepth 4000 in
/-- VESSEL's HOLD of line 1, whose last body byte is 02h, and its QUERY, whose length byte is 0. -/
theorem witness_MessageFraming :
    let meets := fun (next : Incoming) (b : Byte) =>
      let s := framing next b
      let slot := goodSlot 0b0110#4 b true true
      s.running && (s.link .vessel).presence == .present && slotGood slot && slotOffer slot && slotTake slot
        && (s.link .vessel).send == .awaitingClear && (s.link .vessel).recv == .oneLook (slotByte slot)
        && stanceOf (slotStance slot) == some (s.link .vessel).stance && (s.link .vessel).incoming == next
    meets .kind 0x23#8 = true ∧ meets (.length 0x23#8) 41#8 = true ∧ meets (.length 0x23#8) 40#8 = true
      ∧ meets (.length 0x23#8) 1#8 = true ∧ meets (.length 0x12#8) 0#8 = true ∧ meets (.length 0x23#8) 0#8 = true
      ∧ meets (.body 0x25#8 2 2 []) 2#8 = true ∧ meets (.body 0x23#8 1 1 []) 2#8 = true
      ∧ meets (.length 0#8) 0#8 = true
      ∧ (Instr.hold .vessel 2#8).sender = some .vessel ∧ (Instr.hold .vessel 2#8).kind = some 0x23#8
      ∧ WellFormed (.hold .vessel 2#8) = true ∧ encodeBody (.hold .vessel 2#8) = [] ++ [2#8]
      ∧ (Instr.query .vessel).kind = some 0x12#8 ∧ encodeBody (.query .vessel) = []
      -- a CLAIM whose option byte is 2 fails R161, and is discarded at its last byte
      ∧ (Instr.claim .vessel 1#8 2#8).fieldsFit = true ∧ (Instr.claim .vessel 1#8 2#8).bodyOk = false
      ∧ meets (.body 0x10#8 2 1 [1#8]) 2#8 = true
      ∧ gives (.frameEvent .vessel (goodSlot 0b0110#4 2#8 true true)) (framing (.body 0x10#8 2 1 [1#8]) 2#8) (fun t =>
          (t.link .vessel).linkError && (t.link .vessel).replySlot == none && t.records == manned.records) = true := by
  decide

set_option maxRecDepth 4000 in
/-- VESSEL's QUERY completed while its send lane is IDLE with a notice pending, while a byte is offered and taken, and while
the last byte of a reply is: the reply waits for a later slot, stands beside the message in transfer, and is not made. -/
theorem witness_MessageFraming_lanes :
    let s := fun (lane : SendLane) (o : Option Outgoing) (r : Option Reply) =>
      (framing (.length 0x12#8) 0#8).onLink .vessel fun k =>
        { k with send := lane, outgoing := o, replySlot := r, lineMarks := k.lineMarks.set 7 true }
    let slot := fun take => goodSlot 0b1001#4 0#8 true take
    let out := fun isReply next => some { bytes := [1#8, 2#8], next := next, isReply := isReply }
    let idle := s .idle none none
    let held : Reply := { kind := 0x12#8, body := [] }
    let last := s (.offering 2#8) (out true 2) (some held)
    slotGood (slot true) = true ∧ slotGood (slot false) = true ∧ slotOffer (slot false) = true
      ∧ (idle.link .vessel).completes (slot false) = true ∧ .vessel ∉ idle.pendingRestart
      ∧ (idle.link .vessel).recv = .oneLook (slotByte (slot false))
      ∧ gives (.frameEvent .vessel (slot false)) idle (fun t =>
          (t.link .vessel).send == .idle && (t.link .vessel).replySlot.isSome && (t.link .vessel).lineMarks[7]
            && gives (.frameEvent .vessel quiet) t (fun u => match (u.link .vessel).outgoing with
                | some o => o.isReply
                | none => false)) = true
      ∧ gives (.frameEvent .vessel (slot true)) (s (.offering 1#8) (out false 1) none) (fun t =>
          (t.link .vessel).send == .awaitingClear && (t.link .vessel).replySlot.isSome) = true
      ∧ gives (.frameEvent .vessel (slot true)) last (fun t =>
          (t.link .vessel).replySlot == none && (t.link .vessel).linkError) = true := by
  decide

set_option maxRecDepth 4000 in
/-- The last of these slots ends a reply, which is held in its slot, and no other does. -/
theorem witness_MessageFraming_ends :
    let k := { manned.link .vessel with
      send := .offering 2#8, outgoing := some { bytes := [1#8, 2#8], next := 2, isReply := true } }
    k.endsReply (goodSlot 0b1001#4 0#8 true true) ∧ ¬k.endsReply (goodSlot 0b1001#4 0#8 true false)
      ∧ (manned.putLink .vessel { k with replySlot := some { kind := 0x12#8, body := [] } }).repliesHeld :=
  ⟨⟨by decide, ⟨2#8, rfl⟩, ⟨_, rfl, rfl, by decide⟩⟩, fun h => absurd h.1 (by decide),
    repliesHeld_of (by decide)⟩

set_option maxRecDepth 4000 in
theorem witness_SendLaneSteps :
    let sending := fun (lane : SendLane) (o : Option Outgoing) =>
      manned.onLink .quay fun k => { k with send := lane, outgoing := o }
    let s := sending (.offering 1#8) (some { bytes := [1#8, 2#8], next := 1, isReply := false })
    let take := goodSlot 0b0110#4 0#8 false true
    s.running = true ∧ (s.link .quay).presence = .present ∧ slotGood take = true ∧ slotOffer take = false
      ∧ .quay ∉ s.pendingRestart ∧ slotTake take = true ∧ slotGood quiet = true ∧ slotOffer quiet = false
      ∧ slotTake quiet = false ∧ 1 < [1#8, 2#8].length ∧ [1#8, 2#8].length ≤ 2 ∧ [1#8, 2#8][1]? = some 2#8
      ∧ ((sending (.offering 2#8) (some { bytes := [1#8, 2#8], next := 2, isReply := true })).link .quay).send
          = .offering 2#8
      ∧ ((sending .awaitingClear (some { bytes := [1#8, 2#8], next := 1, isReply := true })).link .quay).send
          = .awaitingClear
      ∧ ((sending .awaitingClear none).link .quay).outgoing = none := by decide

set_option maxRecDepth 4000 in
/-- The RESTART reply of QUAY in the pending restart, its second byte offered: its take is no restart. -/
theorem witness_SendLaneSteps_reply :
    let s := { manned.onLink .quay fun k =>
      { k with
        send := .offering 2#8, outgoing := some { bytes := [1#8, 2#8, 3#8], next := 2, isReply := true } } with
      pendingRestart := [.quay] }
    let take := goodSlot 0b0110#4 0#8 false true
    .quay ∈ s.pendingRestart ∧ slotGood take = true ∧ slotTake take = true ∧ slotOffer take = false
      ∧ (s.link .quay).outgoing = some { bytes := [1#8, 2#8, 3#8], next := 2, isReply := true }
      ∧ ¬[1#8, 2#8, 3#8].length ≤ 2
      ∧ gives (.frameEvent .quay take) s (fun t =>
          (t.link .quay).send == .awaitingClear && t.pendingRestart == [.quay] && t.records == s.records) = true := by
  decide

set_option maxRecDepth 4000 in
/-- Slots that offer a byte and complete no message: a first look, a kind latched, a length latched. -/
theorem witness_SendLaneSteps_offered :
    let s := fun next : Incoming => manned.onLink .quay fun k =>
      { k with
        recv := .oneLook 5#8, incoming := next, send := .offering 1#8
        outgoing := some { bytes := [1#8, 2#8], next := 1, isReply := false } }
    let slot := goodSlot 0b0110#4 5#8 true true
    slotGood slot = true ∧ slotOffer slot = true ∧ (manned.link .quay).completes slot = false
      ∧ ((s .kind).link .quay).completes slot = false ∧ ((s (.length 0x10#8)).link .quay).completes slot = false
      ∧ ((s (.body 0x10#8 2 1 [1#8])).link .quay).completes slot = true
      ∧ gives (.frameEvent .quay slot) (s .kind) (fun t =>
          (t.link .quay).send == .awaitingClear && (t.link .quay).incoming == .length 5#8) = true := by
  decide

set_option maxRecDepth 4000 in
theorem witness_TransferBegins :
    let s := manned.onLink .quay fun k => { k with replySlot := some { kind := 0x12#8, body := [1#8] } }
    let g := manned.onLink .quay fun k => { k with groupMarks := k.groupMarks.set 2 true }
    let l := manned.onLink .quay fun k => { k with lineMarks := k.lineMarks.set 7 true }
    s.running = true ∧ (s.link .quay).presence = .present ∧ slotGood quiet = true ∧ slotOffer quiet = false
      ∧ (s.link .quay).send = .idle ∧ (s.link .quay).completes quiet = false
      ∧ (s.link .quay).completes (goodSlot 0b0011#4 5#8 true false) = false
      ∧ (s.link .quay).replySlot = some { kind := 0x12#8, body := [1#8] }
      ∧ (g.link .quay).replySlot = none ∧ (g.link .quay).groupMarks[(2 : GroupNo)] = true
      ∧ (∀ h : GroupNo, h < 2 → (g.link .quay).groupMarks[h] = false)
      ∧ (l.link .quay).replySlot = none ∧ (∀ h : GroupNo, (l.link .quay).groupMarks[h] = false)
      ∧ (l.link .quay).lineMarks[(7 : LineNo)] = true ∧ (∀ m : LineNo, m < 7 → (l.link .quay).lineMarks[m] = false)
      ∧ (∀ n : LineNo, (manned.link .quay).lineMarks[n] = false) := by decide

set_option maxRecDepth 4000 in
/-- A message completed and discarded at an IDLE send lane lets a notice begin; one that is answered does not. -/
theorem witness_TransferBegins_completes :
    let s := fun kind => manned.onLink .quay fun k =>
      { k with recv := .oneLook 0#8, incoming := .length kind, lineMarks := k.lineMarks.set 7 true }
    let slot := goodSlot 0b0110#4 0#8 true false
    slotGood slot = true ∧ ((s 0x13#8).link .quay).completes slot = true ∧ ((s 0x13#8).link .quay).send = .idle
      ∧ gives (.frameEvent .quay slot) (s 0x13#8) (fun t =>
          (t.link .quay).replySlot == none && (t.link .quay).send != .idle) = true
      ∧ gives (.frameEvent .quay slot) (s 0x12#8) (fun t =>
          (t.link .quay).replySlot != none && (t.link .quay).send == .idle) = true := by
  decide

theorem witness_DownstreamSlotComposed : manned.running = true := by decide

/-! ### Witnesses: power, reset, steps and invariants -/

/-- A hauling line shows its direction lead high, and keeps it through an assertion of the reset input. -/
theorem witness_PowerOnValues :
    manned.powered = true ∧ (((with0 (held .hauling 300)).pins 0).direction) = .high
      ∧ gives .resetInputAssert (with0 (held .hauling 300)) (fun t =>
          (t.pins 0).direction == .high && (t.pins 0).applyLead && t.linkLeads.linkClock == .heldLow) = true := by
  decide

theorem witness_SetupsLoadedAndPowerLoss :
    let s := { manned with
      resetAsserted := true, table := { manned.table with store := imageOfSetups defaultSetups } }
    s.table.saveCopy = none ∧ s.powered = true ∧ s.resetAsserted = true
      ∧ setupsOfImage s.table.store = some defaultSetups
      ∧ s.table.store.check = Config.checkWord s.table.store.setups
      ∧ setupsOfImage erasedImage = none
      ∧ (let saving := { s with table := { s.table with saveCopy := some (imageOfSetups defaultSetups) } }
        saving.table.saveCopy = some (imageOfSetups defaultSetups) ∧ saving.table.saveCopy ≠ none
          ∧ saving.powered = true) :=
  ⟨by decide, by decide, by decide, by decide, rfl, by decide, rfl, by simp, by decide⟩

/-- R111: an image with a field out of range is one that an abandoned save can leave, over a store that passes. -/
theorem test_abandoned_partly :
    abandonedImage (imageOfSetups defaultSetups) (imageOfSetups defaultSetups) erasedImage = erasedImage :=
  abandonedImage_self (.inr (.inr ((checkedSetups_eq_none _).mpr (.inl (by decide)))))

/-- R111: an image that is neither the old one nor the one being written does not pass, be its setups in range. -/
theorem test_abandoned_third_fails :
    checkedSetups (abandonedImage erasedImage erasedImage (imageOfSetups defaultSetups)) = none := by
  have erased : checkedSetups erasedImage = none := (checkedSetups_eq_none _).mpr (.inl (by decide))
  rcases abandonedImage_cases erasedImage erasedImage (imageOfSetups defaultSetups) with h | h | h
  · rw [h]; exact erased
  · rw [h]; exact erased
  · exact h

theorem witness_LeadsShowDemands :
    warned.demandsAgree ∧ profileTaken (warned.line 0).applied = true
      ∧ (with0 (held .hauling 300)).demandsAgree ∧ ((with0 (held .hauling 300)).pins 0).direction = .high
      ∧ (with0 (free .deploying 30)).demandsAgree ∧ ((with0 (free .deploying 30)).pins 0).direction = .low :=
  ⟨by unfold State.demandsAgree; decide, by decide, by unfold State.demandsAgree; decide, by decide,
    by unfold State.demandsAgree; decide, by decide⟩

/-- A pending restart over a store that holds a valid image; over the erased store of `manned` it fails its ranges. -/
theorem witness_RestartValues_store :
    let s := { manned with
      pendingRestart := [.panel], table := { manned.table with store := imageOfSetups defaultSetups } }
    s.running = true ∧ .panel ∈ s.pendingRestart ∧ setupsOfImage s.table.store = some defaultSetups
      ∧ s.table.store.check = Config.checkWord s.table.store.setups ∧ setupsOfImage manned.table.store = none :=
  ⟨by decide, by decide, by decide, rfl, by decide⟩

set_option maxRecDepth 4000 in
theorem witness_RestartValues :
    let s := { with0 (held .locked 500) with pendingRestart := [.panel] }
    let r := s.onLink .panel fun k =>
      { k with send := .offering 1#8, outgoing := some { bytes := [0#8, 0x60#8, 1#8, 1#8], next := 4, isReply := true } }
    let slot := goodSlot 0b0110#4 0#8 false true
    s.running = true ∧ .panel ∈ s.pendingRestart ∧ (s.line 0).control.lockMark = some 0
      ∧ r.running = true ∧ .panel ∈ r.pendingRestart ∧ (r.link .panel).presence = .present
      ∧ slotGood slot = true ∧ (r.link .panel).completes slot = false
      ∧ (r.link .panel).endsReply slot :=
  ⟨by decide, by decide, by decide, by decide, by decide, by decide, by decide, by decide,
    ⟨by decide, ⟨1#8, rfl⟩, ⟨_, rfl, rfl, by decide⟩⟩⟩

set_option maxRecDepth 4000 in
/-- The same slot with a byte offered: one that completes no message, and the last of a QUERY while the reply is in its slot. -/
theorem witness_RestartValues_offered :
    let r := { manned with pendingRestart := [.panel] }.onLink .panel fun k =>
      { k with
        send := .offering 1#8, outgoing := some { bytes := [0#8, 0x60#8, 1#8, 1#8], next := 4, isReply := true }
        replySlot := some { kind := 0x60#8, body := [1#8] } }
    let q := r.onLink .panel fun k => { k with recv := .oneLook 0#8, incoming := .length 0x12#8 }
    let slot := goodSlot 0b0110#4 0#8 true true
    slotGood slot = true ∧ slotOffer slot = true ∧ (r.link .panel).completes slot = false
      ∧ (q.link .panel).completes slot = true ∧ (q.link .panel).replySlot ≠ none
      ∧ gives (.frameEvent .panel slot) q (fun t =>
          t.pendingRestart == [] && (t.link .panel).restartInd && (t.link .panel).replySlot == none) = true := by
  decide

/-- An ENGAGING line whose hook timer stands one sample short of its time, and past it. -/
theorem witness_StepRunsFrontCommand :
    let at' := fun k =>
      let l := free .engaging 30
      with0 { l with control := { l.control with hookTimer := some { limit := 100, elapsed := k } } }
    let staggered := fun k => { manned with berth := { manned.berth with stagger := some { interval := 25, elapsed := k } } }
    (at' 99).running = true ∧ (at' 99).fitted 0 = true ∧ ((at' 99).line 0).sense.settled pinsOpen = true
      ∧ ((at' 99).line 0).sense.invalidCount < 7 ∧ (at' 99).pending = [] ∧ (at' 99).due = []
      ∧ ((at' 100).line 0).control.hookTimer = some { limit := 100, elapsed := 100 }
      ∧ (match step (at' 100) with | .next t => (t.line 0).control.cause == some .hook | _ => false) = true
      ∧ (staggered 23).pending = [] ∧ (staggered 23).due = [] ∧ (staggered 23).running = true
      ∧ (∀ n, ((staggered 24).line n).control.hookTimer = none)
      ∧ (match step (staggered 24) with | .next t => t.berth.stagger == none | _ => false) = true := by decide

theorem witness_NothingHappensInReset :
    State.running { manned with resetAsserted := true } = false
      ∧ Instr.queueTake ∉ [Instr.powerOn, .resetInputAssert, .resetInputRelease, .powerLoss] := by decide

/-- `warned` with a sample of line 0 and PANEL's HOLD waiting. -/
def waiting : State := { warned with pending := [.sampleEvent 0 40#12 pinsClosed, .hold .panel 0xFF#8] }

theorem waiting_steps : ∃ t, step waiting = .next t := ⟨_, rfl⟩

theorem witness_DemandsFollowState : waiting.demandsAgree ∧ ∃ t, step waiting = .next t :=
  ⟨by unfold State.demandsAgree; decide, waiting_steps⟩

theorem witness_RecordsStayTidy : waiting.recordsTidy ∧ ∃ t, step waiting = .next t :=
  ⟨by unfold State.recordsTidy Control.tidy; decide, waiting_steps⟩

theorem witness_FiguresStayBounded : waiting.figuresBounded ∧ ∃ t, step waiting = .next t :=
  ⟨warned_figuresBounded, waiting_steps⟩

theorem witness_InhibitsFollowFlags : waiting.heldInReset ∧ waiting.inhibitsAgree ∧ ∃ t, step waiting = .next t :=
  ⟨by unfold State.heldInReset; decide, warned_inhibitsAgree, waiting_steps⟩

theorem witness_AuthorityStaysSound : waiting.authoritySound ∧ ∃ t, step waiting = .next t :=
  ⟨warned_authoritySound, waiting_steps⟩

theorem witness_BerthActionStaysSound :
    waiting.queueSound ∧ waiting.stoppedAgrees ∧ waiting.repliesHeld ∧ ∃ t, step waiting = .next t :=
  ⟨by unfold State.queueSound; decide, fun _ => ⟨fun h => absurd h (by decide), fun ⟨st, _, h⟩ => absurd h (by
      cases st <;> decide)⟩, repliesHeld_of (by decide), waiting_steps⟩

theorem witness_TableStaysValid : waiting.figuresValid ∧ waiting.saveSound ∧ ∃ t, step waiting = .next t :=
  ⟨warned_figuresValid, by unfold State.saveSound; decide, waiting_steps⟩

end Sys2Proof.Tests
end

/-! PROOFS. Each switch input of a fitted line is debounced on its own (R5, R6, R7): settles O10. -/

namespace Sys2Proof.Machine

/-! ### One switch input and the accepted hook position -/

/-- A known position stands while it is read (R5). -/
theorem Switch.sample_same (eighth : Bool) {w : Switch} (hw : w.accepted ≠ .unknown) :
    w.sample eighth w.accepted = { accepted := w.accepted, run := 0 } := by
  simp [Switch.sample, hw]

/-- A known position stands through a run of samples at the other level shorter than eight (R5). -/
theorem Switch.sample_short_run (eighth : Bool) {reading : Accepted} {w : Switch} (hw : w.accepted ≠ .unknown)
    (hr : reading ≠ w.accepted) (hrun : w.run < 7) :
    w.sample eighth reading = { accepted := w.accepted, run := w.run + 1 } := by
  have hshort : ¬8 ≤ w.run + 1 := by omega
  rw [Switch.sample, if_neg hw, if_neg hr, if_neg hshort]

/-- The eighth consecutive sample at the other level makes that level the accepted position (R5). -/
theorem Switch.sample_eighth_of_run (eighth : Bool) {reading : Accepted} {w : Switch} (hw : w.accepted ≠ .unknown)
    (hr : reading ≠ w.accepted) (hrun : w.run = 7) :
    w.sample eighth reading = { accepted := reading, run := 0 } := by
  have hfull : 8 ≤ w.run + 1 := by omega
  rw [Switch.sample, if_neg hw, if_neg hr, if_pos hfull]

/-- An unknown position is established at the eighth sample event after a reset or fitting alone (R6). -/
theorem Switch.sample_unknown (eighth : Bool) (reading : Accepted) {w : Switch} (hw : w.accepted = .unknown) :
    w.sample eighth reading = { accepted := if eighth then reading else .unknown, run := 0 } := by
  cases eighth <;> simp [Switch.sample, hw]

/-! ### What a line's switches hold, apart from the rest of the Line Sense Unit -/

/-- The sense items of a line with those that are not of its switches left out: equal for two lines exactly where their
switch inputs, accepted hook position and sample counts agree. -/
def Line.switches (l : Line) : Sense :=
  { l.sense with payout := 0, referenced := false, invalidCount := 0, heaving := false }

theorem Line.switches_eq_iff (a b : Line) :
    a.switches = b.switches ↔
      a.sense.hookClosed = b.sense.hookClosed ∧ a.sense.hookOpen = b.sense.hookOpen ∧ a.sense.stowed = b.sense.stowed
        ∧ a.sense.driveFault = b.sense.driveFault ∧ a.sense.hook = b.sense.hook
        ∧ a.sense.samples = b.sense.samples := by
  simp [Line.switches]

/-- Only the sense items of a line bear on its switches. -/
@[simp] theorem Line.switches_mk_sense (l : Line) (e : Tension) (q : Protection) (c : Control) (p : Profile) (due : Bool)
    (joined : Option Profile) : Line.switches ⟨l.sense, e, q, c, p, due, joined⟩ = l.switches := rfl

@[simp] theorem Line.switches_ite (c : Prop) [Decidable c] (a b : Line) :
    (if c then a else b).switches = if c then a.switches else b.switches :=
  apply_ite Line.switches c a b

/-! ### No operation on a line moves its switches -/

@[simp] theorem Line.advanceHookTimer_switches (l : Line) : l.advanceHookTimer.switches = l.switches := rfl
@[simp] theorem Line.setDrive_switches (d : Int) (l : Line) : (l.setDrive d).switches = l.switches := rfl
@[simp] theorem Line.zeroTending_switches (l : Line) : l.zeroTending.switches = l.switches := rfl
@[simp] theorem Line.latch_switches (f : Flag) (l : Line) : (l.latch f).switches = l.switches := rfl
@[simp] theorem Line.setMark_switches (l : Line) : l.setMark.switches = l.switches := rfl
@[simp] theorem Line.reference_switches (l : Line) : l.reference.switches = l.switches := rfl
@[simp] theorem Line.setInhibit_switches (v : Bool) (l : Line) : (l.setInhibit v).switches = l.switches := rfl
@[simp] theorem Line.setWatches_switches (warn trip : Nat) (l : Line) :
    (l.setWatches warn trip).switches = l.switches := rfl

@[simp] theorem Line.enter_switches (x : LineState) (r : CommandRecord) (l : Line) :
    (l.enter x r).switches = l.switches := by
  unfold Line.enter
  split <;> rfl

@[simp] theorem Line.enterFaulted_switches (c : Option FaultCause) (l : Line) :
    (l.enterFaulted c).switches = l.switches :=
  Line.enter_switches .faulted {} l

@[simp] theorem Line.fault_switches (c : FaultCause) (l : Line) : (l.fault c).switches = l.switches := by
  unfold Line.fault
  split_ifs <;> simp

@[simp] theorem Line.slip_switches (l : Line) : l.slip.switches = l.switches := Line.enter_switches ..

@[simp] theorem Line.goRewind_switches (r : CommandRecord) (l : Line) : (l.goRewind r).switches = l.switches := by
  unfold Line.goRewind
  split <;> simp

@[simp] theorem Line.derive_switches (fitted : Bool) (l : Line) : (l.derive fitted).switches = l.switches := by
  unfold Line.derive
  split_ifs <;> simp

/-! ### Reports -/

@[simp] theorem Line.engagingComplete_switches (b : BerthAction) (l : Line) :
    (l.engagingComplete b).switches = l.switches := by
  unfold Line.engagingComplete
  split_ifs <;> simp

@[simp] theorem Line.openingComplete_switches (b : BerthAction) (l : Line) :
    (l.openingComplete b).switches = l.switches := by
  unfold Line.openingComplete
  split <;> simp

@[simp] theorem Line.hookReport_switches (b : BerthAction) (old new : HookPos) (l : Line) :
    (l.hookReport b old new).switches = l.switches := by
  unfold Line.hookReport
  split <;> simp

@[simp] theorem Line.stowedReport_switches (l : Line) : l.stowedReport.switches = l.switches := by
  unfold Line.stowedReport
  split <;> simp

@[simp] theorem Line.driveFaultReport_switches (l : Line) : l.driveFaultReport.switches = l.switches := by
  unfold Line.driveFaultReport
  split <;> simp

@[simp] theorem Line.sensorFaultReport_switches (l : Line) : l.sensorFaultReport.switches = l.switches := by
  unfold Line.sensorFaultReport
  split <;> simp

@[simp] theorem Line.renderEntry_switches (fired : Bool) (l : Line) : (l.renderEntry fired).switches = l.switches := by
  unfold Line.renderEntry
  split_ifs <;> simp

@[simp] theorem Line.recoverEntry_switches (stopped fired : Bool) (l : Line) :
    (l.recoverEntry stopped fired).switches = l.switches := by
  unfold Line.recoverEntry
  split_ifs <;> simp

@[simp] theorem Line.slackReport_switches (l : Line) : l.slackReport.switches = l.switches := by
  unfold Line.slackReport
  dsimp only
  split <;> simp

@[simp] theorem Line.tensionReport_switches (stopped : Bool) (o : TendOutcome) (l : Line) :
    (l.tensionReport stopped o).switches = l.switches := by
  unfold Line.tensionReport
  generalize l.control.state = x
  cases x with
  | locked =>
    cases o with
    | none => rfl
    | fired d => cases d <;> simp
    | standing d => cases d <;> simp
  | slipping => cases l.control.record.returnTo <;> simp
  | _ => simp

@[simp] theorem Line.warnReport_switches (l : Line) : l.warnReport.switches = l.switches := rfl

@[simp] theorem Line.tripReport_switches (l : Line) : l.tripReport.switches = l.switches := by
  unfold Line.tripReport
  dsimp only
  split <;> simp

@[simp] theorem Line.inhibitOnset_switches (l : Line) : l.inhibitOnset.switches = l.switches := by
  unfold Line.inhibitOnset
  split <;> simp

/-! ### The close of a sample event, and a new profile -/

@[simp] theorem Line.closeStarting_switches (fitted : Bool) (l : Line) :
    (l.closeStarting fitted).switches = l.switches := by
  unfold Line.closeStarting
  dsimp only
  split_ifs <;> simp

@[simp] theorem Line.closeDeploy_switches (l : Line) : l.closeDeploy.switches = l.switches := by
  unfold Line.closeDeploy
  split <;> simp

@[simp] theorem Line.stallExpire_switches (l : Line) : l.stallExpire.switches = l.switches := by
  unfold Line.stallExpire
  split <;> simp

@[simp] theorem Line.closeStall_switches (l : Line) : l.closeStall.switches = l.switches := by
  unfold Line.closeStall
  dsimp only
  split_ifs <;> simp

@[simp] theorem Line.close_switches (fitted : Bool) (l : Line) : (l.close fitted).switches = l.switches := by
  simp [Line.close]

@[simp] theorem Line.useJoined_switches (p : Profile) (l : Line) : (l.useJoined p).switches = l.switches := by
  unfold Line.useJoined
  dsimp only
  split <;> rfl

@[simp] theorem Line.applyProfile_switches (p : Profile) (l : Line) : (l.applyProfile p).switches = l.switches := by
  unfold Line.applyProfile
  simp

/-! ### The stages of a sample event -/

@[simp] theorem profileStage_switches (n : LineNo) (s : State) :
    ((s.profileStage n).line n).switches = (s.line n).switches := by
  rw [profileStage_line]
  split
  · simp
  · split <;> simp

/-- The switch stage alone moves the switches, and the reports that follow the readings leave them (R5 to R9). -/
theorem switchStage_switches (n : LineNo) (pins : SwitchPins) (s : State) :
    ((s.switchStage n pins).line n).switches
      = Line.switches { s.line n with sense := (s.line n).sense.sampleSwitches pins } := by
  rw [switchStage_line]
  dsimp only
  split_ifs <;> simp

@[simp] theorem sensorStage_switches (n : LineNo) (sample : BitVec 12) (s : State) :
    ((s.sensorStage n sample).line n).switches = (s.line n).switches := by
  rw [sensorStage_line]
  dsimp only
  split
  · rw [Line.sensorFaultReport_switches]; rfl
  · rfl

@[simp] theorem afterLatch_switches (n : LineNo) (s : State) :
    ((s.afterLatch n).line n).switches = (s.line n).switches := by
  rw [afterLatch_line]
  split <;> simp

@[simp] theorem protectionStage_switches (n : LineNo) (s : State) :
    ((s.protectionStage n).line n).switches = (s.line n).switches := by
  cases hw : (s.line n).has .warn with
  | false =>
    rw [protectionStage_line_warn n s hw]
    dsimp only
    split <;> simp
  | true =>
    rw [protectionStage_line_trip n s hw]
    dsimp only
    split_ifs <;> simp

@[simp] theorem tensionStage_switches (n : LineNo) (sample : BitVec 12) (s : State) :
    ((s.tensionStage n sample).line n).switches = (s.line n).switches := by
  cases hv : sampleValid sample with
  | false => rw [tensionStage_invalid n sample s hv]
  | true =>
    rw [tensionStage_valid n sample s hv, protectionStage_switches, evaluated_line, Line.tensionReport_switches]
    rfl

/-- The readings are taken of the switches that the line had before the profile stage, which leaves them. -/
theorem sampleSwitches_switches_congr (pins : SwitchPins) {a b : Line} (h : a.switches = b.switches) :
    Line.switches { a with sense := a.sense.sampleSwitches pins }
      = Line.switches { b with sense := b.sense.sampleSwitches pins } := by
  obtain ⟨hclosed, hopen, hstowed, hdrive, -, hsamples⟩ := (Line.switches_eq_iff a b).1 h
  simp [Line.switches, Sense.sampleSwitches, hclosed, hopen, hstowed, hdrive, hsamples]

/-- The switches after a whole sample event of a fitted line are its readings taken once (R1, R5, R6, R7). -/
theorem sampleEvent_switches (n : LineNo) (sample : BitVec 12) (pins : SwitchPins) (s : State)
    (h : s.fitted n = true) :
    ((s.sampleEvent n sample pins).line n).switches
      = Line.switches { s.line n with sense := (s.line n).sense.sampleSwitches pins } := by
  rw [sampleEvent_line_fitted n sample pins s h, Line.close_switches, tensionStage_switches, sensorStage_switches,
    switchStage_switches]
  exact sampleSwitches_switches_congr pins (by simp)

end Sys2Proof.Machine

namespace Sys2Proof

open Machine

/-- Settles O10: no stage but the switch stage moves a switch (`sampleEvent_switches`), and there each input takes its
reading as `Switch.sample` says. -/
theorem switchesDebounced : Obligations.SwitchesDebounced := by
  unfold Obligations.SwitchesDebounced
  intro n sample pins s hrun hfit u debounced level
  have hlevel : level = PinLevel.reading := by funext p; cases p <;> rfl
  have hdebounced (w : Switch) (reading : Accepted) : debounced w reading (w.sample (u.samples = 7) reading) :=
    ⟨fun hw => by simp [Switch.sample_unknown _ _ hw], fun hw hr => by rw [hr, Switch.sample_same _ hw],
      Switch.sample_short_run _, Switch.sample_eighth_of_run _⟩
  obtain ⟨hclosed, hopen, hstowed, hdrive, hhook, hsamples⟩ :=
    (Line.switches_eq_iff _ _).1 (sampleEvent_switches n sample pins s hfit)
  refine ⟨_, whileRunning_running (State.sampleEvent n sample pins) hrun, ?_⟩
  rw [hclosed, hopen, hstowed, hdrive, hsamples, hhook, hlevel]
  refine ⟨hdebounced _ _, hdebounced _ _, hdebounced _ _, hdebounced _ _, rfl, ?_⟩
  unfold Sense.sampleSwitches
  dsimp only
  generalize (Switch.sample _ _ _).accepted = closed, (Switch.sample _ _ _).accepted = opened
  cases closed <;> cases opened <;> rfl

end Sys2Proof

/-! PROOFS. What a step can do to a line: `LineMove` lists what can happen to one line's record, and every step takes
each line through such moves (`step_linesMove`), so that what every move keeps of a line every step keeps of all. -/

namespace Sys2Proof.Machine

/-! ### The moves of a line -/

/-- What can happen to a line's record at one stage of an event: `LineMove a b` takes the line from `a` to `b`.  That
nothing else happens to a line is `step_linesMove`. -/
inductive LineMove : Line → Line → Prop
  -- The Line Sense Unit.
  | switches (pins : SwitchPins) (l : Line) : LineMove l { l with sense := l.sense.sampleSwitches pins }
  | load (valid : Bool) (l : Line) : LineMove l { l with sense := l.sense.sampleLoad valid }
  | count (d : Int) (l : Line) : LineMove l { l with sense := l.sense.count d }
  | skip (l : Line) : LineMove l { l with sense := l.sense.skip }
  | hookReport (b : BerthAction) (old new : HookPos) (l : Line) : LineMove l (l.hookReport b old new)
  | stowedReport (l : Line) : LineMove l l.stowedReport
  | driveFaultReport (l : Line) : LineMove l l.driveFaultReport
  | sensorFaultReport (l : Line) : LineMove l l.sensorFaultReport
  | countReport (capacity : Nat) (d : Int) (limit : Bool) (l : Line) : LineMove l (l.countReport capacity d limit)
  -- The Tension Evaluator.
  | tension (sample : BitVec 12) (zeroOffset : Nat) (l : Line) (valid : sampleValid sample = true) :
    LineMove l { l with tension := l.tension.sample l.applied.filterShift (loadOf sample zeroOffset) }
  | tending (l : Line) (locked : l.control.state = .locked) :
    LineMove l { l with tension := (l.tension.tendStep l.applied).1 }
  | tensionReport (stopped : Bool) (o : TendOutcome) (l : Line) : LineMove l (l.tensionReport stopped o)
  -- The Protection Unit.
  | watches (warn trip : Nat) (l : Line) : LineMove l (l.setWatches warn trip)
  | warnReport (l : Line) : LineMove l l.warnReport
  | tripReport (l : Line) : LineMove l l.tripReport
  | inhibit (v : Bool) (l : Line) : LineMove l (l.setInhibit v)
  | inhibitOnset (l : Line) : LineMove l l.inhibitOnset
  -- Time, expiries and derivation.
  | hookTimer (l : Line) : LineMove l l.advanceHookTimer
  | close (fitted : Bool) (l : Line) : LineMove l (l.close fitted)
  | hookExpire (l : Line) : LineMove l l.hookExpire
  | stallExpire (l : Line) : LineMove l l.stallExpire
  | deriveStarting (fitted : Bool) (l : Line) : LineMove l (l.deriveStarting fitted)
  -- Events handed to the line.
  | halt (l : Line) : LineMove l l.halt
  | stopOnset (l : Line) : LineMove l l.stopOnset
  | queueHead (l : Line) : LineMove l l.queueHead
  -- Line commands.
  | deploy (l : Line) : LineMove l (l.enter .deploying { current := some .deploy })
  | engage (l : Line) : LineMove l (l.enter .engaging { current := some .engage })
  | lock (l : Line) : LineMove l (l.enter .locked {}).setMark
  | haul (l : Line) : LineMove l (l.enter .hauling { current := some .lock })
  | holdClosed (l : Line) : LineMove l (l.enter .held {})
  | holdOpened (l : Line) : LineMove l (l.enter .opened {})
  | mark (l : Line) : LineMove l l.setMark
  | release (thenRewind : Bool) (start : Int) (l : Line) :
    LineMove l (l.enter .slacking { current := some .release, slackStart := some start, thenRewind := thenRewind })
  | rewind (l : Line) : LineMove l (l.goRewind { current := some .rewind })
  | derive (fitted : Bool) (l : Line) : LineMove l (l.derive fitted)
  -- Clears and writes.
  | clear (mask : BitVec 10) (l : Line) : LineMove l (l.clear mask)
  | afterClear (tripCleared : Bool) (l : Line) : LineMove l (l.afterClear tripCleared)
  | profileDue (l : Line) : LineMove l { l with profileDue := true }
  | applyProfile (p : Profile) (l : Line) : LineMove l (l.applyProfile p)
  | useJoined (p : Profile) (l : Line) : LineMove l (l.useJoined p)
  | takeSetup (old new : LineSetup) (p : Profile) (l : Line) : LineMove l (l.takeSetup old new p)
  -- Resets.
  | powerOn (l : Line) : LineMove l lineAtPowerOn
  | assertion (l : Line) : LineMove l l.atAssertion
  | restart (fitted : Bool) (l : Line) : LineMove l (l.atRestart fitted)

/-- Each line of `t` has come from the same line of `s` by moves. -/
def LinesMove (s t : State) : Prop := ∀ n, Relation.ReflTransGen LineMove (s.line n) (t.line n)

theorem LinesMove.of_line {s t : State} (h : ∀ n, t.line n = s.line n) : LinesMove s t :=
  fun n => by rw [h n]

theorem LinesMove.refl (s : State) : LinesMove s s := .of_line fun _ => rfl

theorem LinesMove.trans {s t u : State} (h : LinesMove s t) (h' : LinesMove t u) : LinesMove s u :=
  fun n => (h n).trans (h' n)

/-- Moves of the lines from a state with the same lines. -/
theorem LinesMove.after {s t u : State} (h : LinesMove t u) (ht : ∀ n, t.line n = s.line n) : LinesMove s u :=
  fun n => by rw [← ht n]; exact h n

theorem LinesMove.foldl {α : Type} {f : State → α → State} (hf : ∀ s a, LinesMove s (f s a)) :
    ∀ (l : List α) (s : State), LinesMove s (l.foldl f s)
  | [], s => .refl s
  | a :: l, s => (hf s a).trans (LinesMove.foldl hf l (f s a))

/-- What every move keeps of a line, moves of the lines keep of each. -/
theorem LinesMove.keeps {P : Line → Prop} (hP : ∀ a b, LineMove a b → P a → P b) {s t : State}
    (h : LinesMove s t) (hs : ∀ n, P (s.line n)) (n : LineNo) : P (t.line n) := by
  have kept {b : Line} (hb : Relation.ReflTransGen LineMove (s.line n) b) : P b := by
    induction hb with
    | refl => exact hs n
    | tail _ hm ih => exact hP _ _ hm ih
  exact kept (h n)

theorem putLine_linesMove {n : LineNo} {l : Line} {s : State} (h : LineMove (s.line n) l) :
    LinesMove s (s.putLine n l) := by
  intro m
  rw [State.line_putLine]
  split
  next hm => rw [hm]; exact .single h
  next => exact .refl

theorem onLine_linesMove {f : Line → Line} (h : ∀ l, LineMove l (f l)) (n : LineNo) (s : State) :
    LinesMove s (s.onLine n f) := by
  intro m
  rw [onLine_line]
  split
  next hm => rw [hm]; exact .single (h _)
  next => exact .refl

/-! ### The Arbiter, the links and the inhibits -/

theorem AuthorityOnly.linesMove {s t : State} (h : AuthorityOnly s t) : LinesMove s t := .of_line h.line

theorem LinkOnly.linesMove {st : Station} {s t : State} (h : LinkOnly st s t) : LinesMove s t := .of_line h.line

theorem InhibitsOnly.linesMove {s t : State} (h : InhibitsOnly s t) : LinesMove s t :=
  fun n => by rw [h.line n]; exact .single (.inhibit _ _)

/-- A stage of a sample event moves its own line as it may, and of the others the record of the inhibit alone. -/
theorem StageOnly.linesMove {n : LineNo} {s t : State} (h : StageOnly n s t)
    (hn : Relation.ReflTransGen LineMove (s.line n) (t.line n)) : LinesMove s t := by
  intro m
  by_cases hm : m = n
  · rw [hm]; exact hn
  · rw [h.lines m hm]; exact .single (.inhibit _ _)

/-! ### The stages of a sample event and of a count event -/

theorem afterLatch_linesMove (n : LineNo) (s : State) : LinesMove s (s.afterLatch n) := by
  refine (afterLatch_stageOnly n s).linesMove ?_
  rw [afterLatch_line]
  split
  · exact .tail (.single (.inhibit _ _)) (.inhibitOnset _)
  · exact .single (.inhibit _ _)

theorem protectionStage_linesMove (n : LineNo) (s : State) : LinesMove s (s.protectionStage n) := by
  have watches : ∀ warn trip, LinesMove s (s.putLine n ((s.line n).setWatches warn trip)) :=
    fun _ _ => putLine_linesMove (.watches _ _ _)
  unfold State.protectionStage
  dsimp only
  split
  · split
    · exact watches _ _
    · have reported := fun trip => (watches 0 trip).trans (onLine_linesMove LineMove.tripReport n _)
      split
      · exact reported _
      · exact (reported _).trans (afterLatch_linesMove n _)
  · split
    · exact ((watches 0 0).trans (onLine_linesMove LineMove.warnReport n _)).trans (afterLatch_linesMove n _)
    · exact watches _ _

theorem evaluated_linesMove (n : LineNo) {sample : BitVec 12} (hv : sampleValid sample = true) (s : State) :
    LinesMove s (s.evaluated n sample) := by
  have formed := LineMove.tension sample (s.setup n).zeroOffset (s.line n) hv
  refine ((putLine_stageOnly n _ s).trans (onLine_stageOnly n _ _)).linesMove ?_
  rw [onLine_line_self, State.line_putLine_self]
  refine .tail ?_ (.tensionReport _ _ _)
  split
  next hl => exact .tail (.single formed) (.tending _ hl)
  next => exact .single formed

theorem tensionStage_linesMove (n : LineNo) (sample : BitVec 12) (s : State) :
    LinesMove s (s.tensionStage n sample) := by
  cases hv : sampleValid sample with
  | false => rw [tensionStage_invalid n sample s hv]; exact .refl s
  | true =>
    rw [tensionStage_valid n sample s hv]
    exact (evaluated_linesMove n hv s).trans (protectionStage_linesMove n _)

theorem sensorStage_linesMove (n : LineNo) (sample : BitVec 12) (s : State) : LinesMove s (s.sensorStage n sample) := by
  have tested : LinesMove s
      (s.putLine n { s.line n with sense := (s.line n).sense.sampleLoad (sampleValid sample) }) :=
    putLine_linesMove (.load _ _)
  unfold State.sensorStage
  dsimp only
  split
  · exact tested.trans (onLine_linesMove LineMove.sensorFaultReport n _)
  · exact tested

theorem hookChange_linesMove (n : LineNo) (old new : HookPos) (s : State) : LinesMove s (s.hookChange n old new) :=
  (hookChange_stageOnly n old new s).linesMove (by rw [hookChange_line]; exact .single (.hookReport _ _ _ _))

/-- A move that happens only under a condition. -/
theorem moves_ite {a b : Line} {c : Prop} [Decidable c] {f : Line → Line} (h : Relation.ReflTransGen LineMove a b)
    (hf : ∀ l, LineMove l (f l)) : Relation.ReflTransGen LineMove a (if c then f b else b) := by
  split
  · exact h.tail (hf b)
  · exact h

theorem switchStage_linesMove (n : LineNo) (pins : SwitchPins) (s : State) : LinesMove s (s.switchStage n pins) := by
  refine (switchStage_stageOnly n pins s).linesMove ?_
  have read := Relation.ReflTransGen.single (LineMove.switches pins (s.line n))
  rw [switchStage_line]
  refine moves_ite (moves_ite ?_ LineMove.stowedReport) LineMove.driveFaultReport
  split
  · exact read
  · exact read.tail (.hookReport _ _ _ _)

theorem profileStage_linesMove (n : LineNo) (s : State) : LinesMove s (s.profileStage n) := by
  unfold State.profileStage
  split
  · exact onLine_linesMove (LineMove.applyProfile _) n s
  · split
    · exact onLine_linesMove (LineMove.useJoined _) n s
    · exact .refl s

theorem sampleEvent_linesMove (n : LineNo) (sample : BitVec 12) (pins : SwitchPins) (s : State) :
    LinesMove s (s.sampleEvent n sample pins) := by
  have timed : LinesMove s (s.putLine n (s.line n).advanceHookTimer) := putLine_linesMove (.hookTimer _)
  refine LinesMove.trans ?_ (onLine_linesMove (LineMove.close _) n _)
  split
  · exact (((timed.trans (profileStage_linesMove n _)).trans (switchStage_linesMove n pins _)).trans
      (sensorStage_linesMove n sample _)).trans (tensionStage_linesMove n sample _)
  · exact timed

theorem countEvent_linesMove (n : LineNo) (step : EncoderStep) (s : State) : LinesMove s (s.countEvent n step) := by
  unfold State.countEvent
  dsimp only
  split
  · split
    · exact putLine_linesMove (.skip _)
    · exact (putLine_linesMove (.count _ _)).trans (onLine_linesMove (LineMove.countReport _ _ _) n _)
  · exact .refl s

/-! ### Line commands -/

theorem appendQueue_linesMove (ns : List LineNo) (s : State) : LinesMove s (s.appendQueue ns) :=
  .of_line fun n => appendQueue_line ns n s

theorem placeReply_linesMove (st : Station) (kind : Byte) (body : List Byte) (s : State) :
    LinesMove s (s.placeReply st kind body) := (onLink_linkOnly st _ s).linesMove

theorem takeLines_linesMove {f : LineNo → State → State × ReplyCode} (hf : ∀ n s, LinesMove s (f n s).1) :
    ∀ (ns : List LineNo) (s : State), LinesMove s (takeLines f ns s).1
  | [], s => .refl s
  | n :: ns, s => (hf n s).trans (takeLines_linesMove hf ns (f n s).1)

theorem lineCommand_linesMove {f : (LineNo → Bool) → LineNo → State → State × ReplyCode}
    (hf : ∀ permit n s, LinesMove s (f permit n s).1) (st : Station) (kind lines : Byte) (s : State) :
    LinesMove s (s.lineCommand st kind lines f) := by
  unfold State.lineCommand
  dsimp only
  split
  · exact placeReply_linesMove st _ _ s
  · exact ((takeLines_linesMove (hf _) _ s).trans (recordWatched_authorityOnly st _ _).linesMove).trans
      (placeReply_linesMove st _ _ _)

/-- A line command turned away for a line leaves the state (R43). -/
theorem refused_linesMove {c : Prop} [Decidable c] {s : State} {code : ReplyCode} {taken : State × ReplyCode}
    (h : LinesMove s taken.1) : LinesMove s (if c then (s, code) else taken).1 := by
  split
  · exact .refl s
  · exact h

theorem deployLine_linesMove (permit : LineNo → Bool) (n : LineNo) (s : State) :
    LinesMove s (deployLine permit n s).1 :=
  refused_linesMove <| refused_linesMove <| refused_linesMove <| refused_linesMove <| refused_linesMove <|
    refused_linesMove <| onLine_linesMove LineMove.deploy n s

theorem engageLine_linesMove (permit : LineNo → Bool) (n : LineNo) (s : State) :
    LinesMove s (engageLine permit n s).1 :=
  refused_linesMove <| refused_linesMove <| refused_linesMove <| onLine_linesMove LineMove.engage n s

theorem lockLine_linesMove (permit : LineNo → Bool) (n : LineNo) (s : State) :
    LinesMove s (lockLine permit n s).1 := by
  refine refused_linesMove <| refused_linesMove <| refused_linesMove <| refused_linesMove ?_
  split
  · exact onLine_linesMove LineMove.lock n s
  · exact refused_linesMove <| refused_linesMove <| onLine_linesMove LineMove.haul n s

theorem holdLine_linesMove (permit : LineNo → Bool) (n : LineNo) (s : State) :
    LinesMove s (holdLine permit n s).1 := by
  refine refused_linesMove ?_
  generalize (s.line n).control.state = x
  cases x with
  | locked | rendering | recovering | hauling | slacking => exact onLine_linesMove LineMove.holdClosed n s
  | deploying | rewinding => exact onLine_linesMove LineMove.holdOpened n s
  | _ => exact .refl s

theorem markLine_linesMove (permit : LineNo → Bool) (n : LineNo) (s : State) :
    LinesMove s (Machine.markLine permit n s).1 := by
  refine refused_linesMove ?_
  generalize (s.line n).control.state = x
  cases x with
  | locked | held => exact onLine_linesMove LineMove.mark n s
  | _ => exact .refl s

theorem releaseLine_linesMove (thenRewind : Bool) (permit : LineNo → Bool) (n : LineNo) (s : State) :
    LinesMove s (releaseLine thenRewind permit n s).1 := by
  refine refused_linesMove <| refused_linesMove <| refused_linesMove ?_
  generalize (s.line n).control.state = x
  cases x with
  | locked | rendering | recovering | held | hauling => exact onLine_linesMove (LineMove.release _ _) n s
  | _ => exact .refl s

theorem rewindLine_linesMove (permit : LineNo → Bool) (n : LineNo) (s : State) :
    LinesMove s (rewindLine permit n s).1 :=
  refused_linesMove <| refused_linesMove <| refused_linesMove <| refused_linesMove <|
    onLine_linesMove LineMove.rewind n s

theorem resetLineOne_linesMove (permit : LineNo → Bool) (n : LineNo) (s : State) :
    LinesMove s (resetLineOne permit n s).1 :=
  refused_linesMove <| refused_linesMove <| onLine_linesMove (LineMove.derive _) n s

theorem quickReleaseLine_linesMove (st : Station) (permit : LineNo → Bool) (n : LineNo) (s : State) :
    LinesMove s (quickReleaseLine st permit n s).1 :=
  refused_linesMove <| refused_linesMove <| refused_linesMove <| appendQueue_linesMove [n] s

/-! ### The other requests -/

theorem takeGroups_linesMove {f : GroupNo → State → State × ReplyCode} (hf : ∀ g s, LinesMove s (f g s).1) :
    ∀ (gs : List GroupNo) (s : State), LinesMove s (takeGroups f gs s).1
  | [], s => .refl s
  | g :: gs, s => (hf g s).trans (takeGroups_linesMove hf gs (f g s).1)

theorem takeClaim_linesMove (st : Station) (groups option : Byte) (s : State) :
    LinesMove s (takeClaim st groups option s) :=
  (takeGroups_linesMove (fun g s => (setRecord_authorityOnly g _ s).linesMove) _ s).trans
    (placeReply_linesMove st _ _ _)

theorem yieldGroup_linesMove (st : Station) (g : GroupNo) (s : State) : LinesMove s (yieldGroup st g s).1 := by
  unfold yieldGroup
  split
  · exact (removeEntry_authorityOnly st g s).linesMove
  · exact .refl s

theorem takeYield_linesMove (st : Station) (groups : Byte) (s : State) : LinesMove s (takeYield st groups s) :=
  (takeGroups_linesMove (yieldGroup_linesMove st) _ s).trans (placeReply_linesMove st _ _ _)

theorem reevaluateInhibits_linesMove (own : Option LineNo) (s : State) : LinesMove s (s.reevaluateInhibits own) :=
  (reevaluateInhibits_spec own s).1.linesMove

theorem clearLine_linesMove (st : Station) (flags : BitVec 16) (n : LineNo) (s : State) :
    LinesMove s (clearLine st flags n s).1 := by
  have cleared : ∀ mask, LinesMove s (s.putLine n ((s.line n).clear mask)) :=
    fun mask => putLine_linesMove (.clear mask _)
  have followed : ∀ trip u, LinesMove u (State.putLine n ((u.line n).afterClear trip) u) :=
    fun trip u => putLine_linesMove (.afterClear trip _)
  unfold clearLine
  dsimp only
  split
  · exact .refl s
  · split
    · exact .refl s
    · split
      · dsimp only
        exact ((cleared _).trans (followed _ _)).trans (reevaluateInhibits_linesMove none _)
      · exact cleared _

theorem clearLines_linesMove (st : Station) (flags : BitVec 16) :
    ∀ (ns : List LineNo) (s : State), LinesMove s (clearLines st flags ns s).1
  | [], s => .refl s
  | n :: ns, s => (clearLine_linesMove st flags n s).trans (clearLines_linesMove st flags ns _)

theorem takeClearFlags_linesMove (st : Station) (lines : Byte) (flags : BitVec 16) (s : State) :
    LinesMove s (takeClearFlags st lines flags s) :=
  (clearLines_linesMove st flags _ s).trans (placeReply_linesMove st _ _ _)

theorem takeClearStation_linesMove (st : Station) (indicators : Byte) (s : State) :
    LinesMove s (takeClearStation st indicators s) :=
  (onLink_linkOnly st _ s).linesMove.trans (placeReply_linesMove st _ _ _)

/-- An answer leaves the lines as the request made them. -/
theorem LinesMove.answer {s t : State} (h : LinesMove s t) (st : Station) (kind : Byte) (c : ReplyCode) :
    LinesMove s (t.answer st kind c) := h.trans (placeReply_linesMove st kind _ t)

/-- A request answered by an outcome code alone, without an effect, leaves the lines. -/
theorem answered_linesMove {c : Prop} [Decidable c] {s t : State} {st : Station} {kind : Byte} {code : ReplyCode}
    (h : LinesMove s t) : LinesMove s (if c then s.answer st kind code else t) := by
  split
  · exact (LinesMove.refl s).answer st kind code
  · exact h

theorem writeProfile_linesMove (g : GroupNo) (p : Profile) (s : State) : LinesMove s (s.writeProfile g p) := by
  have written : LinesMove s { s with table := { s.table with profiles := s.table.profiles.set g p } } :=
    .of_line fun _ => rfl
  exact written.trans (.foldl (fun s n => putLine_linesMove (.profileDue _)) _ _)

theorem takeWriteProfile_linesMove (st : Station) (group : Byte) (p : Profile) (s : State) :
    LinesMove s (takeWriteProfile st group p s) :=
  answered_linesMove <| answered_linesMove <| answered_linesMove <| (writeProfile_linesMove _ p s).answer st _ _

theorem writeBerth_linesMove (b : BerthSettings) (s : State) : LinesMove s (s.writeBerth b) := by
  unfold State.writeBerth
  dsimp only
  generalize hw : ({ s with table := _ } : State) = written
  have settings : LinesMove s written := .of_line fun _ => by rw [← hw]; rfl
  have inhibited : LinesMove s
      (if s.table.settings.scope = b.scope then written else written.reevaluateInhibits none) := by
    split
    · exact settings
    · exact settings.trans (reevaluateInhibits_linesMove none _)
  split
  · exact inhibited
  · exact inhibited.trans (reevaluateAll_authorityOnly _).linesMove

theorem takeWriteBerth_linesMove (st : Station) (scope stagger lead : Byte) (s : State) :
    LinesMove s (takeWriteBerth st scope stagger lead s) := by
  refine answered_linesMove <| answered_linesMove ?_
  cases settingsOfBytes scope stagger lead with
  | none => exact (LinesMove.refl s).answer st _ _
  | some b => exact (writeBerth_linesMove b s).answer st _ _

theorem writeSetup_linesMove (n : LineNo) (u : LineSetup) (s : State) : LinesMove s (s.writeSetup n u) := by
  unfold State.writeSetup
  dsimp only
  generalize hw : ({ s with table := _ } : State) = written
  have taken : LinesMove s (written.onLine n (Line.takeSetup (s.setup n) u (s.profile u.group))) :=
    (onLine_linesMove (LineMove.takeSetup _ _ _) n written).after fun _ => by rw [← hw]; rfl
  split
  · exact taken
  · exact taken.trans (reevaluateInhibits_linesMove none _)

theorem takeWriteLineSetup_linesMove (st : Station) (line : Byte) (f : SetupFields) (s : State) :
    LinesMove s (takeWriteLineSetup st line f s) := by
  refine answered_linesMove <| answered_linesMove <| answered_linesMove <| answered_linesMove <|
    answered_linesMove ?_
  cases setupOfFields f with
  | none => exact (LinesMove.refl s).answer st _ _
  | some u => exact (writeSetup_linesMove _ u s).answer st _ _

theorem takeSaveSetup_linesMove (st : Station) (s : State) : LinesMove s (takeSaveSetup st s) :=
  answered_linesMove <| answered_linesMove <| answered_linesMove <|
    (placeReply_linesMove st _ _ s.startSave).after fun _ => rfl

theorem takeRestart_linesMove (st : Station) (s : State) : LinesMove s (takeRestart st s) :=
  answered_linesMove <| answered_linesMove <| (placeReply_linesMove st _ _ _).after fun _ => rfl

/-! ### Request events -/

theorem latchLinkError_linesMove (st : Station) (s : State) : LinesMove s (s.latchLinkError st) :=
  (latchLinkError_linkOnly st s).linesMove

theorem requestEvent_linesMove {take : State → State} (st : Station) (bodyOk : Bool) {s : State}
    (h : LinesMove s (take s)) : LinesMove s (s.requestEvent st bodyOk take) := by
  unfold State.requestEvent
  split
  · exact .refl s
  · split
    · exact latchLinkError_linesMove st s
    · exact h

theorem dispatchRequest_linesMove (i : Instr) (s : State) : LinesMove s (dispatchRequest i s) := by
  cases i with
  | claim st groups option => exact requestEvent_linesMove st _ (takeClaim_linesMove st groups option s)
  | yieldGroups st groups => exact requestEvent_linesMove st _ (takeYield_linesMove st groups s)
  | query st => exact requestEvent_linesMove st _ (placeReply_linesMove st _ _ s)
  | deploy st lines => exact requestEvent_linesMove st _ (lineCommand_linesMove deployLine_linesMove st _ lines s)
  | engage st lines => exact requestEvent_linesMove st _ (lineCommand_linesMove engageLine_linesMove st _ lines s)
  | lock st lines => exact requestEvent_linesMove st _ (lineCommand_linesMove lockLine_linesMove st _ lines s)
  | hold st lines => exact requestEvent_linesMove st _ (lineCommand_linesMove holdLine_linesMove st _ lines s)
  | mark st lines => exact requestEvent_linesMove st _ (lineCommand_linesMove markLine_linesMove st _ lines s)
  | release st lines option =>
    exact requestEvent_linesMove st _ (lineCommand_linesMove (releaseLine_linesMove _) st _ lines s)
  | rewind st lines => exact requestEvent_linesMove st _ (lineCommand_linesMove rewindLine_linesMove st _ lines s)
  | quickRelease st lines =>
    exact requestEvent_linesMove st _ (lineCommand_linesMove (quickReleaseLine_linesMove st) st _ lines s)
  | resetLine st lines =>
    exact requestEvent_linesMove st _ (lineCommand_linesMove resetLineOne_linesMove st _ lines s)
  | readLines st first count => exact requestEvent_linesMove st _ (placeReply_linesMove st _ _ s)
  | readGroup st group => exact requestEvent_linesMove st _ (placeReply_linesMove st _ _ s)
  | readSetup st line => exact requestEvent_linesMove st _ (placeReply_linesMove st _ _ s)
  | clearFlags st lines flags => exact requestEvent_linesMove st _ (takeClearFlags_linesMove st lines flags s)
  | clearStation st indicators => exact requestEvent_linesMove st _ (takeClearStation_linesMove st indicators s)
  | writeProfile st group p => exact requestEvent_linesMove st _ (takeWriteProfile_linesMove st group p s)
  | writeBerth st scope stagger lead =>
    exact requestEvent_linesMove st _ (takeWriteBerth_linesMove st scope stagger lead s)
  | writeLineSetup st line f => exact requestEvent_linesMove st _ (takeWriteLineSetup_linesMove st line f s)
  | saveSetup st => exact requestEvent_linesMove st _ (takeSaveSetup_linesMove st s)
  | restart st => exact requestEvent_linesMove st _ (takeRestart_linesMove st s)
  | _ => exact .refl s

/-! ### Resets and presence -/

theorem powerOn_linesMove (s : State) : LinesMove s s.powerOn := by
  intro n
  have started : s.powerOn.line n = lineAtPowerOn := Vector.getElem_replicate _
  rw [started]
  exact .single (.powerOn _)

theorem abandonSave_line (s : State) (n : LineNo) : s.abandonSave.line n = s.line n := by
  unfold State.abandonSave
  split <;> rfl

theorem assertReset_linesMove (s : State) : LinesMove s s.assertReset := by
  unfold State.assertReset
  split
  · intro n
    have asserted : s.linesAtAssertion[n] = (s.line n).atAssertion := State.linesAtAssertion_get s n
    change Relation.ReflTransGen LineMove (s.line n) s.linesAtAssertion[n]
    rw [asserted]
    exact .single (.assertion _)
  · exact .of_line fun _ => rfl

theorem releaseReset_linesMove (s : State) : LinesMove s s.releaseReset := by
  refine .of_line fun n => ?_
  unfold State.releaseReset
  split
  · split <;> rfl
  · rfl

theorem restartPart_linesMove (st : Station) (s : State) : LinesMove s (s.restartPart st) := by
  have composed : ∀ (xs : List Station) (u : State), LinesMove u (xs.foldl (fun s x => s.composeSlot x) u) :=
    .foldl fun s x => (composeSlot_linkOnly x s).linesMove
  have linked : ∀ (xs : List Station) (u : State), LinesMove u (xs.foldl (fun s x => s.onLink x Link.atRestart) u) :=
    .foldl fun s x => (onLink_linkOnly x _ s).linesMove
  have restarted : ∀ (ns : List LineNo) (u : State), LinesMove u (ns.foldl (fun s n => s.restartLine n) u) :=
    .foldl fun s n => putLine_linesMove (.restart _ _)
  have loaded : LinesMove s (State.load { s with table := { s.table.defaults with saveCopy := none } }) :=
    .of_line fun _ => rfl
  exact (loaded.trans (restarted allLines _)).trans
    ((linked allStations _).trans ((composed (slotsUpTo st) _).after fun _ => rfl))

theorem losePresence_linesMove (st : Station) (s : State) : LinesMove s (s.losePresence st) := by
  unfold State.losePresence
  refine LinesMove.trans ?_ (.foldl (fun s g => (removeEntry_authorityOnly st g s).linesMove) _ _)
  refine .of_line fun n => ?_
  split <;> rfl

/-! ### The frame event -/

theorem presenceStep_linesMove (st : Station) (good : Bool) (s : State) : LinesMove s (s.presenceStep st good) := by
  have linked : ∀ f, LinesMove s (s.onLink st f) := fun f => (onLink_linkOnly st f s).linesMove
  unfold State.presenceStep
  dsimp only
  split
  · split <;> exact linked _
  · exact linked _
  · exact linked _
  · split
    · exact losePresence_linesMove st s
    · exact linked _

theorem stanceStep_linesMove (st : Station) (code : BitVec 4) (s : State) : LinesMove s (s.stanceStep st code) := by
  obtain ⟨k, es, only, result, -⟩ := stanceStep_spec st code s
  rw [result]
  exact .of_line only.line

theorem messageComplete_linesMove (st : Station) (kind : Byte) (length : Nat) (bytes : List Byte) (s : State) :
    LinesMove s (s.messageComplete st kind length bytes) := by
  unfold State.messageComplete
  dsimp only
  split
  · exact latchLinkError_linesMove st s
  · split
    · exact latchLinkError_linesMove st s
    · exact dispatchRequest_linesMove _ s

theorem takeByte_linesMove (st : Station) (b : Byte) (s : State) : LinesMove s (s.takeByte st b) := by
  have next : ∀ m, LinesMove s ((s.onLink st fun k => { k with gap := 0 }).setIncoming st m) :=
    fun m => ((onLink_linkOnly st _ s).trans (onLink_linkOnly st _ _)).linesMove
  unfold State.takeByte
  dsimp only
  split
  · exact next _
  · split
    · exact (next _).trans (latchLinkError_linesMove st _)
    · split
      · exact (next _).trans (messageComplete_linesMove st _ _ _ _)
      · exact next _
  · split
    · exact (next _).trans (messageComplete_linesMove st _ _ _ _)
    · exact next _

theorem receiveStep_linesMove (st : Station) (offer : Bool) (b : Byte) (s : State) :
    LinesMove s (s.receiveStep st offer b) := by
  have stepped : ∀ r, LinesMove s (s.onLink st fun k => { k with recv := r }) :=
    fun r => (onLink_linkOnly st _ s).linesMove
  unfold State.receiveStep
  dsimp only
  split
  · exact (stepped _).trans (takeByte_linesMove st _ _)
  · exact (stepped _).trans (gapStep_linkOnly st _).linesMove

theorem laneCompletion_linesMove (st : Station) (isReply : Bool) (s : State) :
    LinesMove s (s.laneCompletion st isReply) := by
  have done : ∀ f, LinesMove s (s.onLink st f) := fun f => (onLink_linkOnly st f s).linesMove
  unfold State.laneCompletion
  dsimp only
  split
  · exact (done _).trans (restartPart_linesMove st _)
  · exact done _

theorem sendStep_linesMove (st : Station) (take : Bool) (s : State) : LinesMove s (s.sendStep st take) := by
  have linked : ∀ f, LinesMove s (s.onLink st f) := fun f => (onLink_linkOnly st f s).linesMove
  unfold State.sendStep
  dsimp only
  split
  · exact .refl s
  · split
    · split
      · split
        · exact linked _
        · exact laneCompletion_linesMove st _ s
      · exact linked _
    · exact .refl s
  · split
    · exact .refl s
    · split
      · split <;> exact linked _
      · exact linked _

theorem contentStep_linesMove (st : Station) (slot : BitVec 32) (s : State) : LinesMove s (s.contentStep st slot) := by
  have received := (stanceStep_linesMove st (slotStance slot) s).trans
    (receiveStep_linesMove st (slotOffer slot) (slotByte slot) _)
  unfold State.contentStep
  dsimp only
  split
  · split
    · exact received
    · exact received.trans (beginTransfer_linkOnly st _).linesMove
  · exact received.trans (sendStep_linesMove st _ _)

theorem frameEvent_linesMove (st : Station) (slot : BitVec 32) (s : State) : LinesMove s (s.frameEvent st slot) := by
  have decided := presenceStep_linesMove st (slotGood slot) s
  refine LinesMove.trans ?_ (composeSlot_linkOnly st _).linesMove
  split
  · split
    · exact decided.trans (contentStep_linesMove st slot _)
    · exact decided.trans (gapStep_linkOnly st _).linesMove
  · exact decided

/-! ### The Berth Action Unit -/

theorem dueTake_linesMove (s : State) : LinesMove s s.dueTake := by
  refine .of_line fun n => ?_
  unfold State.dueTake
  split <;> rfl

theorem queueTake_linesMove (s : State) : LinesMove s s.queueTake := by
  unfold State.queueTake
  split
  · exact .refl s
  next n rest _ =>
    have opened : LinesMove s ((s.popQueue rest).onLine n Line.queueHead) :=
      (onLine_linesMove LineMove.queueHead n (s.popQueue rest)).after fun _ => rfl
    dsimp only
    split
    · exact opened.trans (.of_line fun _ => rfl)
    · split
      · exact opened
      · exact opened.trans (dueTake_linesMove _)

theorem staggerExpire_linesMove (s : State) : LinesMove s s.staggerExpire := by
  rw [staggerExpire_spec]
  exact .of_line fun _ => rfl

theorem staggerTick_linesMove (s : State) : LinesMove s s.staggerTick := by
  unfold State.staggerTick
  split
  · exact .refl s
  · split
    · exact staggerExpire_linesMove s
    · exact .of_line fun _ => rfl

theorem startReleaseAll_linesMove (s : State) : LinesMove s s.startReleaseAll := by
  unfold State.startReleaseAll
  dsimp only
  split
  · exact appendQueue_linesMove _ s
  · exact (appendQueue_linesMove _ s).trans (.of_line fun _ => rfl)

theorem takeStance_linesMove (st : Station) (before after : Stance) (s : State) :
    LinesMove s (s.takeStance st before after) := by
  have recomputed : LinesMove s s.recomputeStopped := by
    rw [recomputeStopped_spec]
    exact .of_line fun _ => rfl
  unfold State.takeStance
  dsimp only
  split
  · split
    · exact recomputed.trans (startReleaseAll_linesMove _)
    · exact recomputed.trans (latchLinkError_linesMove st _)
  · exact recomputed

theorem takeStanceDue_linesMove (st : Station) (s : State) : LinesMove s (s.takeStanceDue st) := by
  unfold State.takeStanceDue
  split
  · exact (takeStance_linesMove st _ _ _).after fun _ => rfl
  · exact .refl s

theorem completeSave_linesMove (readBack : Option StoreImage) (s : State) :
    LinesMove s (s.completeSave readBack) := by
  refine .of_line fun n => ?_
  unfold State.completeSave
  split <;> rfl

/-! ### Commands and steps -/

/-- A command that is a request runs its request event, one that came in byte by byte or by itself (log 2). -/
theorem exec_request (i : Instr) (s : State) (h : i.kind ≠ none) : exec i s = whileRunning (dispatchRequest i) s := by
  cases i with
  | sampleEvent | countEvent | frameEvent | powerOn | resetInputAssert | resetInputRelease | deviceRestart
  | storeCompletion | staggerExpiry | hookTimerExpiry | stallExpiry | derivation | gapAbort | presenceLoss
  | stanceChange | stopOnset | holderChangeHalt | inhibitOnset | inhibitLift | queueTake | powerLoss => exact absurd rfl h
  | _ => rfl

theorem whileRunning_linesMove {f : State → State} {s t : State} (hf : LinesMove s (f s))
    (h : whileRunning f s = .next t) : LinesMove s t := by
  cases h
  split
  · exact hf
  · exact .refl s

theorem takeHanded_linesMove {f : State → State} (hf : ∀ s, LinesMove s (f s)) (e : DueEvent) (s : State) :
    LinesMove s (s.takeHanded e f) := by
  unfold State.takeHanded
  split
  · exact (hf _).after fun _ => rfl
  · exact .refl s

theorem exec_linesMove (i : Instr) {s t : State} (h : exec i s = .next t) : LinesMove s t := by
  by_cases request : i.kind ≠ none
  · rw [exec_request i s request] at h
    exact whileRunning_linesMove (dispatchRequest_linesMove i s) h
  · cases i with
    | sampleEvent n sample pins => exact whileRunning_linesMove (sampleEvent_linesMove n sample pins s) h
    | countEvent n step => exact whileRunning_linesMove (countEvent_linesMove n step s) h
    | frameEvent st slot => exact whileRunning_linesMove (frameEvent_linesMove st slot s) h
    | powerOn => cases h; exact powerOn_linesMove s
    | resetInputAssert => cases h; exact assertReset_linesMove s
    | resetInputRelease => cases h; exact releaseReset_linesMove s
    | powerLoss => cases h; exact .of_line (abandonSave_line s)
    | deviceRestart st =>
      refine whileRunning_linesMove ?_ h
      split
      · exact restartPart_linesMove st s
      · exact .refl s
    | storeCompletion readBack => exact whileRunning_linesMove (completeSave_linesMove readBack s) h
    | staggerExpiry =>
      refine whileRunning_linesMove ?_ h
      split
      · exact staggerExpire_linesMove s
      · exact .refl s
    | hookTimerExpiry n => exact whileRunning_linesMove (onLine_linesMove LineMove.hookExpire n s) h
    | stallExpiry n => exact whileRunning_linesMove (onLine_linesMove LineMove.stallExpire n s) h
    | derivation n => exact whileRunning_linesMove (onLine_linesMove (LineMove.deriveStarting _) n s) h
    | gapAbort st =>
      refine whileRunning_linesMove ?_ h
      split
      · exact (abortGap_linkOnly st s).linesMove
      · exact .refl s
    | presenceLoss st =>
      refine whileRunning_linesMove ?_ h
      split
      · exact losePresence_linesMove st s
      · exact .refl s
    | stanceChange st => exact whileRunning_linesMove (takeStanceDue_linesMove st s) h
    | stopOnset n =>
      exact whileRunning_linesMove (takeHanded_linesMove (onLine_linesMove LineMove.stopOnset n) _ s) h
    | holderChangeHalt n =>
      exact whileRunning_linesMove (takeHanded_linesMove (onLine_linesMove LineMove.halt n) _ s) h
    | inhibitOnset n =>
      exact whileRunning_linesMove (takeHanded_linesMove (onLine_linesMove LineMove.inhibitOnset n) _ s) h
    | inhibitLift n => exact whileRunning_linesMove (takeHanded_linesMove .refl _ s) h
    | queueTake => exact whileRunning_linesMove (takeHanded_linesMove queueTake_linesMove _ s) h
    | _ => exact absurd nofun request

/-- A step takes every line through moves alone. -/
theorem step_linesMove {s t : State} (h : step s = .next t) : LinesMove s t := by
  unfold step at h
  split at h
  · exact (exec_linesMove _ h).after fun _ => rfl
  · split at h
    · split at h
      · exact exec_linesMove _ h
      · exact whileRunning_linesMove (staggerTick_linesMove s) h
    · cases h; exact .refl s

/-- A property of a line that every move keeps is kept by every step, of all lines. -/
theorem step_keeps_lines {P : Line → Prop} (hP : ∀ a b, LineMove a b → P a → P b) {s t : State}
    (h : step s = .next t) (hs : ∀ n, P (s.line n)) : ∀ n, P (t.line n) :=
  (step_linesMove h).keeps hP hs

end Sys2Proof.Machine

/-! PROOFS. Every step keeps the demands of every line those of its state (R15, R38): settles O52. -/

namespace Sys2Proof.Machine

/-! ### The demands of one line -/

/-- One line's part of `State.demandsAgree`. -/
def Line.demandsAgree (l : Line) : Prop :=
  l.control.drive = driveDemand l.applied l.control.state
    ∧ l.control.brake = brakeDemand l.control.state
    ∧ l.control.hookDemand = hookDemandOf l.control.state
    ∧ (l.control.drive ≠ 0 → l.sense.heaving = decide (l.control.drive < 0))

theorem State.demandsAgree_iff (s : State) : s.demandsAgree ↔ ∀ n, (s.line n).demandsAgree := Iff.rfl

/-! What a line's demands do not read leaves them as they are. -/

@[simp] theorem Line.latch_demandsAgree (f : Flag) (l : Line) : (l.latch f).demandsAgree ↔ l.demandsAgree := Iff.rfl
@[simp] theorem Line.setMark_demandsAgree (l : Line) : l.setMark.demandsAgree ↔ l.demandsAgree := Iff.rfl
@[simp] theorem Line.reference_demandsAgree (l : Line) : l.reference.demandsAgree ↔ l.demandsAgree := Iff.rfl

theorem driveDemand_eq_zero (p : Profile) {x : LineState} (h : x.drivePowered = false) : driveDemand p x = 0 := by
  cases x with
  | deploying | hauling | recovering | slacking | rewinding => cases h
  | _ => rfl

/-- The sign kept for the direction lead is that of a drive demand set other than 0 (R15). -/
theorem Line.setDrive_heaving (d : Int) (l : Line) (h : d ≠ 0) : (l.setDrive d).sense.heaving = decide (d < 0) :=
  if_neg h

theorem Sense.count_heaving (d : Int) (u : Sense) : (u.count d).heaving = u.heaving := by
  unfold Sense.count
  split <;> rfl

/-! ### Entering a state -/

/-- On entry to a state the demands become those of the state (R38), whatever they were. -/
@[simp] theorem Line.enter_demandsAgree (x : LineState) (r : CommandRecord) (l : Line) :
    (l.enter x r).demandsAgree := by
  unfold Line.enter
  split <;> exact ⟨rfl, rfl, rfl, Line.setDrive_heaving _ _⟩

@[simp] theorem Line.enterFaulted_demandsAgree (c : Option FaultCause) (l : Line) : (l.enterFaulted c).demandsAgree :=
  Line.enter_demandsAgree .faulted {} l

@[simp] theorem Line.slip_demandsAgree (l : Line) : l.slip.demandsAgree := Line.enter_demandsAgree ..

@[simp] theorem Line.goRewind_demandsAgree (r : CommandRecord) (l : Line) : (l.goRewind r).demandsAgree := by
  unfold Line.goRewind
  split <;> simp

@[simp] theorem Line.derive_demandsAgree (fitted : Bool) (l : Line) : (l.derive fitted).demandsAgree := by
  unfold Line.derive
  split_ifs <;> simp

theorem Line.engagingComplete_demandsAgree (b : BerthAction) (l : Line) : (l.engagingComplete b).demandsAgree := by
  unfold Line.engagingComplete
  split_ifs <;> simp

theorem Line.openingComplete_demandsAgree (b : BerthAction) (l : Line) : (l.openingComplete b).demandsAgree := by
  unfold Line.openingComplete
  split <;> simp

/-- A profile that comes into force under a line whose brake and hook demands are those of its state: a drive-powered
line takes the new speed of its state (R38), and any other has the drive demand 0 under every profile. -/
theorem Line.newSpeed_demandsAgree {l : Line} (brake : l.control.brake = brakeDemand l.control.state)
    (hook : l.control.hookDemand = hookDemandOf l.control.state)
    (still : l.control.state.drivePowered = false → l.control.drive = 0) :
    (if l.control.state.drivePowered then l.setDrive (driveDemand l.applied l.control.state) else l).demandsAgree := by
  split
  · exact ⟨rfl, brake, hook, Line.setDrive_heaving _ _⟩
  next h =>
    have unpowered : l.control.state.drivePowered = false := by simpa using h
    have zero := still unpowered
    exact ⟨zero.trans (driveDemand_eq_zero _ unpowered).symm, brake, hook, fun hd => absurd zero hd⟩

/-! ### The operations on a line that agrees -/

section
variable {l : Line}

/-- A line in a state without drive has the drive demand 0 (R38). -/
theorem Line.demandsAgree.still (h : l.demandsAgree) (hx : l.control.state.drivePowered = false) :
    l.control.drive = 0 := by
  obtain ⟨drive, -⟩ := h
  rw [drive, driveDemand_eq_zero _ hx]

/-- Of the Line Sense Unit's items the demands read the sign kept for the direction lead alone. -/
theorem Line.demandsAgree.senseItems (h : l.demandsAgree) {u : Sense} (hu : u.heaving = l.sense.heaving) :
    Line.demandsAgree { l with sense := u } := by
  obtain ⟨drive, brake, hook, sign⟩ := h
  exact ⟨drive, brake, hook, fun hd => hu.trans (sign hd)⟩

theorem Line.demandsAgree.fault (h : l.demandsAgree) (c : FaultCause) : (l.fault c).demandsAgree := by
  unfold Line.fault
  split_ifs <;> simp [h]

theorem Line.demandsAgree.hookReport (h : l.demandsAgree) (b : BerthAction) (old new : HookPos) :
    (l.hookReport b old new).demandsAgree := by
  have fault := h.fault .hook
  unfold Line.hookReport
  generalize l.control.state = x
  cases x with
  | engaging =>
    dsimp only
    split_ifs
    exacts [Line.engagingComplete_demandsAgree b l, fault, h]
  | opening =>
    dsimp only
    split_ifs
    exacts [Line.openingComplete_demandsAgree b l, fault, h]
  | starting | notFitted => exact h
  | _ =>
    dsimp only
    split_ifs
    exacts [fault, h]

theorem Line.demandsAgree.stowedReport (h : l.demandsAgree) : l.stowedReport.demandsAgree := by
  unfold Line.stowedReport
  split <;> simp [h]

theorem Line.demandsAgree.driveFaultReport (h : l.demandsAgree) : l.driveFaultReport.demandsAgree := by
  unfold Line.driveFaultReport
  split
  · exact h
  · exact h
  · exact h.fault .drive

theorem Line.demandsAgree.sensorFaultReport (h : l.demandsAgree) : l.sensorFaultReport.demandsAgree := by
  unfold Line.sensorFaultReport
  split
  · exact h
  · exact h
  · exact h.fault .sensor

theorem Line.demandsAgree.countReport (h : l.demandsAgree) (capacity : Nat) (d : Int) (limit : Bool) :
    (l.countReport capacity d limit).demandsAgree := by
  unfold Line.countReport
  extract_lets l1 _ l2 l3
  have latched : l1.demandsAgree := by unfold l1; split <;> exact h
  have counted : l2.demandsAgree := by unfold l2; split <;> exact latched
  have ended : l3.demandsAgree := by unfold l3; split <;> exact counted
  split
  · exact ended.fault .payoutEnd
  · split
    · exact Line.enter_demandsAgree ..
    · split
      · exact Line.enter_demandsAgree ..
      · exact counted

theorem Line.demandsAgree.renderEntry (h : l.demandsAgree) (fired : Bool) : (l.renderEntry fired).demandsAgree := by
  unfold Line.renderEntry
  split_ifs <;> simp [h]

theorem Line.demandsAgree.recoverEntry (h : l.demandsAgree) (stopped fired : Bool) :
    (l.recoverEntry stopped fired).demandsAgree := by
  unfold Line.recoverEntry
  split_ifs <;> simp [h]

theorem Line.demandsAgree.slackReport (h : l.demandsAgree) : l.slackReport.demandsAgree := by
  unfold Line.slackReport
  dsimp only
  split
  · exact Line.enter_demandsAgree ..
  · exact h

theorem Line.demandsAgree.tensionReport (h : l.demandsAgree) (stopped : Bool) (o : TendOutcome) :
    (l.tensionReport stopped o).demandsAgree := by
  unfold Line.tensionReport
  generalize l.control.state = x
  cases x with
  | locked =>
    cases o with
    | none => exact h
    | fired d => cases d; exacts [h.renderEntry true, h.recoverEntry stopped true]
    | standing d => cases d; exacts [h.renderEntry false, h.recoverEntry stopped false]
  | rendering | recovering | hauling =>
    dsimp only
    split <;> simp [h]
  | slacking => exact h.slackReport
  | deploying | rewinding =>
    dsimp only
    split
    exacts [h.fault .snag, h]
  | slipping =>
    dsimp only
    split
    · split <;> simp
    · exact h
  | _ => exact h

theorem Line.demandsAgree.tripReport (h : l.demandsAgree) : l.tripReport.demandsAgree := by
  unfold Line.tripReport
  generalize l.control.state = x
  cases x with
  | hauling | locked | rendering | recovering | held | slacking => exact Line.slip_demandsAgree _
  | faulted =>
    dsimp only
    split <;> simp [h]
  | _ => exact h

theorem Line.demandsAgree.inhibitOnset (h : l.demandsAgree) : l.inhibitOnset.demandsAgree := by
  unfold Line.inhibitOnset
  split <;> simp [h]

theorem Line.demandsAgree.halt (h : l.demandsAgree) : l.halt.demandsAgree := by
  unfold Line.halt
  generalize l.control.state = x
  cases x with
  | deploying | rewinding | hauling | slacking => exact Line.enter_demandsAgree ..
  | _ => exact h

theorem Line.demandsAgree.stopOnset (h : l.demandsAgree) : l.stopOnset.demandsAgree := by
  unfold Line.stopOnset
  split <;> simp [h]

theorem Line.demandsAgree.queueHead (h : l.demandsAgree) : l.queueHead.demandsAgree := by
  unfold Line.queueHead
  split <;> simp [h]

theorem Line.demandsAgree.stallExpire (h : l.demandsAgree) : l.stallExpire.demandsAgree := by
  unfold Line.stallExpire
  split
  exacts [h.fault .stall, h]

theorem Line.demandsAgree.hookExpire (h : l.demandsAgree) : l.hookExpire.demandsAgree := by
  unfold Line.hookExpire
  split
  exacts [h.fault .hook, h]

theorem Line.demandsAgree.deriveStarting (h : l.demandsAgree) (fitted : Bool) :
    (l.deriveStarting fitted).demandsAgree := by
  unfold Line.deriveStarting
  split <;> simp [h]

theorem Line.demandsAgree.closeStarting (h : l.demandsAgree) (fitted : Bool) :
    (l.closeStarting fitted).demandsAgree := by
  unfold Line.closeStarting
  dsimp only
  split_ifs
  exacts [Line.derive_demandsAgree fitted _, h, h]

theorem Line.demandsAgree.closeDeploy (h : l.demandsAgree) : l.closeDeploy.demandsAgree := by
  unfold Line.closeDeploy
  split <;> simp [h]

theorem Line.demandsAgree.closeStall (h : l.demandsAgree) : l.closeStall.demandsAgree := by
  have counted :
      Line.demandsAgree { l with control := { l.control with stallCounter := l.control.stallCounter + 1 } } := h
  unfold Line.closeStall
  dsimp only
  split_ifs
  exacts [counted.stallExpire, counted, h]

theorem Line.demandsAgree.close (h : l.demandsAgree) (fitted : Bool) : (l.close fitted).demandsAgree :=
  (h.closeStarting fitted).closeDeploy.closeStall

theorem Line.demandsAgree.useJoined (h : l.demandsAgree) (p : Profile) : (l.useJoined p).demandsAgree := by
  have still := h.still
  obtain ⟨-, brake, hook, -⟩ := h
  exact Line.newSpeed_demandsAgree (l := { l with applied := p, joined := none }) brake hook still

theorem Line.demandsAgree.applyProfile (h : l.demandsAgree) (p : Profile) : (l.applyProfile p).demandsAgree := by
  have still := h.still
  obtain ⟨-, brake, hook, -⟩ := h
  unfold Line.applyProfile
  extract_lets _ _ _ l'
  split
  · exact Line.enter_demandsAgree ..
  · split
    · exact Line.enter_demandsAgree ..
    · exact Line.newSpeed_demandsAgree (l := l') brake hook still

theorem Line.demandsAgree.takeSetup (h : l.demandsAgree) (old new : LineSetup) (p : Profile) :
    (l.takeSetup old new p).demandsAgree := by
  have unfitted : l.unfit.demandsAgree := Line.enter_demandsAgree .notFitted {} l
  have fitted : (l.fit p).demandsAgree := Line.enter_demandsAgree .starting {} _
  unfold Line.takeSetup
  dsimp only
  split_ifs <;> assumption

end

/-! ### Every move, every step -/

/-- Every move keeps a line's demands those of its state: it enters a state, brings a profile into force, or touches
nothing that the demands read. -/
theorem LineMove.demandsAgree {a b : Line} (m : LineMove a b) (h : a.demandsAgree) : b.demandsAgree := by
  cases m with
  | hookReport b old new => exact h.hookReport b old new
  | stowedReport => exact h.stowedReport
  | driveFaultReport => exact h.driveFaultReport
  | sensorFaultReport => exact h.sensorFaultReport
  | count d => exact h.senseItems (Sense.count_heaving d a.sense)
  | countReport capacity d limit => exact h.countReport capacity d limit
  | tensionReport stopped o => exact h.tensionReport stopped o
  | tripReport => exact h.tripReport
  | inhibitOnset => exact h.inhibitOnset
  | close fitted => exact h.close fitted
  | hookExpire => exact h.hookExpire
  | stallExpire => exact h.stallExpire
  | deriveStarting fitted => exact h.deriveStarting fitted
  | halt => exact h.halt
  | stopOnset => exact h.stopOnset
  | queueHead => exact h.queueHead
  | deploy | engage | haul | holdClosed | holdOpened | release => exact Line.enter_demandsAgree ..
  | lock => exact (Line.setMark_demandsAgree _).2 (Line.enter_demandsAgree ..)
  | rewind => exact Line.goRewind_demandsAgree ..
  | derive => exact Line.derive_demandsAgree ..
  | applyProfile p => exact h.applyProfile p
  | useJoined p => exact h.useJoined p
  | takeSetup old new p => exact h.takeSetup old new p
  | powerOn | assertion | restart => exact ⟨rfl, rfl, rfl, fun h0 => absurd rfl h0⟩
  | switches | load | skip | tension | tending | watches | warnReport | inhibit | hookTimer | mark | clear | afterClear
    | profileDue => exact h

end Sys2Proof.Machine

namespace Sys2Proof

open Machine

/-- Settles O52: a step takes each line through moves alone (`step_linesMove`), and every move keeps the line's demands
those of its state (`LineMove.demandsAgree`). -/
theorem demandsFollowState : Obligations.DemandsFollowState := by
  unfold Obligations.DemandsFollowState
  intro s t hs hstep
  rw [State.demandsAgree_iff] at hs ⊢
  exact step_keeps_lines (fun _ _ => LineMove.demandsAgree) hstep hs

end Sys2Proof

/-! PROOFS. What the rule of the haul inhibits (R91) reads and sets of a line: its guard, which every operation on a
line keeps, but for the Protection Unit's latches and inhibits, a clear of flags, and the resets. -/

namespace Sys2Proof.Machine

/-! ### The flag word -/

/-- The word of one flag holds that flag alone (R172). -/
theorem Flag.mask_getLsbD (f g : Flag) : f.mask.getLsbD g.bit = decide (f = g) := by
  cases f <;> cases g <;> rfl

theorem Line.has_latch (f g : Flag) (l : Line) : (l.latch f).has g = (l.has g || decide (f = g)) := by
  simp only [Line.has, Line.latch, flagSet, BitVec.getLsbD_or, Flag.mask_getLsbD]

theorem Line.has_clear (mask : BitVec 10) (g : Flag) (l : Line) :
    (l.clear mask).has g = (l.has g && !flagSet mask g) := by
  have inWord : g.bit < 10 := by cases g <;> decide
  simp [Line.has, Line.clear, flagSet, inWord]

/-! ### The guard of a line -/

/-- What R91 relates of a line: whether its haul inhibit is in force, and whether WARN or TRIP is latched on it. -/
def Line.guard (l : Line) : Bool × Bool := (l.protection.inhibit, l.overloaded)

theorem Line.guard_eq_iff (a b : Line) :
    a.guard = b.guard ↔ a.protection.inhibit = b.protection.inhibit ∧ a.overloaded = b.overloaded :=
  Prod.ext_iff

@[simp] theorem Line.guard_ite (c : Prop) [Decidable c] (a b : Line) :
    (if c then a else b).guard = if c then a.guard else b.guard :=
  apply_ite Line.guard c a b

/-- A flag other than WARN and TRIP is no concern of the guard. -/
theorem Line.latch_guard {f : Flag} (hw : f ≠ .warn) (ht : f ≠ .trip) (l : Line) : (l.latch f).guard = l.guard :=
  (Line.guard_eq_iff _ _).2 ⟨rfl, by simp [Line.overloaded, Line.has_latch, hw, ht]⟩

@[simp] theorem Line.latch_allow_guard (l : Line) : (l.latch .allow).guard = l.guard :=
  Line.latch_guard (f := .allow) nofun nofun l
@[simp] theorem Line.latch_limit_guard (l : Line) : (l.latch .limit).guard = l.guard :=
  Line.latch_guard (f := .limit) nofun nofun l

@[simp] theorem Line.latch_fault_guard (c : FaultCause) (l : Line) : (l.latch c.flag).guard = l.guard :=
  Line.latch_guard (by cases c <;> nofun) (by cases c <;> nofun) l

/-- TRIP latched on a line that has WARN leaves it overloaded as it was. -/
theorem Line.latch_trip_guard {l : Line} (h : l.has .warn = true) : (l.latch .trip).guard = l.guard :=
  (Line.guard_eq_iff _ _).2 ⟨rfl, by simp [Line.overloaded, Line.has_latch, h]⟩

/-- A clear that names neither WARN nor TRIP leaves the guard (R166). -/
theorem Line.clear_guard {mask : BitVec 10} (hw : flagSet mask .warn = false) (ht : flagSet mask .trip = false)
    (l : Line) : (l.clear mask).guard = l.guard :=
  (Line.guard_eq_iff _ _).2 ⟨rfl, by simp [Line.overloaded, Line.has_clear, hw, ht]⟩

/-! ### Entering a state -/

@[simp] theorem Line.advanceHookTimer_guard (l : Line) : l.advanceHookTimer.guard = l.guard := rfl
@[simp] theorem Line.setDrive_guard (d : Int) (l : Line) : (l.setDrive d).guard = l.guard := rfl
@[simp] theorem Line.setMark_guard (l : Line) : l.setMark.guard = l.guard := rfl
@[simp] theorem Line.reference_guard (l : Line) : l.reference.guard = l.guard := rfl
@[simp] theorem Line.setWatches_guard (warn trip : Nat) (l : Line) : (l.setWatches warn trip).guard = l.guard := rfl

@[simp] theorem Line.enter_guard (x : LineState) (r : CommandRecord) (l : Line) : (l.enter x r).guard = l.guard := by
  unfold Line.enter
  split <;> rfl

@[simp] theorem Line.enterFaulted_guard (c : Option FaultCause) (l : Line) : (l.enterFaulted c).guard = l.guard :=
  Line.enter_guard .faulted {} l

@[simp] theorem Line.fault_guard (c : FaultCause) (l : Line) : (l.fault c).guard = l.guard := by
  unfold Line.fault
  split_ifs <;> simp

@[simp] theorem Line.slip_guard (l : Line) : l.slip.guard = l.guard := Line.enter_guard ..

@[simp] theorem Line.goRewind_guard (r : CommandRecord) (l : Line) : (l.goRewind r).guard = l.guard := by
  unfold Line.goRewind
  split <;> simp

@[simp] theorem Line.derive_guard (fitted : Bool) (l : Line) : (l.derive fitted).guard = l.guard := by
  have drive (l : Line) : (l.latch .drive).guard = l.guard := Line.latch_fault_guard .drive l
  have hook (l : Line) : (l.latch .hook).guard = l.guard := Line.latch_fault_guard .hook l
  unfold Line.derive
  split_ifs <;> simp [drive, hook]

/-! ### Reports -/

@[simp] theorem Line.engagingComplete_guard (b : BerthAction) (l : Line) : (l.engagingComplete b).guard = l.guard := by
  unfold Line.engagingComplete
  split_ifs <;> simp

@[simp] theorem Line.openingComplete_guard (b : BerthAction) (l : Line) : (l.openingComplete b).guard = l.guard := by
  unfold Line.openingComplete
  split <;> simp

@[simp] theorem Line.hookReport_guard (b : BerthAction) (old new : HookPos) (l : Line) :
    (l.hookReport b old new).guard = l.guard := by
  unfold Line.hookReport
  split <;> simp

@[simp] theorem Line.stowedReport_guard (l : Line) : l.stowedReport.guard = l.guard := by
  unfold Line.stowedReport
  split <;> simp

@[simp] theorem Line.driveFaultReport_guard (l : Line) : l.driveFaultReport.guard = l.guard := by
  unfold Line.driveFaultReport
  split
  · rfl
  · exact Line.latch_fault_guard .drive l
  · exact Line.fault_guard .drive l

@[simp] theorem Line.sensorFaultReport_guard (l : Line) : l.sensorFaultReport.guard = l.guard := by
  unfold Line.sensorFaultReport
  split <;> simp

@[simp] theorem Line.countReport_guard (capacity : Nat) (d : Int) (limit : Bool) (l : Line) :
    (l.countReport capacity d limit).guard = l.guard := by
  unfold Line.countReport
  extract_lets l1 _ l2 l3
  have latched : l1.guard = l.guard := by unfold l1; split <;> simp
  have counted : l2.guard = l.guard := by unfold l2; split <;> exact latched
  have ended : l3.guard = l.guard := by unfold l3; split <;> simp [counted]
  split_ifs <;> simp [counted, ended]

@[simp] theorem Line.renderEntry_guard (fired : Bool) (l : Line) : (l.renderEntry fired).guard = l.guard := by
  unfold Line.renderEntry
  split_ifs <;> simp

@[simp] theorem Line.recoverEntry_guard (stopped fired : Bool) (l : Line) :
    (l.recoverEntry stopped fired).guard = l.guard := by
  unfold Line.recoverEntry
  split_ifs <;> simp

@[simp] theorem Line.slackReport_guard (l : Line) : l.slackReport.guard = l.guard := by
  unfold Line.slackReport
  dsimp only
  split
  · exact Line.enter_guard ..
  · rfl

@[simp] theorem Line.tensionReport_guard (stopped : Bool) (o : TendOutcome) (l : Line) :
    (l.tensionReport stopped o).guard = l.guard := by
  unfold Line.tensionReport
  generalize l.control.state = x
  cases x with
  | locked =>
    cases o with
    | none => rfl
    | fired d => cases d <;> simp
    | standing d => cases d <;> simp
  | slipping => cases l.control.record.returnTo <;> simp
  | _ => simp

/-- A trip report comes to a line that has WARN (R86): it stays overloaded. -/
theorem Line.tripReport_guard {l : Line} (h : l.has .warn = true) : l.tripReport.guard = l.guard := by
  refine Eq.trans ?_ (Line.latch_trip_guard h)
  unfold Line.tripReport
  generalize l.control.state = x
  cases x with
  | hauling | locked | rendering | recovering | held | slacking => exact Line.slip_guard _
  | faulted => simp
  | _ => rfl

@[simp] theorem Line.inhibitOnset_guard (l : Line) : l.inhibitOnset.guard = l.guard := by
  unfold Line.inhibitOnset
  split <;> simp

@[simp] theorem Line.halt_guard (l : Line) : l.halt.guard = l.guard := by
  unfold Line.halt
  generalize l.control.state = x
  cases x with
  | deploying | rewinding | hauling | slacking => exact Line.enter_guard ..
  | _ => rfl

@[simp] theorem Line.stopOnset_guard (l : Line) : l.stopOnset.guard = l.guard := by
  unfold Line.stopOnset
  split <;> simp

@[simp] theorem Line.queueHead_guard (l : Line) : l.queueHead.guard = l.guard := by
  unfold Line.queueHead
  split <;> simp

/-! ### The close of a sample event, expiries, profiles and setups -/

@[simp] theorem Line.stallExpire_guard (l : Line) : l.stallExpire.guard = l.guard := by
  unfold Line.stallExpire
  split <;> simp

@[simp] theorem Line.hookExpire_guard (l : Line) : l.hookExpire.guard = l.guard := by
  unfold Line.hookExpire
  split <;> simp

@[simp] theorem Line.deriveStarting_guard (fitted : Bool) (l : Line) : (l.deriveStarting fitted).guard = l.guard := by
  unfold Line.deriveStarting
  split <;> simp

@[simp] theorem Line.closeStarting_guard (fitted : Bool) (l : Line) : (l.closeStarting fitted).guard = l.guard := by
  unfold Line.closeStarting
  dsimp only
  split_ifs
  · exact Line.derive_guard ..
  · rfl
  · rfl

@[simp] theorem Line.closeDeploy_guard (l : Line) : l.closeDeploy.guard = l.guard := by
  unfold Line.closeDeploy
  split <;> simp

@[simp] theorem Line.closeStall_guard (l : Line) : l.closeStall.guard = l.guard := by
  unfold Line.closeStall
  dsimp only
  split_ifs
  · exact Line.stallExpire_guard _
  · rfl
  · rfl

@[simp] theorem Line.close_guard (fitted : Bool) (l : Line) : (l.close fitted).guard = l.guard := by
  simp [Line.close]

@[simp] theorem Line.useJoined_guard (p : Profile) (l : Line) : (l.useJoined p).guard = l.guard := by
  unfold Line.useJoined
  dsimp only
  split <;> rfl

@[simp] theorem Line.applyProfile_guard (p : Profile) (l : Line) : (l.applyProfile p).guard = l.guard := by
  unfold Line.applyProfile
  extract_lets _ _ _ l'
  have zeroed : l'.guard = l.guard := rfl
  split_ifs <;> simp [zeroed]

@[simp] theorem Line.unfit_guard (l : Line) : l.unfit.guard = l.guard := Line.enter_guard .notFitted {} l

@[simp] theorem Line.fit_guard (p : Profile) (l : Line) : (l.fit p).guard = l.guard := Line.enter_guard .starting {} _

@[simp] theorem Line.takeSetup_guard (old new : LineSetup) (p : Profile) (l : Line) :
    (l.takeSetup old new p).guard = l.guard := by
  have joined (a : Line) : Line.guard { a with joined := some p, profileDue := false } = a.guard := rfl
  unfold Line.takeSetup
  dsimp only
  split_ifs <;> simp [joined]

end Sys2Proof.Machine

/-! PROOFS. What every event of the running part does to the haul inhibits: it keeps the guards of the lines and what
R91 reads of the Group Table, or ends with a re-evaluation, or restarts the part (R84, R92, R105, R106, R166, R170). -/

namespace Sys2Proof.Machine

/-! ### Keeping the inhibits in agreement -/

/-- What R91 reads of the Group Table is as it was: the fitted lines, their groups and the protection scope. -/
structure SameScope (s t : State) : Prop where
  fitted : ∀ n, t.fitted n = s.fitted n
  group : ∀ n, (t.setup n).group = (s.setup n).group
  scope : t.table.settings.scope = s.table.settings.scope

theorem SameScope.of_table {s t : State} (h : t.table = s.table) : SameScope s t where
  fitted n := by simp only [State.fitted, State.setup, h]
  group n := by simp only [State.setup, h]
  scope := by rw [h]

/-- The inhibits agree where they did, while no guard and nothing of their scopes changes (R91). -/
theorem inhibitsAgree_of_guards {s t : State} (scope : SameScope s t)
    (guard : ∀ n, (t.line n).guard = (s.line n).guard) (h : s.inhibitsAgree) : t.inhibitsAgree := by
  rw [inhibitsAgree_iff] at h ⊢
  intro n
  have inhibit (m : LineNo) : (t.line m).protection.inhibit = (s.line m).protection.inhibit :=
    congrArg Prod.fst (guard m)
  have overloaded (m : LineNo) : (t.line m).overloaded = (s.line m).overloaded := congrArg Prod.snd (guard m)
  rw [inhibit, h n]
  simp only [State.inhibitOf, scope.fitted, scope.group, scope.scope, overloaded]

/-- With no inhibit in force, and neither WARN nor TRIP latched on any line, the inhibits agree under every setup. -/
theorem inhibitsAgree_of_clear {s : State} (h : ∀ n, (s.line n).guard = (false, false)) : s.inhibitsAgree := by
  rw [inhibitsAgree_iff]
  intro n
  have inhibit : (s.line n).protection.inhibit = false := congrArg Prod.fst (h n)
  have overloaded (m : LineNo) : (s.line m).overloaded = false := congrArg Prod.snd (h m)
  simp [State.inhibitOf, inhibit, overloaded]

/-- A re-evaluation leaves the inhibits in agreement, whatever they were (R92). -/
theorem reevaluateInhibits_inhibitsAgree (own : Option LineNo) (s : State) : (s.reevaluateInhibits own).inhibitsAgree :=
  (inhibitsAgree_iff _).2 (reevaluateInhibits_agree own s)

/-- `t` has the supply and the reset input of `s`, and its inhibits agree with the flags where those of `s` did. -/
structure InhibitsKept (s t : State) : Prop where
  powered : t.powered = s.powered
  resetAsserted : t.resetAsserted = s.resetAsserted
  agree : s.inhibitsAgree → t.inhibitsAgree

theorem InhibitsKept.refl (s : State) : InhibitsKept s s := ⟨rfl, rfl, id⟩

theorem InhibitsKept.trans {s t u : State} (h : InhibitsKept s t) (h' : InhibitsKept t u) : InhibitsKept s u :=
  ⟨h'.powered.trans h.powered, h'.resetAsserted.trans h.resetAsserted, h'.agree ∘ h.agree⟩

theorem InhibitsKept.foldl {α : Type} {f : State → α → State} (hf : ∀ s a, InhibitsKept s (f s a)) :
    ∀ (l : List α) (s : State), InhibitsKept s (l.foldl f s)
  | [], s => .refl s
  | a :: l, s => (hf s a).trans (InhibitsKept.foldl hf l (f s a))

/-- An event that goes one of two ways under a condition. -/
theorem InhibitsKept.ite {c : Prop} [Decidable c] {s t u : State} (ht : c → InhibitsKept s t)
    (hu : ¬c → InhibitsKept s u) : InhibitsKept s (if c then t else u) := by
  split
  next h => exact ht h
  next h => exact hu h

/-- A change of neither the lines nor the Group Table keeps the inhibits. -/
theorem InhibitsKept.of_lines {s t : State} (powered : t.powered = s.powered)
    (resetAsserted : t.resetAsserted = s.resetAsserted) (table : t.table = s.table)
    (line : ∀ n, t.line n = s.line n) : InhibitsKept s t :=
  ⟨powered, resetAsserted, inhibitsAgree_of_guards (.of_table table) fun n => by rw [line n]⟩

/-- A change of the Group Table that leaves the scopes keeps the inhibits. -/
theorem InhibitsKept.of_scope {s t : State} (powered : t.powered = s.powered)
    (resetAsserted : t.resetAsserted = s.resetAsserted) (scope : SameScope s t) (line : ∀ n, t.line n = s.line n) :
    InhibitsKept s t :=
  ⟨powered, resetAsserted, inhibitsAgree_of_guards scope fun n => by rw [line n]⟩

theorem AuthorityOnly.inhibitsKept {s t : State} (h : AuthorityOnly s t) : InhibitsKept s t :=
  .of_lines h.powered h.resetAsserted h.table h.line

theorem LinkOnly.inhibitsKept {st : Station} {s t : State} (h : LinkOnly st s t) : InhibitsKept s t :=
  .of_lines (by rw [h.1]) (by rw [h.1]) (by rw [h.1]) h.line

theorem putLine_inhibitsKept {n : LineNo} {l : Line} {s : State} (h : l.guard = (s.line n).guard) :
    InhibitsKept s (s.putLine n l) := by
  refine ⟨rfl, rfl, inhibitsAgree_of_guards (.of_table rfl) fun m => ?_⟩
  rw [State.line_putLine]
  split
  next hm => rw [hm, h]
  next => rfl

/-- What the Line Sense Unit writes of a line reaches no guard. -/
theorem putSense_inhibitsKept (n : LineNo) (u : Sense) (s : State) :
    InhibitsKept s (s.putLine n { s.line n with sense := u }) := putLine_inhibitsKept rfl

theorem onLine_inhibitsKept {n : LineNo} {f : Line → Line} {s : State} (h : (f (s.line n)).guard = (s.line n).guard) :
    InhibitsKept s (s.onLine n f) := by
  have beside := onLine_besideLines n f s
  refine ⟨beside.powered, beside.resetAsserted, inhibitsAgree_of_guards (.of_table beside.table) fun m => ?_⟩
  rw [onLine_line]
  split
  next hm => rw [hm, h]
  next => rfl

theorem onLink_inhibitsKept (st : Station) (f : Link → Link) (s : State) : InhibitsKept s (s.onLink st f) :=
  (onLink_linkOnly st f s).inhibitsKept

/-- Whatever a change does to flags, inhibits and scopes, a re-evaluation behind it keeps the inhibits in agreement. -/
theorem reevaluateInhibits_inhibitsKept (own : Option LineNo) {s t : State} (powered : t.powered = s.powered)
    (resetAsserted : t.resetAsserted = s.resetAsserted) : InhibitsKept s (t.reevaluateInhibits own) :=
  have only := (reevaluateInhibits_spec own t).1
  ⟨only.powered.trans powered, only.resetAsserted.trans resetAsserted,
    fun _ => reevaluateInhibits_inhibitsAgree own t⟩

/-! ### The stages of a sample event and of a count event -/

/-- After a latch of WARN or TRIP the inhibits agree again (R84 stage 3). -/
theorem afterLatch_inhibitsAgree (n : LineNo) (s : State) : (s.afterLatch n).inhibitsAgree := by
  have agree := reevaluateInhibits_inhibitsAgree (some n) s
  unfold State.afterLatch
  dsimp only
  split
  · exact (onLine_inhibitsKept (Line.inhibitOnset_guard _)).agree agree
  · exact agree

/-- The protection stage latches WARN or TRIP only with a re-evaluation behind it (R84); a TRIP that already stands, or
one on a line with WARN, changes no guard. -/
theorem protectionStage_inhibitsKept (n : LineNo) (s : State) : InhibitsKept s (s.protectionStage n) := by
  have stage := protectionStage_stageOnly n s
  refine ⟨stage.powered, stage.resetAsserted, fun agree => ?_⟩
  have watches (warn trip : Nat) : (s.putLine n ((s.line n).setWatches warn trip)).inhibitsAgree :=
    (putLine_inhibitsKept (Line.setWatches_guard _ _ _)).agree agree
  unfold State.protectionStage
  dsimp only
  split
  next warned =>
    split
    · exact watches _ _
    · split
      · refine (onLine_inhibitsKept (Line.tripReport_guard ?_)).agree (watches _ _)
        rw [State.line_putLine_self]
        exact warned
      · exact afterLatch_inhibitsAgree n _
  · split
    · exact afterLatch_inhibitsAgree n _
    · exact watches _ _

theorem evaluated_inhibitsKept (n : LineNo) (sample : BitVec 12) (s : State) :
    InhibitsKept s (s.evaluated n sample) := by
  have formed (e : Tension) : InhibitsKept s (s.putLine n { s.line n with tension := e }) := putLine_inhibitsKept rfl
  exact (formed _).trans (onLine_inhibitsKept (Line.tensionReport_guard _ _ _))

theorem tensionStage_inhibitsKept (n : LineNo) (sample : BitVec 12) (s : State) :
    InhibitsKept s (s.tensionStage n sample) := by
  cases hv : sampleValid sample with
  | false => rw [tensionStage_invalid n sample s hv]; exact .refl s
  | true =>
    rw [tensionStage_valid n sample s hv]
    exact (evaluated_inhibitsKept n sample s).trans (protectionStage_inhibitsKept n _)

theorem sensorStage_inhibitsKept (n : LineNo) (sample : BitVec 12) (s : State) :
    InhibitsKept s (s.sensorStage n sample) := by
  unfold State.sensorStage
  dsimp only
  split
  · exact (putSense_inhibitsKept n _ s).trans (onLine_inhibitsKept (Line.sensorFaultReport_guard _))
  · exact putSense_inhibitsKept n _ s

theorem appendQueue_inhibitsKept (ns : List LineNo) (s : State) : InhibitsKept s (s.appendQueue ns) := by
  rw [appendQueue_spec]
  exact .of_lines rfl rfl rfl fun _ => rfl

theorem hookChange_inhibitsKept (n : LineNo) (old new : HookPos) (s : State) :
    InhibitsKept s (s.hookChange n old new) := by
  have reported : InhibitsKept s (s.onLine n (Line.hookReport s.berth old new)) :=
    onLine_inhibitsKept (Line.hookReport_guard _ _ _ _)
  unfold State.hookChange
  dsimp only
  split
  · exact reported.trans (appendQueue_inhibitsKept _ _)
  · exact reported

theorem switchStage_inhibitsKept (n : LineNo) (pins : SwitchPins) (s : State) :
    InhibitsKept s (s.switchStage n pins) := by
  unfold State.switchStage
  extract_lets old new _ s1 s2 s3
  have read : InhibitsKept s s1 := putSense_inhibitsKept n _ s
  have hook : InhibitsKept s s2 := .ite (fun _ => read) fun _ => read.trans (hookChange_inhibitsKept n _ _ _)
  have stowed : InhibitsKept s s3 :=
    .ite (fun _ => hook.trans (onLine_inhibitsKept (Line.stowedReport_guard _))) fun _ => hook
  exact .ite (fun _ => stowed.trans (onLine_inhibitsKept (Line.driveFaultReport_guard _))) fun _ => stowed

theorem profileStage_inhibitsKept (n : LineNo) (s : State) : InhibitsKept s (s.profileStage n) := by
  unfold State.profileStage
  split
  · exact onLine_inhibitsKept (Line.applyProfile_guard _ _)
  · split
    · exact onLine_inhibitsKept (Line.useJoined_guard _ _)
    · exact .refl s

theorem sampleEvent_inhibitsKept (n : LineNo) (sample : BitVec 12) (pins : SwitchPins) (s : State) :
    InhibitsKept s (s.sampleEvent n sample pins) := by
  have timed : InhibitsKept s (s.putLine n (s.line n).advanceHookTimer) :=
    putLine_inhibitsKept (Line.advanceHookTimer_guard _)
  refine InhibitsKept.trans ?_ (onLine_inhibitsKept (Line.close_guard _ _))
  exact .ite (fun _ => (((timed.trans (profileStage_inhibitsKept n _)).trans (switchStage_inhibitsKept n pins _)).trans
    (sensorStage_inhibitsKept n sample _)).trans (tensionStage_inhibitsKept n sample _)) fun _ => timed

theorem countEvent_inhibitsKept (n : LineNo) (step : EncoderStep) (s : State) :
    InhibitsKept s (s.countEvent n step) := by
  unfold State.countEvent
  dsimp only
  split
  · split
    · exact putSense_inhibitsKept n _ s
    · exact (putSense_inhibitsKept n _ s).trans (onLine_inhibitsKept (Line.countReport_guard _ _ _ _))
  · exact .refl s

/-! ### Line commands -/

theorem placeReply_inhibitsKept (st : Station) (kind : Byte) (body : List Byte) (s : State) :
    InhibitsKept s (s.placeReply st kind body) := onLink_inhibitsKept st _ s

theorem takeLines_inhibitsKept {f : LineNo → State → State × ReplyCode} (hf : ∀ n s, InhibitsKept s (f n s).1) :
    ∀ (ns : List LineNo) (s : State), InhibitsKept s (takeLines f ns s).1
  | [], s => .refl s
  | n :: ns, s => (hf n s).trans (takeLines_inhibitsKept hf ns (f n s).1)

theorem lineCommand_inhibitsKept {f : (LineNo → Bool) → LineNo → State → State × ReplyCode}
    (hf : ∀ permit n s, InhibitsKept s (f permit n s).1) (st : Station) (kind lines : Byte) (s : State) :
    InhibitsKept s (s.lineCommand st kind lines f) :=
  .ite (fun _ => placeReply_inhibitsKept st _ _ s) fun _ =>
    ((takeLines_inhibitsKept (hf _) _ s).trans (recordWatched_authorityOnly st _ _).inhibitsKept).trans
      (placeReply_inhibitsKept st _ _ _)

/-- A line command turned away for a line leaves the state (R43). -/
theorem refused_inhibitsKept {c : Prop} [Decidable c] {s : State} {code : ReplyCode} {taken : State × ReplyCode}
    (h : InhibitsKept s taken.1) : InhibitsKept s (if c then (s, code) else taken).1 := by
  split
  · exact .refl s
  · exact h

/-- A line command taken for a line that keeps its guard (R43). -/
theorem doLine_inhibitsKept {n : LineNo} {f : Line → Line} {s : State} (h : (f (s.line n)).guard = (s.line n).guard) :
    InhibitsKept s (s.doLine n f).1 := onLine_inhibitsKept h

theorem deployLine_inhibitsKept (permit : LineNo → Bool) (n : LineNo) (s : State) :
    InhibitsKept s (deployLine permit n s).1 :=
  refused_inhibitsKept <| refused_inhibitsKept <| refused_inhibitsKept <| refused_inhibitsKept <|
    refused_inhibitsKept <| refused_inhibitsKept <| doLine_inhibitsKept (Line.enter_guard ..)

theorem engageLine_inhibitsKept (permit : LineNo → Bool) (n : LineNo) (s : State) :
    InhibitsKept s (engageLine permit n s).1 :=
  refused_inhibitsKept <| refused_inhibitsKept <| refused_inhibitsKept <| doLine_inhibitsKept (Line.enter_guard ..)

theorem lockLine_inhibitsKept (permit : LineNo → Bool) (n : LineNo) (s : State) :
    InhibitsKept s (lockLine permit n s).1 := by
  refine refused_inhibitsKept <| refused_inhibitsKept <| refused_inhibitsKept <| refused_inhibitsKept ?_
  split
  · exact doLine_inhibitsKept ((Line.setMark_guard _).trans (Line.enter_guard ..))
  · exact refused_inhibitsKept <| refused_inhibitsKept <| doLine_inhibitsKept (Line.enter_guard ..)

theorem holdLine_inhibitsKept (permit : LineNo → Bool) (n : LineNo) (s : State) :
    InhibitsKept s (holdLine permit n s).1 := by
  refine refused_inhibitsKept ?_
  generalize (s.line n).control.state = x
  cases x with
  | locked | rendering | recovering | hauling | slacking | deploying | rewinding =>
    exact doLine_inhibitsKept (Line.enter_guard ..)
  | _ => exact .refl s

theorem markLine_inhibitsKept (permit : LineNo → Bool) (n : LineNo) (s : State) :
    InhibitsKept s (Machine.markLine permit n s).1 := by
  refine refused_inhibitsKept ?_
  generalize (s.line n).control.state = x
  cases x with
  | locked | held => exact doLine_inhibitsKept (Line.setMark_guard _)
  | _ => exact .refl s

theorem releaseLine_inhibitsKept (thenRewind : Bool) (permit : LineNo → Bool) (n : LineNo) (s : State) :
    InhibitsKept s (releaseLine thenRewind permit n s).1 := by
  refine refused_inhibitsKept <| refused_inhibitsKept <| refused_inhibitsKept ?_
  generalize (s.line n).control.state = x
  cases x with
  | locked | rendering | recovering | held | hauling => exact doLine_inhibitsKept (Line.enter_guard ..)
  | _ => exact .refl s

theorem rewindLine_inhibitsKept (permit : LineNo → Bool) (n : LineNo) (s : State) :
    InhibitsKept s (rewindLine permit n s).1 :=
  refused_inhibitsKept <| refused_inhibitsKept <| refused_inhibitsKept <| refused_inhibitsKept <|
    doLine_inhibitsKept (Line.goRewind_guard _ _)

theorem resetLineOne_inhibitsKept (permit : LineNo → Bool) (n : LineNo) (s : State) :
    InhibitsKept s (resetLineOne permit n s).1 :=
  refused_inhibitsKept <| refused_inhibitsKept <| doLine_inhibitsKept (Line.derive_guard _ _)

theorem quickReleaseLine_inhibitsKept (st : Station) (permit : LineNo → Bool) (n : LineNo) (s : State) :
    InhibitsKept s (quickReleaseLine st permit n s).1 :=
  refused_inhibitsKept <| refused_inhibitsKept <| refused_inhibitsKept <| appendQueue_inhibitsKept [n] s

/-! ### Authority requests and clears -/

theorem takeGroups_inhibitsKept {f : GroupNo → State → State × ReplyCode}
    (hf : ∀ g s, InhibitsKept s (f g s).1) :
    ∀ (gs : List GroupNo) (s : State), InhibitsKept s (takeGroups f gs s).1
  | [], s => .refl s
  | g :: gs, s => (hf g s).trans (takeGroups_inhibitsKept hf gs (f g s).1)

theorem takeClaim_inhibitsKept (st : Station) (groups option : Byte) (s : State) :
    InhibitsKept s (takeClaim st groups option s) :=
  (takeGroups_inhibitsKept (fun g s => (setRecord_authorityOnly g _ s).inhibitsKept) _ s).trans
    (placeReply_inhibitsKept st _ _ _)

theorem yieldGroup_inhibitsKept (st : Station) (g : GroupNo) (s : State) : InhibitsKept s (yieldGroup st g s).1 := by
  unfold yieldGroup
  split
  · exact (removeEntry_authorityOnly st g s).inhibitsKept
  · exact .refl s

theorem takeYield_inhibitsKept (st : Station) (groups : Byte) (s : State) : InhibitsKept s (takeYield st groups s) :=
  (takeGroups_inhibitsKept (yieldGroup_inhibitsKept st) _ s).trans (placeReply_inhibitsKept st _ _ _)

/-- A clear of WARN or TRIP re-evaluates the inhibits; any other leaves the guard of the line (R92, R166). -/
theorem clearLine_inhibitsKept (st : Station) (flags : BitVec 16) (n : LineNo) (s : State) :
    InhibitsKept s (clearLine st flags n s).1 := by
  unfold clearLine
  dsimp only
  split
  · exact .refl s
  · split
    · exact .refl s
    · split
      · dsimp only
        exact reevaluateInhibits_inhibitsKept none rfl rfl
      next unnamed =>
        obtain ⟨warn, trip⟩ := Bool.or_eq_false_iff.1 (Bool.eq_false_iff.2 unnamed)
        exact putLine_inhibitsKept (Line.clear_guard warn trip _)

theorem clearLines_inhibitsKept (st : Station) (flags : BitVec 16) :
    ∀ (ns : List LineNo) (s : State), InhibitsKept s (clearLines st flags ns s).1
  | [], s => .refl s
  | n :: ns, s => (clearLine_inhibitsKept st flags n s).trans (clearLines_inhibitsKept st flags ns _)

theorem takeClearFlags_inhibitsKept (st : Station) (lines : Byte) (flags : BitVec 16) (s : State) :
    InhibitsKept s (takeClearFlags st lines flags s) :=
  (clearLines_inhibitsKept st flags _ s).trans (placeReply_inhibitsKept st _ _ _)

theorem takeClearStation_inhibitsKept (st : Station) (indicators : Byte) (s : State) :
    InhibitsKept s (takeClearStation st indicators s) :=
  (onLink_inhibitsKept st _ s).trans (placeReply_inhibitsKept st _ _ _)

/-! ### Writes -/

/-- An answer leaves the inhibits as the request made them. -/
theorem InhibitsKept.answer {s t : State} (h : InhibitsKept s t) (st : Station) (kind : Byte) (c : ReplyCode) :
    InhibitsKept s (t.answer st kind c) := h.trans (placeReply_inhibitsKept st kind _ t)

/-- A request answered by an outcome code alone has no effect on the inhibits. -/
theorem answered_inhibitsKept {c : Prop} [Decidable c] {s t : State} {st : Station} {kind : Byte} {code : ReplyCode}
    (h : InhibitsKept s t) : InhibitsKept s (if c then s.answer st kind code else t) :=
  .ite (fun _ => (InhibitsKept.refl s).answer st kind code) fun _ => h

theorem writeProfile_inhibitsKept (g : GroupNo) (p : Profile) (s : State) : InhibitsKept s (s.writeProfile g p) := by
  have written : InhibitsKept s { s with table := { s.table with profiles := s.table.profiles.set g p } } :=
    .of_scope rfl rfl ⟨fun _ => rfl, fun _ => rfl, rfl⟩ fun _ => rfl
  have due (s : State) (n : LineNo) : InhibitsKept s (s.putLine n { s.line n with profileDue := true }) :=
    putLine_inhibitsKept rfl
  exact written.trans (.foldl due _ _)

theorem takeWriteProfile_inhibitsKept (st : Station) (group : Byte) (p : Profile) (s : State) :
    InhibitsKept s (takeWriteProfile st group p s) :=
  answered_inhibitsKept <| answered_inhibitsKept <| answered_inhibitsKept <|
    (writeProfile_inhibitsKept _ p s).answer st _ _

/-- A change of scope re-evaluates the inhibits (R92, R107). -/
theorem writeBerth_inhibitsKept (b : BerthSettings) (s : State) : InhibitsKept s (s.writeBerth b) := by
  have inhibited : InhibitsKept s
      (if s.table.settings.scope = b.scope then { s with table := { s.table with settings := b } }
        else State.reevaluateInhibits none { s with table := { s.table with settings := b } }) := by
    split
    next same => exact .of_scope rfl rfl ⟨fun _ => rfl, fun _ => rfl, same.symm⟩ fun _ => rfl
    next => exact reevaluateInhibits_inhibitsKept none rfl rfl
  exact .ite (fun _ => inhibited) fun _ => inhibited.trans (reevaluateAll_authorityOnly _).inhibitsKept

theorem takeWriteBerth_inhibitsKept (st : Station) (scope stagger lead : Byte) (s : State) :
    InhibitsKept s (takeWriteBerth st scope stagger lead s) := by
  refine answered_inhibitsKept <| answered_inhibitsKept ?_
  cases settingsOfBytes scope stagger lead with
  | none => exact (InhibitsKept.refl s).answer st _ _
  | some b => exact (writeBerth_inhibitsKept b s).answer st _ _

/-- A setup written with the fitted field and the group that it had leaves the scopes of R91. -/
theorem sameScope_of_setup {s t : State} {n : LineNo} {u : LineSetup} (setups : t.table.setups = s.table.setups.set n u)
    (settings : t.table.settings = s.table.settings) (fitted : (s.setup n).fitted = u.fitted)
    (group : (s.setup n).group = u.group) : SameScope s t := by
  have setup (m : LineNo) : (t.setup m).fitted = (s.setup m).fitted ∧ (t.setup m).group = (s.setup m).group := by
    by_cases hm : m = n
    · have written : t.setup m = u := by simp [State.setup, setups, hm]
      rw [written, hm]
      exact ⟨fitted.symm, group.symm⟩
    · have kept : t.setup m = s.setup m := by
        simpa [State.setup, setups] using Vector.getElem_set_ne _ _ fun e => hm (Fin.ext e.symm)
      rw [kept]
      exact ⟨rfl, rfl⟩
  exact ⟨fun m => (setup m).1, fun m => (setup m).2, by rw [settings]⟩

/-- A change of fitted or of group re-evaluates the inhibits (R92, R105). -/
theorem writeSetup_inhibitsKept (n : LineNo) (u : LineSetup) (s : State) : InhibitsKept s (s.writeSetup n u) := by
  unfold State.writeSetup
  dsimp only
  generalize hw : ({ s with table := _ } : State) = written
  have beside := onLine_besideLines n (Line.takeSetup (s.setup n) u (s.profile u.group)) written
  split
  next same =>
    obtain ⟨fitted, group⟩ := same
    have scope : SameScope s written := sameScope_of_setup (by rw [← hw]) (by rw [← hw]) fitted group
    refine InhibitsKept.trans ?_ (onLine_inhibitsKept (Line.takeSetup_guard ..))
    exact .of_scope (by rw [← hw]) (by rw [← hw]) scope fun _ => by rw [← hw]; rfl
  next =>
    exact reevaluateInhibits_inhibitsKept none (beside.powered.trans (by rw [← hw]))
      (beside.resetAsserted.trans (by rw [← hw]))

theorem takeWriteLineSetup_inhibitsKept (st : Station) (line : Byte) (f : SetupFields) (s : State) :
    InhibitsKept s (takeWriteLineSetup st line f s) := by
  refine answered_inhibitsKept <| answered_inhibitsKept <| answered_inhibitsKept <| answered_inhibitsKept <|
    answered_inhibitsKept ?_
  cases setupOfFields f with
  | none => exact (InhibitsKept.refl s).answer st _ _
  | some u => exact (writeSetup_inhibitsKept _ u s).answer st _ _

theorem takeSaveSetup_inhibitsKept (st : Station) (s : State) : InhibitsKept s (takeSaveSetup st s) := by
  have started : InhibitsKept s s.startSave := .of_scope rfl rfl ⟨fun _ => rfl, fun _ => rfl, rfl⟩ fun _ => rfl
  exact answered_inhibitsKept <| answered_inhibitsKept <| answered_inhibitsKept <| started.answer st _ _

theorem takeRestart_inhibitsKept (st : Station) (s : State) : InhibitsKept s (takeRestart st s) := by
  have joined (waiting : List Station) : InhibitsKept s { s with pendingRestart := waiting } :=
    .of_lines rfl rfl rfl fun _ => rfl
  exact answered_inhibitsKept <| answered_inhibitsKept <| (joined _).answer st _ _

/-! ### Request events -/

theorem requestEvent_inhibitsKept {take : State → State} (st : Station) (bodyOk : Bool) {s : State}
    (h : InhibitsKept s (take s)) : InhibitsKept s (s.requestEvent st bodyOk take) :=
  .ite (fun _ => .refl s) fun _ => .ite (fun _ => onLink_inhibitsKept st _ s) fun _ => h

theorem dispatchRequest_inhibitsKept (i : Instr) (s : State) : InhibitsKept s (dispatchRequest i s) := by
  cases i with
  | claim st groups option => exact requestEvent_inhibitsKept st _ (takeClaim_inhibitsKept st groups option s)
  | yieldGroups st groups => exact requestEvent_inhibitsKept st _ (takeYield_inhibitsKept st groups s)
  | query st | readLines st | readGroup st | readSetup st =>
    exact requestEvent_inhibitsKept st _ (placeReply_inhibitsKept st _ _ s)
  | deploy st lines =>
    exact requestEvent_inhibitsKept st _ (lineCommand_inhibitsKept deployLine_inhibitsKept st _ lines s)
  | engage st lines =>
    exact requestEvent_inhibitsKept st _ (lineCommand_inhibitsKept engageLine_inhibitsKept st _ lines s)
  | lock st lines =>
    exact requestEvent_inhibitsKept st _ (lineCommand_inhibitsKept lockLine_inhibitsKept st _ lines s)
  | hold st lines =>
    exact requestEvent_inhibitsKept st _ (lineCommand_inhibitsKept holdLine_inhibitsKept st _ lines s)
  | mark st lines =>
    exact requestEvent_inhibitsKept st _ (lineCommand_inhibitsKept markLine_inhibitsKept st _ lines s)
  | release st lines option =>
    exact requestEvent_inhibitsKept st _ (lineCommand_inhibitsKept (releaseLine_inhibitsKept _) st _ lines s)
  | rewind st lines =>
    exact requestEvent_inhibitsKept st _ (lineCommand_inhibitsKept rewindLine_inhibitsKept st _ lines s)
  | quickRelease st lines =>
    exact requestEvent_inhibitsKept st _ (lineCommand_inhibitsKept (quickReleaseLine_inhibitsKept st) st _ lines s)
  | resetLine st lines =>
    exact requestEvent_inhibitsKept st _ (lineCommand_inhibitsKept resetLineOne_inhibitsKept st _ lines s)
  | clearFlags st lines flags => exact requestEvent_inhibitsKept st _ (takeClearFlags_inhibitsKept st lines flags s)
  | clearStation st indicators =>
    exact requestEvent_inhibitsKept st _ (takeClearStation_inhibitsKept st indicators s)
  | writeProfile st group p => exact requestEvent_inhibitsKept st _ (takeWriteProfile_inhibitsKept st group p s)
  | writeBerth st scope stagger lead =>
    exact requestEvent_inhibitsKept st _ (takeWriteBerth_inhibitsKept st scope stagger lead s)
  | writeLineSetup st line f => exact requestEvent_inhibitsKept st _ (takeWriteLineSetup_inhibitsKept st line f s)
  | saveSetup st => exact requestEvent_inhibitsKept st _ (takeSaveSetup_inhibitsKept st s)
  | restart st => exact requestEvent_inhibitsKept st _ (takeRestart_inhibitsKept st s)
  | _ => exact .refl s

/-! ### The restart and a loss of presence -/

/-- A line with no flag latched and its inhibit not in force, as every reset leaves it (R66, R98). -/
theorem Line.guard_of_clear {l : Line} (flags : l.control.flags = 0#10) (inhibit : l.protection.inhibit = false) :
    l.guard = (false, false) := by
  simp [Line.guard, Line.overloaded, Line.has, flagSet, flags, inhibit]

theorem Line.atRestart_guard (fitted : Bool) (l : Line) : (l.atRestart fitted).guard = (false, false) :=
  Line.guard_of_clear rfl rfl

/-- The lines of a restart, taken one after another, all stand with their inhibit and their flags clear (R66, R98). -/
theorem restartLines_clear (ns : List LineNo) (s : State) (n : LineNo)
    (h : n ∈ ns ∨ (s.line n).guard = (false, false)) :
    ((ns.foldl (fun s n => s.restartLine n) s).line n).guard = (false, false) := by
  induction ns generalizing s with
  | nil => exact h.resolve_left (List.not_mem_nil)
  | cons m ns ih =>
    refine ih (s.restartLine m) ?_
    have restarted : (s.restartLine m).line n = if n = m then (s.line m).atRestart (s.fitted m) else s.line n :=
      State.line_putLine s m n _
    rw [restarted]
    by_cases hn : n = m
    · rw [if_pos hn]
      exact .inr (Line.atRestart_guard _ _)
    · rw [if_neg hn]
      exact h.imp_left fun hm => (List.mem_cons.1 hm).resolve_left hn

theorem restartLines_supply (ns : List LineNo) (s : State) :
    (ns.foldl (fun s n => s.restartLine n) s).powered = s.powered
      ∧ (ns.foldl (fun s n => s.restartLine n) s).resetAsserted = s.resetAsserted := by
  induction ns generalizing s with
  | nil => exact ⟨rfl, rfl⟩
  | cons n ns ih => exact ih (s.restartLine n)

/-- A restart leaves every inhibit and every flag clear, under whatever setups it loads (R66, R98, R170). -/
theorem restartPart_inhibitsKept (st : Station) (s : State) : InhibitsKept s (s.restartPart st) := by
  have composed : ∀ (xs : List Station) (u : State), InhibitsKept u (xs.foldl (fun s x => s.composeSlot x) u) :=
    .foldl fun s x => (composeSlot_linkOnly x s).inhibitsKept
  have linked : ∀ (xs : List Station) (u : State),
      InhibitsKept u (xs.foldl (fun s x => s.onLink x Link.atRestart) u) :=
    .foldl fun s x => onLink_inhibitsKept x _ s
  unfold State.restartPart
  extract_lets _ s1 s2 s3 s4
  obtain ⟨powered, resetAsserted⟩ := restartLines_supply allLines s1
  have clear (n : LineNo) : (s2.line n).guard = (false, false) :=
    restartLines_clear allLines s1 n (.inl (mem_allLines n))
  have restarted : InhibitsKept s s2 := ⟨powered, resetAsserted, fun _ => inhibitsAgree_of_clear clear⟩
  have emptied : InhibitsKept s3 s4 := .of_lines rfl rfl rfl fun _ => rfl
  exact ((restarted.trans (linked allStations s2)).trans emptied).trans (composed (slotsUpTo st) s4)

theorem losePresence_inhibitsKept (st : Station) (s : State) : InhibitsKept s (s.losePresence st) := by
  unfold State.losePresence
  refine InhibitsKept.trans ?_ (.foldl (fun s g => (removeEntry_authorityOnly st g s).inhibitsKept) _ _)
  split <;> exact .of_lines rfl rfl rfl fun _ => rfl

/-! ### The frame event -/

theorem presenceStep_inhibitsKept (st : Station) (good : Bool) (s : State) :
    InhibitsKept s (s.presenceStep st good) := by
  unfold State.presenceStep
  dsimp only
  split
  · split <;> exact onLink_inhibitsKept st _ s
  · exact onLink_inhibitsKept st _ s
  · exact onLink_inhibitsKept st _ s
  · split
    · exact losePresence_inhibitsKept st s
    · exact onLink_inhibitsKept st _ s

theorem stanceStep_inhibitsKept (st : Station) (code : BitVec 4) (s : State) :
    InhibitsKept s (s.stanceStep st code) := by
  obtain ⟨k, es, only, result, -⟩ := stanceStep_spec st code s
  rw [result]
  exact only.inhibitsKept.trans (.of_lines rfl rfl rfl fun _ => rfl)

theorem messageComplete_inhibitsKept (st : Station) (kind : Byte) (length : Nat) (bytes : List Byte) (s : State) :
    InhibitsKept s (s.messageComplete st kind length bytes) := by
  unfold State.messageComplete
  dsimp only
  split
  · exact onLink_inhibitsKept st _ s
  · split
    · exact onLink_inhibitsKept st _ s
    · exact dispatchRequest_inhibitsKept _ s

theorem takeByte_inhibitsKept (st : Station) (b : Byte) (s : State) : InhibitsKept s (s.takeByte st b) := by
  have next (m : Incoming) : InhibitsKept s ((s.onLink st fun k => { k with gap := 0 }).setIncoming st m) :=
    (onLink_inhibitsKept st _ s).trans (onLink_inhibitsKept st _ _)
  unfold State.takeByte
  dsimp only
  split
  · exact next _
  · split
    · exact (next _).trans (onLink_inhibitsKept st _ _)
    · split
      · exact (next _).trans (messageComplete_inhibitsKept st _ _ _ _)
      · exact next _
  · split
    · exact (next _).trans (messageComplete_inhibitsKept st _ _ _ _)
    · exact next _

theorem receiveStep_inhibitsKept (st : Station) (offer : Bool) (b : Byte) (s : State) :
    InhibitsKept s (s.receiveStep st offer b) := by
  unfold State.receiveStep
  dsimp only
  split
  · exact (onLink_inhibitsKept st _ s).trans (takeByte_inhibitsKept st _ _)
  · exact (onLink_inhibitsKept st _ s).trans (gapStep_linkOnly st _).inhibitsKept

theorem laneCompletion_inhibitsKept (st : Station) (isReply : Bool) (s : State) :
    InhibitsKept s (s.laneCompletion st isReply) := by
  unfold State.laneCompletion
  dsimp only
  split
  · exact (onLink_inhibitsKept st _ s).trans (restartPart_inhibitsKept st _)
  · exact onLink_inhibitsKept st _ s

theorem sendStep_inhibitsKept (st : Station) (take : Bool) (s : State) : InhibitsKept s (s.sendStep st take) := by
  unfold State.sendStep
  dsimp only
  split
  · exact .refl s
  · split
    · split
      · split
        · exact onLink_inhibitsKept st _ s
        · exact laneCompletion_inhibitsKept st _ s
      · exact onLink_inhibitsKept st _ s
    · exact .refl s
  · split
    · exact .refl s
    · split
      · split <;> exact onLink_inhibitsKept st _ s
      · exact onLink_inhibitsKept st _ s

theorem contentStep_inhibitsKept (st : Station) (slot : BitVec 32) (s : State) :
    InhibitsKept s (s.contentStep st slot) := by
  have received := (stanceStep_inhibitsKept st (slotStance slot) s).trans
    (receiveStep_inhibitsKept st (slotOffer slot) (slotByte slot) _)
  exact .ite (fun _ => .ite (fun _ => received) fun _ => received.trans (beginTransfer_linkOnly st _).inhibitsKept)
    fun _ => received.trans (sendStep_inhibitsKept st _ _)

theorem frameEvent_inhibitsKept (st : Station) (slot : BitVec 32) (s : State) :
    InhibitsKept s (s.frameEvent st slot) := by
  have decided := presenceStep_inhibitsKept st (slotGood slot) s
  refine InhibitsKept.trans ?_ (composeSlot_linkOnly st _).inhibitsKept
  exact .ite (fun _ => .ite (fun _ => decided.trans (contentStep_inhibitsKept st slot _))
    fun _ => decided.trans (gapStep_linkOnly st _).inhibitsKept) fun _ => decided

/-! ### The Berth Action Unit and the setup store -/

theorem queueTake_inhibitsKept (s : State) : InhibitsKept s s.queueTake := by
  unfold State.queueTake
  split
  · exact .refl s
  next n rest _ =>
    have popped : InhibitsKept s (s.popQueue rest) := .of_lines rfl rfl rfl fun _ => rfl
    have opened : InhibitsKept s ((s.popQueue rest).onLine n Line.queueHead) :=
      popped.trans (onLine_inhibitsKept (Line.queueHead_guard _))
    dsimp only
    split
    · exact opened.trans (.of_lines rfl rfl rfl fun _ => rfl)
    · split
      · exact opened
      · refine opened.trans ?_
        unfold State.dueTake
        split
        · exact .refl _
        · exact .of_lines rfl rfl rfl fun _ => rfl

theorem staggerExpire_inhibitsKept (s : State) : InhibitsKept s s.staggerExpire := by
  rw [staggerExpire_spec]
  exact .of_lines rfl rfl rfl fun _ => rfl

theorem staggerTick_inhibitsKept (s : State) : InhibitsKept s s.staggerTick := by
  unfold State.staggerTick
  split
  · exact .refl s
  · split
    · exact staggerExpire_inhibitsKept s
    · exact .of_lines rfl rfl rfl fun _ => rfl

theorem startReleaseAll_inhibitsKept (s : State) : InhibitsKept s s.startReleaseAll := by
  unfold State.startReleaseAll
  dsimp only
  split
  · exact appendQueue_inhibitsKept _ s
  · exact (appendQueue_inhibitsKept _ s).trans (.of_lines rfl rfl rfl fun _ => rfl)

theorem takeStance_inhibitsKept (st : Station) (before after : Stance) (s : State) :
    InhibitsKept s (s.takeStance st before after) := by
  have recomputed : InhibitsKept s s.recomputeStopped := by
    rw [recomputeStopped_spec]
    exact .of_lines rfl rfl rfl fun _ => rfl
  exact .ite (fun _ => .ite (fun _ => recomputed.trans (startReleaseAll_inhibitsKept _))
    fun _ => recomputed.trans (onLink_inhibitsKept st _ _)) fun _ => recomputed

/-- An event that leaves the list of those handed over is taken from there (log 5). -/
theorem takeDue_inhibitsKept (e : DueEvent) (s : State) : InhibitsKept s (s.takeDue e) :=
  .of_lines rfl rfl rfl fun _ => rfl

theorem takeStanceDue_inhibitsKept (st : Station) (s : State) : InhibitsKept s (s.takeStanceDue st) := by
  unfold State.takeStanceDue
  split
  · exact (takeDue_inhibitsKept _ s).trans (takeStance_inhibitsKept st _ _ _)
  · exact .refl s

theorem takeHanded_inhibitsKept {f : State → State} (hf : ∀ s, InhibitsKept s (f s)) (e : DueEvent) (s : State) :
    InhibitsKept s (s.takeHanded e f) :=
  .ite (fun _ => (takeDue_inhibitsKept e s).trans (hf _)) fun _ => .refl s

theorem completeSave_inhibitsKept (readBack : Option StoreImage) (s : State) :
    InhibitsKept s (s.completeSave readBack) := by
  unfold State.completeSave
  split
  · exact .refl s
  · exact .of_scope rfl rfl ⟨fun _ => rfl, fun _ => rfl, rfl⟩ fun _ => rfl

theorem abandonSave_inhibitsKept (s : State) : InhibitsKept s s.abandonSave := by
  unfold State.abandonSave
  split
  · exact .refl s
  · exact .of_scope rfl rfl ⟨fun _ => rfl, fun _ => rfl, rfl⟩ fun _ => rfl

end Sys2Proof.Machine

/-! PROOFS. Every step keeps each haul inhibit in force exactly while a fitted line within its scope has WARN or TRIP
latched (R91, R92): settles O56. -/

namespace Sys2Proof.Machine

/-! ### Resets and the supply -/

/-- The invariant of O56: the inhibits agree with the flags, and the part that its reset input holds has its power-on
values, so that a release, which loads setups, finds no flag latched. -/
def State.inhibitsSound (s : State) : Prop := s.heldInReset ∧ s.inhibitsAgree

/-- A part that runs is not held in reset. -/
theorem heldInReset_of_running {s : State} (h : s.running = true) : s.heldInReset := by
  rintro ⟨-, asserted⟩
  simp [State.running, asserted] at h

/-- A part without its supply is not held in reset (log 17). -/
theorem heldInReset_of_unpowered {s : State} (h : s.powered = false) : s.heldInReset := by
  rintro ⟨powered, -⟩
  rw [h] at powered
  cases powered

/-- Power-on takes every line to its power-on values under the setups loaded (R66, R98, R110). -/
theorem powerOn_inhibitsSound (s : State) : s.powerOn.inhibitsSound := by
  have started (n : LineNo) : s.powerOn.line n = lineAtPowerOn := Vector.getElem_replicate _
  refine ⟨fun _ => ⟨fun n => by rw [started n], rfl, rfl, rfl, rfl, rfl⟩, inhibitsAgree_of_clear fun n => ?_⟩
  rw [started n]
  exact Line.guard_of_clear rfl rfl

/-- An assertion of the reset input takes every line to its power-on values, but for the level of its direction lead
(R15, R18, R98). -/
theorem assertReset_inhibitsSound {s : State} (h : s.inhibitsSound) : s.assertReset.inhibitsSound := by
  unfold State.assertReset
  split
  · have asserted (n : LineNo) : s.linesAtAssertion[n] = (s.line n).atAssertion := State.linesAtAssertion_get s n
    refine ⟨fun _ => ⟨fun n => ?_, rfl, rfl, rfl, rfl, rfl⟩, inhibitsAgree_of_clear fun n => ?_⟩
    · change s.linesAtAssertion[n] = { lineAtPowerOn with
        sense := { lineAtPowerOn.sense with heaving := s.linesAtAssertion[n].sense.heaving } }
      rw [asserted n]
      rfl
    · change s.linesAtAssertion[n].guard = (false, false)
      rw [asserted n]
      exact Line.guard_of_clear rfl rfl
  next unpowered =>
    obtain ⟨-, agree⟩ := h
    exact ⟨heldInReset_of_unpowered (Bool.eq_false_iff.2 unpowered), agree⟩

/-- A release of the reset input loads setups that may regroup the lines, and finds every flag clear (R110, R147). -/
theorem releaseReset_inhibitsSound {s : State} (h : s.inhibitsSound) : s.releaseReset.inhibitsSound := by
  have released (t : State) (ht : t.resetAsserted = false) : t.heldInReset := by
    rintro ⟨-, asserted⟩
    rw [ht] at asserted
    cases asserted
  obtain ⟨held, agree⟩ := h
  unfold State.releaseReset
  split
  next asserted =>
    split
    next powered =>
      obtain ⟨lines, -⟩ := held ⟨powered, asserted⟩
      refine ⟨released _ rfl, inhibitsAgree_of_clear fun n => ?_⟩
      change (s.line n).guard = (false, false)
      rw [lines n]
      exact Line.guard_of_clear rfl rfl
    · exact ⟨released _ rfl, agree⟩
  · exact ⟨held, agree⟩

theorem losePower_inhibitsSound {s : State} (h : s.inhibitsSound) : s.losePower.inhibitsSound := by
  obtain ⟨-, agree⟩ := h
  exact ⟨heldInReset_of_unpowered rfl, (abandonSave_inhibitsKept s).agree agree⟩

/-! ### Commands and steps -/

/-- An event of the running part that keeps the inhibits keeps the invariant; without it nothing changes (log 6). -/
theorem whileRunning_inhibitsSound {f : State → State} {s t : State} (hf : InhibitsKept s (f s)) (h : s.inhibitsSound)
    (ht : whileRunning f s = .next t) : t.inhibitsSound := by
  obtain ⟨held, agree⟩ := h
  cases ht
  split
  next running =>
    have runs : (f s).running = true := by rw [State.running, hf.powered, hf.resetAsserted]; exact running
    exact ⟨heldInReset_of_running runs, hf.agree agree⟩
  · exact ⟨held, agree⟩

theorem exec_inhibitsSound (i : Instr) {s t : State} (hs : s.inhibitsSound) (h : exec i s = .next t) :
    t.inhibitsSound := by
  have onLine (n : LineNo) {f : Line → Line} (hf : ∀ l, (f l).guard = l.guard) (s : State) :
      InhibitsKept s (s.onLine n f) := onLine_inhibitsKept (hf _)
  by_cases request : i.kind ≠ none
  · rw [exec_request i s request] at h
    exact whileRunning_inhibitsSound (dispatchRequest_inhibitsKept i s) hs h
  · cases i with
    | sampleEvent n sample pins => exact whileRunning_inhibitsSound (sampleEvent_inhibitsKept n sample pins s) hs h
    | countEvent n step => exact whileRunning_inhibitsSound (countEvent_inhibitsKept n step s) hs h
    | frameEvent st slot => exact whileRunning_inhibitsSound (frameEvent_inhibitsKept st slot s) hs h
    | powerOn => cases h; exact powerOn_inhibitsSound s
    | resetInputAssert => cases h; exact assertReset_inhibitsSound hs
    | resetInputRelease => cases h; exact releaseReset_inhibitsSound hs
    | powerLoss => cases h; exact losePower_inhibitsSound hs
    | deviceRestart st =>
      exact whileRunning_inhibitsSound (.ite (fun _ => restartPart_inhibitsKept st s) fun _ => .refl s) hs h
    | storeCompletion readBack => exact whileRunning_inhibitsSound (completeSave_inhibitsKept readBack s) hs h
    | staggerExpiry =>
      exact whileRunning_inhibitsSound (.ite (fun _ => staggerExpire_inhibitsKept s) fun _ => .refl s) hs h
    | hookTimerExpiry n => exact whileRunning_inhibitsSound (onLine n Line.hookExpire_guard s) hs h
    | stallExpiry n => exact whileRunning_inhibitsSound (onLine n Line.stallExpire_guard s) hs h
    | derivation n => exact whileRunning_inhibitsSound (onLine n (Line.deriveStarting_guard _) s) hs h
    | gapAbort st =>
      exact whileRunning_inhibitsSound (.ite (fun _ => onLink_inhibitsKept st _ s) fun _ => .refl s) hs h
    | presenceLoss st =>
      exact whileRunning_inhibitsSound (.ite (fun _ => losePresence_inhibitsKept st s) fun _ => .refl s) hs h
    | stanceChange st => exact whileRunning_inhibitsSound (takeStanceDue_inhibitsKept st s) hs h
    | stopOnset n =>
      exact whileRunning_inhibitsSound (takeHanded_inhibitsKept (onLine n Line.stopOnset_guard) _ s) hs h
    | holderChangeHalt n =>
      exact whileRunning_inhibitsSound (takeHanded_inhibitsKept (onLine n Line.halt_guard) _ s) hs h
    | inhibitOnset n =>
      exact whileRunning_inhibitsSound (takeHanded_inhibitsKept (onLine n Line.inhibitOnset_guard) _ s) hs h
    | inhibitLift n => exact whileRunning_inhibitsSound (takeHanded_inhibitsKept .refl _ s) hs h
    | queueTake => exact whileRunning_inhibitsSound (takeHanded_inhibitsKept queueTake_inhibitsKept _ s) hs h
    | _ => exact absurd nofun request

/-- The commands that wait are no part of the invariant. -/
theorem inhibitsSound_withPending {s : State} (rest : List Instr) (h : s.inhibitsSound) :
    State.inhibitsSound { s with pending := rest } := h

theorem step_inhibitsSound {s t : State} (hs : s.inhibitsSound) (h : step s = .next t) : t.inhibitsSound := by
  unfold step at h
  split at h
  · exact exec_inhibitsSound _ (inhibitsSound_withPending _ hs) h
  · split at h
    · split at h
      · exact exec_inhibitsSound _ hs h
      · exact whileRunning_inhibitsSound (staggerTick_inhibitsKept s) hs h
    · cases h; exact hs

end Sys2Proof.Machine

namespace Sys2Proof

open Machine

/-- Settles O56: an event of the running part keeps the inhibits in agreement (`InhibitsKept`), since every latch or
clear of WARN or TRIP and every change of the scopes has a re-evaluation behind it, and a reset leaves no flag
latched. -/
theorem inhibitsFollowFlags : Obligations.InhibitsFollowFlags := by
  unfold Obligations.InhibitsFollowFlags
  intro s t held agree hstep
  exact step_inhibitsSound ⟨held, agree⟩ hstep

end Sys2Proof

/-! PROOFS. What WRITE PROFILE makes of the state: the outcome of its checks, and the effect of a taken write on the
profiles and on the lines of the group. -/

namespace Sys2Proof.Machine

/-! ### The taken write -/

/-- From `s` to `t` nothing changes but the lines and the groups' profiles. -/
def ProfilesOnly (s t : State) : Prop :=
  t = { s with lines := t.lines, table := { s.table with profiles := t.table.profiles } }

theorem ProfilesOnly.refl (s : State) : ProfilesOnly s s := rfl

theorem ProfilesOnly.trans {s t u : State} (h : ProfilesOnly s t) (h' : ProfilesOnly t u) : ProfilesOnly s u := by
  unfold ProfilesOnly at h h'
  rw [h] at h'
  exact h'

theorem ProfilesOnly.link {s t : State} (h : ProfilesOnly s t) (st : Station) : t.link st = s.link st := by
  rw [h]; rfl

theorem ProfilesOnly.frame {s t : State} (h : ProfilesOnly s t) :
    t.table = { s.table with profiles := t.table.profiles } ∧ t.records = s.records ∧ t.berth = s.berth
      ∧ t.due = s.due ∧ t.pendingRestart = s.pendingRestart := by
  rw [h]
  exact ⟨rfl, rfl, rfl, rfl, rfl⟩

/-- The write waits at line `n` for the line's next sample event (R102). -/
def State.awaitProfile (s : State) (n : LineNo) : State := s.putLine n { s.line n with profileDue := true }

theorem awaitProfile_profilesOnly (s : State) (n : LineNo) : ProfilesOnly s (s.awaitProfile n) := rfl

theorem foldl_awaitProfile_profilesOnly (ns : List LineNo) (s : State) :
    ProfilesOnly s (ns.foldl State.awaitProfile s) := by
  induction ns generalizing s with
  | nil => exact .refl s
  | cons n ns ih => exact (awaitProfile_profilesOnly s n).trans (ih _)

theorem profile_foldl_awaitProfile (ns : List LineNo) (s : State) (g : GroupNo) :
    (ns.foldl State.awaitProfile s).profile g = s.profile g := by
  induction ns generalizing s with
  | nil => rfl
  | cons n ns ih => exact ih _

theorem line_foldl_awaitProfile (ns : List LineNo) (s : State) (m : LineNo) :
    (ns.foldl State.awaitProfile s).line m
      = { s.line m with profileDue := (s.line m).profileDue || decide (m ∈ ns) } := by
  induction ns generalizing s with
  | nil => simp
  | cons n ns ih =>
    rw [List.foldl_cons, ih, State.awaitProfile, State.line_putLine]
    by_cases h : m = n
    · subst h; simp
    · simp [h]

theorem mem_groupLines (s : State) (g : GroupNo) (n : LineNo) :
    n ∈ s.groupLines g ↔ s.fitted n = true ∧ (s.setup n).group = g := by
  simp [State.groupLines, mem_allLines]

theorem writeProfile_profilesOnly (g : GroupNo) (p : Profile) (s : State) : ProfilesOnly s (s.writeProfile g p) := by
  have replaced : ProfilesOnly s { s with table := { s.table with profiles := s.table.profiles.set g p } } := rfl
  exact replaced.trans (foldl_awaitProfile_profilesOnly _ _)

theorem profile_writeProfile (g : GroupNo) (p : Profile) (s : State) (h : GroupNo) :
    (s.writeProfile g p).profile h = if h = g then p else s.profile h := by
  calc (s.writeProfile g p).profile h
      = (s.table.profiles.set g p)[h] := profile_foldl_awaitProfile _ _ h
    _ = if h = g then p else s.profile h := by
        simp only [Fin.getElem_fin, Vector.getElem_set, Fin.val_inj, eq_comm (a := g)]
        rfl

theorem line_writeProfile (g : GroupNo) (p : Profile) (s : State) (n : LineNo) :
    (s.writeProfile g p).line n
      = { s.line n with
          profileDue := (s.line n).profileDue || decide (s.fitted n = true ∧ (s.setup n).group = g) } := by
  rw [← decide_eq_decide.mpr (mem_groupLines s g n)]
  exact line_foldl_awaitProfile _ _ n

/-! ### The request -/

/-- The outcome of WRITE PROFILE for group `g`: that of the first of its three checks that fails (R101). -/
def State.writeProfileOutcome (s : State) (st : Station) (g : GroupNo) (p : Profile) : ReplyCode :=
  if (s.link st).restartInd = true then .restartPending
  else if s.holder g ≠ some st then .notHolder
  else if profileTaken p = false then .badValue
  else .done

/-- What a WRITE PROFILE with outcome `c` makes of the state, before its reply. -/
def State.writeProfileIf (c : ReplyCode) (g : GroupNo) (p : Profile) (s : State) : State :=
  if c = .done then s.writeProfile g p else s

/-- WRITE PROFILE replaces the profile exactly where its outcome is DONE, and replies that outcome. -/
theorem takeWriteProfile_eq (st : Station) (group : Byte) (p : Profile) (s : State) :
    takeWriteProfile st group p s
      = (s.writeProfileIf (s.writeProfileOutcome st (groupOf group) p) (groupOf group) p).answer st 0x50#8
          (s.writeProfileOutcome st (groupOf group) p) := by
  unfold takeWriteProfile State.writeProfileOutcome State.restartSet
  rw [profileTaken_eq]
  by_cases restart : (s.link st).restartInd = true
  · simp [restart, State.writeProfileIf]
  by_cases holder : s.holder (groupOf group) = some st
  case neg => simp [restart, holder, State.writeProfileIf]
  by_cases valid : profileValid p = true <;> simp [restart, holder, valid, State.writeProfileIf]

theorem writeProfileIf_profilesOnly (c : ReplyCode) (g : GroupNo) (p : Profile) (s : State) :
    ProfilesOnly s (s.writeProfileIf c g p) := by
  unfold State.writeProfileIf
  split
  · exact writeProfile_profilesOnly g p s
  · exact .refl s

theorem profile_writeProfileIf (c : ReplyCode) (g : GroupNo) (p : Profile) (s : State) (h : GroupNo) :
    (s.writeProfileIf c g p).profile h = if c = .done ∧ h = g then p else s.profile h := by
  unfold State.writeProfileIf
  split
  next taken => simp [taken, profile_writeProfile]
  next refused => simp [refused]

theorem line_writeProfileIf (c : ReplyCode) (g : GroupNo) (p : Profile) (s : State) (n : LineNo) :
    (s.writeProfileIf c g p).line n
      = { s.line n with
          profileDue :=
            (s.line n).profileDue || decide (c = .done ∧ s.fitted n = true ∧ (s.setup n).group = g) } := by
  unfold State.writeProfileIf
  split
  next taken => simp [taken, line_writeProfile]
  next refused => simp [refused]

theorem groupOf_ofNat (g : GroupNo) : groupOf (BitVec.ofNat 8 g.val) = g := by revert g; decide

theorem groupNoOk_ofNat (g : GroupNo) : groupNoOk (BitVec.ofNat 8 g.val) = true := by revert g; decide

/-- An accepted WRITE PROFILE of a group is taken (R161). -/
theorem exec_writeProfile_accepted {st : Station} {s : State} (g : GroupNo) (p : Profile)
    (accepted : s.accepts st = true) :
    exec (.writeProfile st (BitVec.ofNat 8 g.val) p) s
      = .next (takeWriteProfile st (BitVec.ofNat 8 g.val) p s) :=
  request_taken (take := takeWriteProfile st (BitVec.ofNat 8 g.val) p) accepted (groupNoOk_ofNat g)

theorem link_answer (st : Station) (kind : Byte) (c : ReplyCode) (s : State) (x : Station) :
    (s.answer st kind c).link x
      = if x = st then { s.link st with replySlot := some { kind := kind, body := [outcomeByte c] } }
        else s.link x := by
  rw [← code_eq_outcomeByte, State.answer, State.placeReply, State.link_onLink]
  by_cases h : x = st
  · subst h; rfl
  · simp [h]

end Sys2Proof.Machine

namespace Sys2Proof

open Machine

/-- Settles O31: the outcome decides whether the profile is written (`takeWriteProfile_eq`); a write marks each fitted
line of the group (`line_writeProfile`) and leaves all but the lines and the profiles (`ProfilesOnly`), and the reply
touches the reply slot alone. -/
theorem writeProfileResult : Obligations.WriteProfileResult := by
  unfold Obligations.WriteProfileResult
  intro st g p s accepted outcome
  have only := writeProfileIf_profilesOnly outcome g p s
  obtain ⟨table, records, berth, due, pendingRestart⟩ := only.frame
  have reply := link_answer st 0x50#8 outcome (s.writeProfileIf outcome g p)
  simp only [only.link] at reply
  refine ⟨(s.writeProfileIf outcome g p).answer st 0x50#8 outcome, ?_, by rw [reply, if_pos rfl],
    profile_writeProfileIf outcome g p s, line_writeProfileIf outcome g p s, table, records, berth, due, pendingRestart,
    fun x => by rw [reply, reply, if_pos rfl]⟩
  rw [exec_writeProfile_accepted g p accepted, takeWriteProfile_eq, groupOf_ofNat]
  rfl

end Sys2Proof

/-! PROOFS. Sound authority records (R114): what re-evaluation, a claim, the removal of an entry and the recording of a
watched set make of one. -/

namespace Sys2Proof.Machine

/-! ### Sound records -/

/-- The record of a group is sound under a rank order, among the stations that `here` admits (R114, R119, R122). -/
structure GroupRecord.Sound (lead : Bool) (here : Station → Bool) (r : GroupRecord) : Prop where
  servingRanked : ranked lead r.inService
  waitingRanked : ranked lead r.waiting
  apart : ∀ a ∈ r.inService, ∀ b ∈ r.waiting, a.station ≠ b.station
  outranked : ∀ b ∈ r.waiting, ∃ h, r.holder = some h ∧ rank lead h < rank lead b.station
  present : ∀ e ∈ r.entries, here e.station = true

theorem State.recordSound_iff (s : State) (g : GroupNo) :
    s.recordSound g ↔ (s.record g).Sound s.table.settings.vesselLead s.present :=
  ⟨fun ⟨serving, waiting, apart, outranked, present⟩ => ⟨serving, waiting, apart, outranked, present⟩,
    fun h => ⟨h.servingRanked, h.waitingRanked, h.apart, h.outranked, h.present⟩⟩

theorem State.authoritySound_iff (s : State) :
    s.authoritySound ↔ ∀ g, (s.record g).Sound s.table.settings.vesselLead s.present :=
  forall_congr' s.recordSound_iff

/-- The record holds each station once, and only stations that `here` admits: what a change of the rank order leaves of
a sound record, and all that re-evaluation needs to make it sound again. -/
structure GroupRecord.Attended (here : Station → Bool) (r : GroupRecord) : Prop where
  once : (r.entries.map Entry.station).Nodup
  present : ∀ e ∈ r.entries, here e.station = true

section
variable {lead : Bool} {here : Station → Bool} {r : GroupRecord}

theorem GroupRecord.Sound.attended (h : r.Sound lead here) : r.Attended here where
  once := by
    rw [GroupRecord.entries, List.map_append, List.nodup_append]
    refine ⟨ranked_nodup h.servingRanked, ranked_nodup h.waitingRanked, ?_⟩
    simpa only [List.forall_mem_map] using h.apart
  present := h.present

theorem GroupRecord.Sound.mono {here' : Station → Bool} (h : r.Sound lead here)
    (wider : ∀ x, here x = true → here' x = true) : r.Sound lead here' :=
  { h with present := fun e he => wider _ (h.present e he) }

theorem emptyRecord_sound (lead : Bool) (here : Station → Bool) : emptyRecord.Sound lead here where
  servingRanked := .nil
  waitingRanked := .nil
  apart := nofun
  outranked := nofun
  present := nofun

/-- The active holder has an entry in service (R114). -/
theorem GroupRecord.mem_of_holder {h : Station} (hh : r.holder = some h) : ∃ e ∈ r.inService, e.station = h := by
  obtain ⟨e, head, rfl⟩ := Option.map_eq_some_iff.1 hh
  exact ⟨e, List.mem_of_head? head, rfl⟩

/-- The active holder is the highest-ranked of its in-service set (R114). -/
theorem GroupRecord.holder_le (h : ranked lead r.inService) {e : Entry} (he : e ∈ r.inService) :
    ∃ x, r.holder = some x ∧ rank lead x ≤ rank lead e.station := by
  unfold GroupRecord.holder
  cases hs : r.inService with
  | nil => simp [hs] at he
  | cons a es =>
    rw [hs] at h he
    refine ⟨a.station, rfl, ?_⟩
    rcases List.mem_cons.1 he with rfl | he
    · exact le_rfl
    · exact ((List.pairwise_cons.1 h).1 e he).le

/-- Stations that differ do not share a rank. -/
theorem rank_lt_of_le_of_ne {a b : Station} (le : rank lead a ≤ rank lead b) (ne : a ≠ b) :
    rank lead a < rank lead b := lt_of_le_of_ne le fun h => ne (rank_injective lead h)

/-! ### Re-evaluation and removal -/

/-- Re-evaluation makes a sound record of every record that holds each station once, in whatever order (R119). -/
theorem reevaluated_sound (lead : Bool) (h : r.Attended here) : (reevaluated lead r).Sound lead here := by
  obtain ⟨waitingRanked, servingRanked, holder, kept⟩ := reevaluated_spec lead r
  obtain ⟨-, -, serves, waits⟩ := reevaluated_reevaluatedTo lead r h.once
  have apart : ∀ a ∈ (reevaluated lead r).inService, ∀ b ∈ (reevaluated lead r).waiting, a.station ≠ b.station := by
    intro a ha b hb same
    have mem_a := kept a (List.mem_append_left _ ha)
    have mem_b := kept b (List.mem_append_right _ hb)
    obtain rfl : a = b := List.inj_on_of_nodup_map h.once mem_a mem_b same
    obtain ⟨hw, stays⟩ := (waits a).1 hb
    rcases (serves a).1 ha with hs | ⟨-, moves⟩
    · have once := h.once
      rw [GroupRecord.entries, List.map_append] at once
      exact List.disjoint_of_nodup_append once (List.mem_map_of_mem hs) (List.mem_map_of_mem hw)
    · exact stays moves
  refine ⟨servingRanked, waitingRanked, apart, fun b hb => ?_, fun e he => h.present e (kept e he)⟩
  obtain ⟨x, hx, le⟩ := holder b hb
  obtain ⟨a, ha, rfl⟩ := GroupRecord.mem_of_holder hx
  exact ⟨a.station, hx, rank_lt_of_le_of_ne le (apart a ha b hb)⟩

theorem GroupRecord.entries_without (st : Station) (r : GroupRecord) :
    (r.without st).entries = withoutStation st r.entries :=
  (List.filter_append ..).symm

theorem GroupRecord.Attended.without (h : r.Attended here) (st : Station) :
    (r.without st).Attended fun x => here x && x != st where
  once := by
    rw [GroupRecord.entries_without]
    exact h.once.sublist (List.filter_sublist.map _)
  present e he := by
    obtain ⟨mem, ne⟩ := (mem_without r st e).1 he
    simp [h.present e mem, ne]

/-- The record that a removal of station `st`'s entry leaves (R117, R122, R124). -/
def GroupRecord.removed (lead : Bool) (st : Station) (r : GroupRecord) : GroupRecord :=
  if (r.entry st).isSome then reevaluated lead (r.without st) else r

/-- A removal leaves a sound record, without the station removed. -/
theorem GroupRecord.Sound.removed (h : r.Sound lead here) (st : Station) :
    (r.removed lead st).Sound lead fun x => here x && x != st := by
  unfold GroupRecord.removed
  split
  · exact reevaluated_sound lead (h.attended.without st)
  next noEntry =>
    refine { h with present := fun e he => ?_ }
    have ne : e.station ≠ st := fun same => noEntry ((entry_isSome_iff r st).2 ⟨e, he, same⟩)
    simp [h.present e he, ne]

/-! ### Claims and watched sets -/

theorem not_mem_of_entryOf {st : Station} {es : List Entry} (h : ¬(entryOf st es).isSome = true) :
    ∀ e ∈ es, e.station ≠ st := by
  simpa [entryOf] using h

/-- A new entry added to a set leaves its other entries (R115). -/
theorem mem_inRankOrder_cons {a : Entry} {es : List Entry} (h : ranked lead es) (new : ∀ e ∈ es, e.station ≠ a.station)
    (e : Entry) : e ∈ inRankOrder lead (a :: es) ↔ e = a ∨ e ∈ es := by
  rw [mem_inRankOrder lead, List.mem_cons]
  rw [List.map_cons, List.nodup_cons, List.mem_map]
  exact ⟨fun ⟨e, he, same⟩ => new e he same, ranked_nodup h⟩

/-- A new entry that outranks all in service becomes the active holder's (R115). -/
theorem GroupRecord.Sound.serve (h : r.Sound lead here) {a : Entry} (admitted : here a.station = true)
    (new : ∀ e ∈ r.waiting, e.station ≠ a.station)
    (above : ∀ e ∈ r.inService, rank lead a.station < rank lead e.station) :
    GroupRecord.Sound lead here { r with inService := inRankOrder lead (a :: r.inService) } := by
  have inOrder : ranked lead (a :: r.inService) := List.pairwise_cons.2 ⟨above, h.servingRanked⟩
  rw [inRankOrder_eq_self inOrder]
  refine ⟨inOrder, h.waitingRanked, fun e he b hb => ?_, fun b hb => ?_, fun e he => ?_⟩
  · rcases List.mem_cons.1 he with rfl | he
    · exact (new b hb).symm
    · exact h.apart e he b hb
  · obtain ⟨x, hx, lt⟩ := h.outranked b hb
    obtain ⟨e, he, rfl⟩ := GroupRecord.mem_of_holder hx
    exact ⟨a.station, rfl, (above e he).trans lt⟩
  · rcases List.mem_cons.1 he with rfl | he
    · exact admitted
    · exact h.present e he

/-- A new entry that does not outrank an entry `m` in service waits below the active holder (R115). -/
theorem GroupRecord.Sound.wait (h : r.Sound lead here) {a m : Entry} (admitted : here a.station = true)
    (newServing : ∀ e ∈ r.inService, e.station ≠ a.station) (newWaiting : ∀ e ∈ r.waiting, e.station ≠ a.station)
    (hm : m ∈ r.inService) (below : rank lead m.station ≤ rank lead a.station) :
    GroupRecord.Sound lead here { r with waiting := inRankOrder lead (a :: r.waiting) } := by
  have mem := mem_inRankOrder_cons h.waitingRanked newWaiting
  refine ⟨h.servingRanked, inRankOrder_ranked lead _, fun e he b hb => ?_, fun b hb => ?_, fun e he => ?_⟩
  · rcases (mem b).1 hb with rfl | hb
    · exact newServing e he
    · exact h.apart e he b hb
  · rcases (mem b).1 hb with rfl | hb
    · obtain ⟨x, hx, le⟩ := GroupRecord.holder_le h.servingRanked hm
      exact ⟨x, hx, le.trans_lt (rank_lt_of_le_of_ne below (newServing m hm))⟩
    · exact h.outranked b hb
  · rcases List.mem_append.1 he with he | he
    · exact h.present e (List.mem_append_left _ he)
    · rcases (mem e).1 he with rfl | he
      · exact admitted
      · exact h.present e (List.mem_append_right _ he)

/-- A claim by a station that `here` admits leaves a sound record, whatever its outcome (R115). -/
theorem claimed_sound (h : r.Sound lead here) {st : Station} (admitted : here st = true) (single : Bool) :
    (claimed lead st single r).1.Sound lead here := by
  unfold claimed
  dsimp only
  by_cases serving : (entryOf st r.inService).isSome = true
  · rwa [if_pos serving]
  rw [if_neg serving]
  by_cases waiting : (entryOf st r.waiting).isSome = true
  · rwa [if_pos waiting]
  rw [if_neg waiting]
  have newServing := not_mem_of_entryOf serving
  have newWaiting := not_mem_of_entryOf waiting
  split
  next outranksAll => exact h.serve admitted newWaiting (by simpa [outranks] using outranksAll)
  next outranksNot =>
    obtain ⟨m, hm, below⟩ : ∃ m ∈ r.inService, rank lead m.station ≤ rank lead st := by
      simpa [outranks] using outranksNot
    exact h.wait admitted newServing newWaiting hm below

/-- A change of entries in service that keeps their stations, such as the recording of a watched set (R123), leaves a
sound record. -/
theorem GroupRecord.Sound.mapServing (h : r.Sound lead here) {f : Entry → Entry}
    (station : ∀ e, (f e).station = e.station) :
    GroupRecord.Sound lead here { r with inService := r.inService.map f } where
  servingRanked := by
    rw [ranked, List.pairwise_map]
    simpa only [ranked, station] using h.servingRanked
  waitingRanked := h.waitingRanked
  apart := by simpa only [List.forall_mem_map, station] using h.apart
  outranked := by simpa [GroupRecord.holder, station] using h.outranked
  present := by
    intro e he
    rcases List.mem_append.1 he with he | he
    · obtain ⟨a, ha, rfl⟩ := List.mem_map.1 he
      rw [station]
      exact h.present a (List.mem_append_left _ ha)
    · exact h.present e (List.mem_append_right _ he)

end

end Sys2Proof.Machine

/-! PROOFS. Every step keeps every group's authority record sound (R114, R119, R122): settles O57. An event leaves the
records and the stations PRESENT, or changes a record by an operation that leaves a sound one, or empties them all. -/

namespace Sys2Proof.Machine

/-! ### Keeping the authority records sound -/

/-- The authority records of `t` are sound where those of `s` are. -/
def AuthorityKept (s t : State) : Prop := s.authoritySound → t.authoritySound

theorem AuthorityKept.refl (s : State) : AuthorityKept s s := id

theorem AuthorityKept.trans {s t u : State} (h : AuthorityKept s t) (h' : AuthorityKept t u) : AuthorityKept s u :=
  h' ∘ h

theorem AuthorityKept.foldl {α : Type} {f : State → α → State} (hf : ∀ s a, AuthorityKept s (f s a)) :
    ∀ (l : List α) (s : State), AuthorityKept s (l.foldl f s)
  | [], s => .refl s
  | a :: l, s => (hf s a).trans (AuthorityKept.foldl hf l (f s a))

/-- An event that goes one of two ways under a condition. -/
theorem AuthorityKept.ite {c : Prop} [Decidable c] {s t u : State} (ht : c → AuthorityKept s t)
    (hu : ¬c → AuthorityKept s u) : AuthorityKept s (if c then t else u) := by
  split
  next h => exact ht h
  next h => exact hu h

/-- Records that stand stay sound while the rank order stands and no station becomes ABSENT. -/
theorem AuthorityKept.of_records {s t : State} (records : t.records = s.records)
    (lead : t.table.settings.vesselLead = s.table.settings.vesselLead)
    (present : ∀ x, s.present x = true → t.present x = true) : AuthorityKept s t := by
  intro h
  rw [State.authoritySound_iff] at h ⊢
  intro g
  rw [State.record, records, lead]
  exact (h g).mono present

/-- A change of nothing that R114 reads keeps the records sound. -/
theorem AuthorityKept.of_same {s t : State} (records : t.records = s.records) (table : t.table = s.table)
    (links : t.links = s.links) : AuthorityKept s t :=
  .of_records records (by rw [table]) fun x => by simp only [State.present, State.link, links, imp_self]

/-- Empty records are sound (R132). -/
theorem authoritySound_of_empty {s : State} (h : s.records = Vector.replicate 4 emptyRecord) : s.authoritySound := by
  rw [State.authoritySound_iff]
  intro g
  have empty : s.record g = emptyRecord := by simp [State.record, h]
  rw [empty]
  exact emptyRecord_sound _ _

/-- The Arbiter leaves the rank order and the stations PRESENT, so that sound records are all it takes. -/
theorem AuthorityOnly.authoritySound {s t : State} (h : AuthorityOnly s t)
    (sound : ∀ g, (t.record g).Sound s.table.settings.vesselLead s.present) : t.authoritySound := by
  rw [State.authoritySound_iff]
  intro g
  rw [h.table]
  exact (sound g).mono fun x => (h.present x).trans

/-! ### The Arbiter -/

/-- A change of one group's record to a sound one (R120). -/
theorem setRecord_authorityKept {s : State} {g : GroupNo} {r : GroupRecord}
    (hr : (s.record g).Sound s.table.settings.vesselLead s.present → r.Sound s.table.settings.vesselLead s.present) :
    AuthorityKept s (s.setRecord g r) := by
  intro h
  rw [State.authoritySound_iff] at h
  refine (setRecord_authorityOnly g r s).authoritySound fun x => ?_
  rw [setRecord_record]
  split
  · exact hr (h g)
  · exact h x

theorem removeEntry_record_eq (st : Station) (g x : GroupNo) (s : State) :
    (s.removeEntry st g).record x
      = if x = g then (s.record g).removed s.table.settings.vesselLead st else s.record x := by
  rw [removeEntry_record, GroupRecord.removed]
  by_cases hx : x = g
  · subst hx; simp
  · simp [hx]

theorem removeEntry_authorityKept (st : Station) (g : GroupNo) (s : State) : AuthorityKept s (s.removeEntry st g) := by
  intro h
  rw [State.authoritySound_iff] at h
  refine (removeEntry_authorityOnly st g s).authoritySound fun x => ?_
  rw [removeEntry_record_eq]
  split
  · exact ((h g).removed st).mono fun y hy => (Bool.and_eq_true_iff.1 hy).1
  · exact h x

/-- The records after an operation of the Arbiter on every group in turn, of which each works its own group alone. -/
theorem record_foldl_allGroups {f : State → GroupNo → State} {F : Bool → GroupRecord → GroupRecord}
    (only : ∀ s g, AuthorityOnly s (f s g))
    (record : ∀ s g x, (f s g).record x = if x = g then F s.table.settings.vesselLead (s.record g) else s.record x)
    (s : State) (g : GroupNo) :
    (allGroups.foldl f s).record g = F s.table.settings.vesselLead (s.record g) := by
  have table (s : State) (g : GroupNo) : (f s g).table = s.table := (only s g).table
  unfold allGroups
  match g with
  | 0 | 1 | 2 | 3 => simp [record, table]

/-- The re-evaluation of every group makes sound records of all that hold each station once, and only PRESENT ones: the
order before may be another (R121). -/
theorem reevaluateAll_authoritySound {s : State} (h : ∀ g, (s.record g).Attended s.present) :
    s.reevaluateAll.authoritySound := by
  refine (reevaluateAll_authorityOnly s).authoritySound fun g => ?_
  have record : s.reevaluateAll.record g = reevaluated s.table.settings.vesselLead (s.record g) :=
    record_foldl_allGroups (fun s g => setRecord_authorityOnly g _ s) (fun s g x => setRecord_record g x _ s) s g
  rw [record]
  exact reevaluated_sound _ (h g)

/-- The single-command test only removes entries (R124). -/
theorem singleTest_authorityKept (n : LineNo) (s : State) : AuthorityKept s (s.singleTest n) :=
  .foldl (fun _ _ => .foldl (fun s _ => .ite (fun _ => removeEntry_authorityKept _ _ s) fun _ => .refl s) _ _) _ s

theorem lineChanged_authorityKept (n : LineNo) (l : Line) (s : State) : AuthorityKept s (s.lineChanged n l) := by
  have beside := lineChanged_besideLines n l s
  refine .of_records ?_ (by rw [beside.table]) fun x => (beside.present x).trans
  unfold State.lineChanged
  split <;> rfl

/-- A change of a line's record, whatever it is, reaches the authority records by the single-command test alone. -/
theorem onLine_authorityKept (n : LineNo) (f : Line → Line) (s : State) : AuthorityKept s (s.onLine n f) :=
  have changed := lineChanged_authorityKept n (f (s.line n)) s
  .ite (fun _ => changed) fun _ => changed.trans (singleTest_authorityKept n _)

theorem setWatched_authorityKept (st : Station) (g : GroupNo) (ns : List LineNo) (s : State) :
    AuthorityKept s (s.setWatched st g ns) := by
  intro h
  rw [State.authoritySound_iff] at h
  refine (setWatched_authorityOnly st g ns s).authoritySound fun x => ?_
  rw [State.setWatched, State.record_putRecord]
  split
  · exact (h g).mapServing fun e => by split <;> rfl
  · exact h x

theorem recordWatched_authorityKept (st : Station) (taken : List LineNo) (s : State) :
    AuthorityKept s (s.recordWatched st taken) := by
  refine .foldl (fun s g => ?_) _ s
  have watched := setWatched_authorityKept st g (taken.filter fun n => (s.setup n).group == g) s
  unfold State.recordWatchedIn
  dsimp only
  split
  · exact .ite (fun _ => .ite (fun _ => watched.trans (removeEntry_authorityKept st g _)) fun _ => watched)
      fun _ => .refl s
  · exact .refl s

/-! ### Changes that do not reach the Arbiter -/

theorem putLine_authorityKept (n : LineNo) (l : Line) (s : State) : AuthorityKept s (s.putLine n l) :=
  .of_same rfl rfl rfl

theorem reevaluateInhibits_authorityKept (own : Option LineNo) (s : State) :
    AuthorityKept s (s.reevaluateInhibits own) :=
  have only := (reevaluateInhibits_spec own s).1
  .of_same only.records only.table only.links

/-- A change of a station's items that does not make it ABSENT keeps the records sound. -/
theorem onLink_authorityKept (st : Station) (f : Link → Link) (s : State)
    (hf : ∀ k, k.presence = .present → (f k).presence = .present := by exact fun _ => id) :
    AuthorityKept s (s.onLink st f) := by
  refine .of_records rfl rfl fun x hx => ?_
  simp only [State.present, beq_iff_eq, State.link_onLink] at hx ⊢
  split
  · exact hf _ hx
  · exact hx

theorem latchLinkError_authorityKept (st : Station) (s : State) : AuthorityKept s (s.latchLinkError st) :=
  onLink_authorityKept st _ s

theorem placeReply_authorityKept (st : Station) (kind : Byte) (body : List Byte) (s : State) :
    AuthorityKept s (s.placeReply st kind body) := onLink_authorityKept st _ s

/-- The send lane's work keeps the records sound. -/
theorem SendOnly.authorityKept {st : Station} {s t : State} (h : SendOnly st s t) : AuthorityKept s t := by
  obtain ⟨⟨only, others⟩, sent⟩ := h
  refine .of_records (by rw [only]) (by rw [only]) fun x hx => ?_
  by_cases same : x = st
  · rw [same] at hx ⊢
    rw [State.present, sent]
    exact hx
  · rwa [State.present, others x same]

theorem appendQueue_authorityKept (ns : List LineNo) (s : State) : AuthorityKept s (s.appendQueue ns) := by
  rw [appendQueue_spec]
  exact .of_same rfl rfl rfl

theorem dueTake_authorityKept (s : State) : AuthorityKept s s.dueTake :=
  .ite (fun _ => .refl s) fun _ => .of_same rfl rfl rfl

/-! ### The stages of a sample event and of a count event -/

theorem afterLatch_authorityKept (n : LineNo) (s : State) : AuthorityKept s (s.afterLatch n) :=
  have reevaluated := reevaluateInhibits_authorityKept (some n) s
  .ite (fun _ => reevaluated.trans (onLine_authorityKept n _ _)) fun _ => reevaluated

theorem protectionStage_authorityKept (n : LineNo) (s : State) : AuthorityKept s (s.protectionStage n) := by
  have reported (l : Line) (f : Line → Line) : AuthorityKept s ((s.putLine n l).onLine n f) :=
    (putLine_authorityKept n l s).trans (onLine_authorityKept n f _)
  refine .ite (fun _ => .ite (fun _ => ?_) fun _ => .ite (fun _ => ?_) fun _ => ?_)
    fun _ => .ite (fun _ => ?_) fun _ => ?_
  · exact putLine_authorityKept n _ s
  · exact reported _ _
  · exact (reported _ _).trans (afterLatch_authorityKept n _)
  · exact (reported _ _).trans (afterLatch_authorityKept n _)
  · exact putLine_authorityKept n _ s

theorem tensionStage_authorityKept (n : LineNo) (sample : BitVec 12) (s : State) :
    AuthorityKept s (s.tensionStage n sample) :=
  .ite (fun _ => ((putLine_authorityKept n _ s).trans (onLine_authorityKept n _ _)).trans
    (protectionStage_authorityKept n _)) fun _ => .refl s

theorem sensorStage_authorityKept (n : LineNo) (sample : BitVec 12) (s : State) :
    AuthorityKept s (s.sensorStage n sample) :=
  have counted (u : Sense) := putLine_authorityKept n { s.line n with sense := u } s
  .ite (fun _ => (counted _).trans (onLine_authorityKept n _ _)) fun _ => counted _

theorem hookChange_authorityKept (n : LineNo) (old new : HookPos) (s : State) :
    AuthorityKept s (s.hookChange n old new) :=
  have reported := onLine_authorityKept n (Line.hookReport s.berth old new) s
  .ite (fun _ => reported.trans (appendQueue_authorityKept _ _)) fun _ => reported

theorem switchStage_authorityKept (n : LineNo) (pins : SwitchPins) (s : State) :
    AuthorityKept s (s.switchStage n pins) := by
  unfold State.switchStage
  extract_lets old new _ s1 s2 s3
  have read : AuthorityKept s s1 := putLine_authorityKept n _ s
  have hook : AuthorityKept s s2 := .ite (fun _ => read) fun _ => read.trans (hookChange_authorityKept n _ _ _)
  have stowed : AuthorityKept s s3 := .ite (fun _ => hook.trans (onLine_authorityKept n _ _)) fun _ => hook
  exact .ite (fun _ => stowed.trans (onLine_authorityKept n _ _)) fun _ => stowed

theorem profileStage_authorityKept (n : LineNo) (s : State) : AuthorityKept s (s.profileStage n) := by
  refine .ite (fun _ => onLine_authorityKept n _ s) fun _ => ?_
  cases (s.line n).joined with
  | none => exact .refl s
  | some p => exact onLine_authorityKept n _ s

theorem sampleEvent_authorityKept (n : LineNo) (sample : BitVec 12) (pins : SwitchPins) (s : State) :
    AuthorityKept s (s.sampleEvent n sample pins) := by
  have timed := putLine_authorityKept n (s.line n).advanceHookTimer s
  have switched := (timed.trans (profileStage_authorityKept n _)).trans (switchStage_authorityKept n pins _)
  have loaded := (switched.trans (sensorStage_authorityKept n sample _)).trans (tensionStage_authorityKept n sample _)
  exact AuthorityKept.trans (.ite (fun _ => loaded) fun _ => timed) (onLine_authorityKept n _ _)

theorem countEvent_authorityKept (n : LineNo) (step : EncoderStep) (s : State) :
    AuthorityKept s (s.countEvent n step) := by
  refine .ite (fun _ => ?_) fun _ => .refl s
  dsimp only
  cases countDirection (s.setup n).hand step with
  | none => exact putLine_authorityKept n _ s
  | some d => exact (putLine_authorityKept n _ s).trans (onLine_authorityKept n _ _)

/-! ### Line commands -/

theorem takeLines_authorityKept {f : LineNo → State → State × ReplyCode} (hf : ∀ n s, AuthorityKept s (f n s).1) :
    ∀ (ns : List LineNo) (s : State), AuthorityKept s (takeLines f ns s).1
  | [], s => .refl s
  | n :: ns, s => (hf n s).trans (takeLines_authorityKept hf ns (f n s).1)

theorem lineCommand_authorityKept {f : (LineNo → Bool) → LineNo → State → State × ReplyCode}
    (hf : ∀ permit n s, AuthorityKept s (f permit n s).1) (st : Station) (kind lines : Byte) (s : State) :
    AuthorityKept s (s.lineCommand st kind lines f) :=
  .ite (fun _ => placeReply_authorityKept st _ _ s) fun _ =>
    ((takeLines_authorityKept (hf _) _ s).trans (recordWatched_authorityKept st _ _)).trans
      (placeReply_authorityKept st _ _ _)

/-- A line command turned away for a line leaves the state (R43). -/
theorem refused_authorityKept {c : Prop} [Decidable c] {s : State} {code : ReplyCode} {taken : State × ReplyCode}
    (h : AuthorityKept s taken.1) : AuthorityKept s (if c then (s, code) else taken).1 := by
  split
  · exact .refl s
  · exact h

theorem doLine_authorityKept (n : LineNo) (f : Line → Line) (s : State) : AuthorityKept s (s.doLine n f).1 :=
  onLine_authorityKept n f s

theorem deployLine_authorityKept (permit : LineNo → Bool) (n : LineNo) (s : State) :
    AuthorityKept s (deployLine permit n s).1 :=
  refused_authorityKept <| refused_authorityKept <| refused_authorityKept <| refused_authorityKept <|
    refused_authorityKept <| refused_authorityKept <| doLine_authorityKept n _ s

theorem engageLine_authorityKept (permit : LineNo → Bool) (n : LineNo) (s : State) :
    AuthorityKept s (engageLine permit n s).1 :=
  refused_authorityKept <| refused_authorityKept <| refused_authorityKept <| doLine_authorityKept n _ s

theorem lockLine_authorityKept (permit : LineNo → Bool) (n : LineNo) (s : State) :
    AuthorityKept s (lockLine permit n s).1 := by
  refine refused_authorityKept <| refused_authorityKept <| refused_authorityKept <| refused_authorityKept ?_
  split
  · exact doLine_authorityKept n _ s
  · exact refused_authorityKept <| refused_authorityKept <| doLine_authorityKept n _ s

theorem holdLine_authorityKept (permit : LineNo → Bool) (n : LineNo) (s : State) :
    AuthorityKept s (holdLine permit n s).1 := by
  refine refused_authorityKept ?_
  generalize (s.line n).control.state = x
  cases x with
  | locked | rendering | recovering | hauling | slacking | deploying | rewinding => exact doLine_authorityKept n _ s
  | _ => exact .refl s

theorem markLine_authorityKept (permit : LineNo → Bool) (n : LineNo) (s : State) :
    AuthorityKept s (Machine.markLine permit n s).1 := by
  refine refused_authorityKept ?_
  generalize (s.line n).control.state = x
  cases x with
  | locked | held => exact doLine_authorityKept n _ s
  | _ => exact .refl s

theorem releaseLine_authorityKept (thenRewind : Bool) (permit : LineNo → Bool) (n : LineNo) (s : State) :
    AuthorityKept s (releaseLine thenRewind permit n s).1 := by
  refine refused_authorityKept <| refused_authorityKept <| refused_authorityKept ?_
  generalize (s.line n).control.state = x
  cases x with
  | locked | rendering | recovering | held | hauling => exact doLine_authorityKept n _ s
  | _ => exact .refl s

theorem rewindLine_authorityKept (permit : LineNo → Bool) (n : LineNo) (s : State) :
    AuthorityKept s (rewindLine permit n s).1 :=
  refused_authorityKept <| refused_authorityKept <| refused_authorityKept <| refused_authorityKept <|
    doLine_authorityKept n _ s

theorem resetLineOne_authorityKept (permit : LineNo → Bool) (n : LineNo) (s : State) :
    AuthorityKept s (resetLineOne permit n s).1 :=
  refused_authorityKept <| refused_authorityKept <| doLine_authorityKept n _ s

theorem quickReleaseLine_authorityKept (st : Station) (permit : LineNo → Bool) (n : LineNo) (s : State) :
    AuthorityKept s (quickReleaseLine st permit n s).1 :=
  refused_authorityKept <| refused_authorityKept <| refused_authorityKept <| appendQueue_authorityKept [n] s

/-! ### Authority requests and clears -/

/-- What each group of a request keeps, the request keeps. -/
theorem takeGroups_keeps {P : State → Prop} {f : GroupNo → State → State × ReplyCode} (hf : ∀ g s, P s → P (f g s).1) :
    ∀ (gs : List GroupNo) (s : State), P s → P (takeGroups f gs s).1
  | [], _, h => h
  | g :: gs, s, h => takeGroups_keeps hf gs (f g s).1 (hf g s h)

/-- A claim adds an entry of its sender, so that it keeps soundness while the sender is PRESENT (R115, R122). -/
theorem takeClaim_authorityKept {st : Station} (groups option : Byte) {s : State} (hst : s.present st = true) :
    AuthorityKept s (takeClaim st groups option s) := by
  intro h
  have claims (g : GroupNo) (u : State) (hu : u.authoritySound ∧ u.present st = true) :
      (claimGroup st (option == 1#8) g u).1.authoritySound
        ∧ (claimGroup st (option == 1#8) g u).1.present st = true := by
    obtain ⟨sound, present⟩ := hu
    exact ⟨setRecord_authorityKept (fun h => claimed_sound h present _) sound,
      ((setRecord_authorityOnly g _ u).present st).trans present⟩
  obtain ⟨sound, -⟩ :=
    takeGroups_keeps (P := fun u => u.authoritySound ∧ u.present st = true) claims (maskGroups groups) s ⟨h, hst⟩
  exact placeReply_authorityKept st _ _ _ sound

theorem takeYield_authorityKept (st : Station) (groups : Byte) (s : State) :
    AuthorityKept s (takeYield st groups s) := by
  have yields (g : GroupNo) (u : State) : AuthorityKept u (yieldGroup st g u).1 := by
    unfold yieldGroup
    split
    · exact removeEntry_authorityKept st g u
    · exact .refl u
  exact fun h => placeReply_authorityKept st _ _ _ (takeGroups_keeps yields _ s h)

theorem clearLine_authorityKept (st : Station) (flags : BitVec 16) (n : LineNo) (s : State) :
    AuthorityKept s (clearLine st flags n s).1 := by
  have cleared := putLine_authorityKept n ((s.line n).clear ((s.line n).control.flags &&& flags.truncate 10)) s
  unfold clearLine
  dsimp only
  split
  · exact .refl s
  · split
    · exact .refl s
    · split
      · dsimp only
        exact (cleared.trans (putLine_authorityKept n _ _)).trans (reevaluateInhibits_authorityKept none _)
      · exact cleared

theorem clearLines_authorityKept (st : Station) (flags : BitVec 16) :
    ∀ (ns : List LineNo) (s : State), AuthorityKept s (clearLines st flags ns s).1
  | [], s => .refl s
  | n :: ns, s => (clearLine_authorityKept st flags n s).trans (clearLines_authorityKept st flags ns _)

theorem takeClearFlags_authorityKept (st : Station) (lines : Byte) (flags : BitVec 16) (s : State) :
    AuthorityKept s (takeClearFlags st lines flags s) :=
  (clearLines_authorityKept st flags _ s).trans (placeReply_authorityKept st _ _ _)

theorem takeClearStation_authorityKept (st : Station) (indicators : Byte) (s : State) :
    AuthorityKept s (takeClearStation st indicators s) :=
  (onLink_authorityKept st _ s).trans (placeReply_authorityKept st _ _ _)

/-! ### Writes -/

theorem AuthorityKept.answer {s t : State} (h : AuthorityKept s t) (st : Station) (kind : Byte) (c : ReplyCode) :
    AuthorityKept s (t.answer st kind c) := h.trans (placeReply_authorityKept st kind _ t)

/-- A request turned away by an outcome code alone. -/
theorem answered_authorityKept {c : Prop} [Decidable c] {s t : State} {st : Station} {kind : Byte} {code : ReplyCode}
    (h : AuthorityKept s t) : AuthorityKept s (if c then s.answer st kind code else t) :=
  .ite (fun _ => (AuthorityKept.refl s).answer st kind code) fun _ => h

theorem takeWriteProfile_authorityKept (st : Station) (group : Byte) (p : Profile) (s : State) :
    AuthorityKept s (takeWriteProfile st group p s) := by
  have only := writeProfile_profilesOnly (groupOf group) p s
  have written : AuthorityKept s (s.writeProfile (groupOf group) p) :=
    .of_records (by rw [only]) (by rw [only]) fun x => by simp only [State.present, only.link, imp_self]
  exact answered_authorityKept <| answered_authorityKept <| answered_authorityKept <| written.answer st _ _

/-- A change of vessel-lead changes the rank order, and re-evaluates every group under the new one (R107, R121). -/
theorem writeBerth_authorityKept (b : BerthSettings) (s : State) : AuthorityKept s (s.writeBerth b) := by
  unfold State.writeBerth
  extract_lets old _ s1 s2
  have inhibits : InhibitsOnly s1 s2 := by
    unfold s2
    split
    · exact .refl s1
    · exact (reevaluateInhibits_spec none s1).1
  have present : s2.present = s.present := by funext x; simp only [State.present, State.link, inhibits.links, s1]
  have record : s2.record = s.record := by funext g; simp only [State.record, inhibits.records, s1]
  split
  next same =>
    exact .of_records inhibits.records (by rw [inhibits.table]; exact same.symm) fun x => by rw [present]; exact id
  next =>
    intro h
    rw [State.authoritySound_iff] at h
    refine reevaluateAll_authoritySound fun g => ?_
    rw [record, present]
    exact (h g).attended

theorem takeWriteBerth_authorityKept (st : Station) (scope stagger lead : Byte) (s : State) :
    AuthorityKept s (takeWriteBerth st scope stagger lead s) := by
  refine answered_authorityKept <| answered_authorityKept ?_
  cases settingsOfBytes scope stagger lead with
  | none => exact (AuthorityKept.refl s).answer st _ _
  | some b => exact (writeBerth_authorityKept b s).answer st _ _

theorem writeSetup_authorityKept (n : LineNo) (u : LineSetup) (s : State) : AuthorityKept s (s.writeSetup n u) := by
  unfold State.writeSetup
  extract_lets old _ s1 s2
  have taken : AuthorityKept s s2 :=
    AuthorityKept.trans (.of_records rfl rfl fun _ => id) (onLine_authorityKept n _ s1)
  exact .ite (fun _ => taken) fun _ => taken.trans (reevaluateInhibits_authorityKept none s2)

theorem takeWriteLineSetup_authorityKept (st : Station) (line : Byte) (f : SetupFields) (s : State) :
    AuthorityKept s (takeWriteLineSetup st line f s) := by
  refine answered_authorityKept <| answered_authorityKept <| answered_authorityKept <| answered_authorityKept <|
    answered_authorityKept ?_
  cases setupOfFields f with
  | none => exact (AuthorityKept.refl s).answer st _ _
  | some u => exact (writeSetup_authorityKept _ u s).answer st _ _

theorem takeSaveSetup_authorityKept (st : Station) (s : State) : AuthorityKept s (takeSaveSetup st s) :=
  have started : AuthorityKept s s.startSave := .of_records rfl rfl fun _ => id
  answered_authorityKept <| answered_authorityKept <| answered_authorityKept <| started.answer st _ _

theorem takeRestart_authorityKept (st : Station) (s : State) : AuthorityKept s (takeRestart st s) :=
  have joined (waiting : List Station) : AuthorityKept s { s with pendingRestart := waiting } := .of_same rfl rfl rfl
  answered_authorityKept <| answered_authorityKept <| (joined _).answer st _ _

/-! ### Request events -/

/-- A request event takes the requests of PRESENT stations alone (R122, R161). -/
theorem requestEvent_authorityKept {take : State → State} (st : Station) (bodyOk : Bool) {s : State}
    (h : s.present st = true → AuthorityKept s (take s)) : AuthorityKept s (s.requestEvent st bodyOk take) :=
  .ite (fun _ => .refl s) fun present =>
    .ite (fun _ => latchLinkError_authorityKept st s) fun _ => h (by simpa using present)

theorem dispatchRequest_authorityKept (i : Instr) (s : State) : AuthorityKept s (dispatchRequest i s) := by
  have event {take : State → State} (st : Station) {bodyOk : Bool} (h : AuthorityKept s (take s)) :
      AuthorityKept s (s.requestEvent st bodyOk take) := requestEvent_authorityKept st bodyOk fun _ => h
  cases i with
  | claim st groups option => exact requestEvent_authorityKept st _ (takeClaim_authorityKept groups option)
  | yieldGroups st groups => exact event st (takeYield_authorityKept st groups s)
  | query st | readLines st | readGroup st | readSetup st => exact event st (placeReply_authorityKept st _ _ s)
  | deploy st lines => exact event st (lineCommand_authorityKept deployLine_authorityKept st _ lines s)
  | engage st lines => exact event st (lineCommand_authorityKept engageLine_authorityKept st _ lines s)
  | lock st lines => exact event st (lineCommand_authorityKept lockLine_authorityKept st _ lines s)
  | hold st lines => exact event st (lineCommand_authorityKept holdLine_authorityKept st _ lines s)
  | mark st lines => exact event st (lineCommand_authorityKept markLine_authorityKept st _ lines s)
  | release st lines option =>
    exact event st (lineCommand_authorityKept (releaseLine_authorityKept _) st _ lines s)
  | rewind st lines => exact event st (lineCommand_authorityKept rewindLine_authorityKept st _ lines s)
  | quickRelease st lines =>
    exact event st (lineCommand_authorityKept (quickReleaseLine_authorityKept st) st _ lines s)
  | resetLine st lines => exact event st (lineCommand_authorityKept resetLineOne_authorityKept st _ lines s)
  | clearFlags st lines flags => exact event st (takeClearFlags_authorityKept st lines flags s)
  | clearStation st indicators => exact event st (takeClearStation_authorityKept st indicators s)
  | writeProfile st group p => exact event st (takeWriteProfile_authorityKept st group p s)
  | writeBerth st scope stagger lead => exact event st (takeWriteBerth_authorityKept st scope stagger lead s)
  | writeLineSetup st line f => exact event st (takeWriteLineSetup_authorityKept st line f s)
  | saveSetup st => exact event st (takeSaveSetup_authorityKept st s)
  | restart st => exact event st (takeRestart_authorityKept st s)
  | _ => exact .refl s

/-! ### Resets and presence -/

theorem abandonSave_authorityKept (s : State) : AuthorityKept s s.abandonSave := by
  unfold State.abandonSave
  split
  · exact .refl s
  · exact .of_records rfl rfl fun _ => id

/-- A load changes no berth setting (R110). -/
theorem load_authorityKept (s : State) : AuthorityKept s s.load := by
  refine .of_records rfl ?_ fun _ => id
  unfold State.load GroupTable.load
  dsimp only
  split <;> rfl

theorem losePower_authorityKept (s : State) : AuthorityKept s s.losePower :=
  (abandonSave_authorityKept s).trans (.of_same rfl rfl rfl)

theorem assertReset_authorityKept (s : State) : AuthorityKept s s.assertReset :=
  .ite (fun _ _ => authoritySound_of_empty rfl) fun _ => .of_same rfl rfl rfl

theorem releaseReset_authorityKept (s : State) : AuthorityKept s s.releaseReset :=
  have released (u : State) : AuthorityKept u { u with resetAsserted := false } := .of_same rfl rfl rfl
  .ite (fun _ => .ite (fun _ => (load_authorityKept s).trans (released _)) fun _ => released s) fun _ => .refl s

/-- A restart empties the records, whatever they were (R132, R170). -/
theorem restartPart_authoritySound (st : Station) (s : State) : (s.restartPart st).authoritySound := by
  unfold State.restartPart
  exact AuthorityKept.foldl (fun s x => (composeSlot_sendOnly x s).authorityKept) _ _ (authoritySound_of_empty rfl)

/-- A station that becomes ABSENT leaves every group (R122, R150). -/
theorem losePresence_authorityKept (st : Station) (s : State) : AuthorityKept s (s.losePresence st) := by
  intro h
  rw [State.authoritySound_iff] at h
  unfold State.losePresence
  extract_lets before s1 s2 s3
  have records : s3.records = s.records ∧ s3.table = s.table ∧ s3.links = s1.links := by
    unfold s3 s2
    split <;> exact ⟨rfl, rfl, rfl⟩
  obtain ⟨records, table, links⟩ := records
  have present (x : Station) : s3.present x = (s.present x && x != st) := by
    simp only [State.present, State.link, links]
    change ((s1.link x).presence == .present) = _
    rw [State.link_onLink]
    by_cases hx : x = st
    · simp [hx, Link.lost]
    · simp [hx, State.link]
  refine (AuthorityOnly.foldl _ (fun s g => removeEntry_authorityOnly st g s) _ s3).authoritySound fun g => ?_
  rw [record_foldl_allGroups (F := fun lead r => r.removed lead st) (fun s g => removeEntry_authorityOnly st g s)
    (fun s g x => removeEntry_record_eq st g x s), table, State.record, records]
  exact ((h g).removed st).mono fun x hx => (present x).trans hx

/-! ### The frame event -/

theorem presenceStep_authorityKept (st : Station) (good : Bool) (s : State) :
    AuthorityKept s (s.presenceStep st good) := by
  unfold State.presenceStep
  dsimp only
  split
  · exact .ite (fun _ => onLink_authorityKept st _ s fun _ _ => rfl) fun _ => onLink_authorityKept st _ s
  · exact onLink_authorityKept st _ s
  · exact onLink_authorityKept st _ s
  · exact .ite (fun _ => losePresence_authorityKept st s) fun _ => onLink_authorityKept st _ s

theorem stanceStep_authorityKept (st : Station) (code : BitVec 4) (s : State) :
    AuthorityKept s (s.stanceStep st code) := by
  unfold State.stanceStep
  extract_lets k s1
  have read : AuthorityKept s s1 := onLink_authorityKept st _ s
  split
  · exact read.trans (latchLinkError_authorityKept st s1)
  · have validated (x : Stance) : AuthorityKept s (s1.onLink st fun k => { k with stance := x }) :=
      read.trans (onLink_authorityKept st _ s1)
    exact .ite (fun _ => (validated _).trans (.of_same rfl rfl rfl)) fun _ => read

theorem messageComplete_authorityKept (st : Station) (kind : Byte) (length : Nat) (bytes : List Byte) (s : State) :
    AuthorityKept s (s.messageComplete st kind length bytes) := by
  refine .ite (fun _ => latchLinkError_authorityKept st s) fun _ => ?_
  cases decodeRequest st kind bytes with
  | none => exact latchLinkError_authorityKept st s
  | some i => exact dispatchRequest_authorityKept i s

theorem takeByte_authorityKept (st : Station) (b : Byte) (s : State) : AuthorityKept s (s.takeByte st b) := by
  have next (m : Incoming) : AuthorityKept s ((s.onLink st fun k => { k with gap := 0 }).setIncoming st m) :=
    (onLink_authorityKept st _ s).trans (onLink_authorityKept st _ _)
  unfold State.takeByte
  dsimp only
  split
  · exact next _
  · exact .ite (fun _ => (next _).trans (latchLinkError_authorityKept st _)) fun _ =>
      .ite (fun _ => (next _).trans (messageComplete_authorityKept st _ _ _ _)) fun _ => next _
  · exact .ite (fun _ => (next _).trans (messageComplete_authorityKept st _ _ _ _)) fun _ => next _

theorem abortGap_authorityKept (st : Station) (s : State) : AuthorityKept s (s.abortGap st) :=
  onLink_authorityKept st _ s

theorem gapStep_authorityKept (st : Station) (s : State) : AuthorityKept s (s.gapStep st) :=
  .ite (fun _ => .refl s) fun _ =>
    .ite (fun _ => abortGap_authorityKept st s) fun _ => onLink_authorityKept st _ s

theorem receiveStep_authorityKept (st : Station) (offer : Bool) (b : Byte) (s : State) :
    AuthorityKept s (s.receiveStep st offer b) := by
  unfold State.receiveStep
  extract_lets r s1
  have received : AuthorityKept s s1 := onLink_authorityKept st _ s
  split
  · exact received.trans (takeByte_authorityKept st _ s1)
  · exact received.trans (gapStep_authorityKept st s1)

/-- A lane completion works the send lane, or restarts the part (R156, R170). -/
theorem laneCompletion_authorityKept (st : Station) (isReply : Bool) (s : State) :
    AuthorityKept s (s.laneCompletion st isReply) :=
  .ite (fun _ _ => restartPart_authoritySound st _) fun _ => onLink_authorityKept st _ s

theorem sendStep_authorityKept (st : Station) (take : Bool) (s : State) : AuthorityKept s (s.sendStep st take) := by
  unfold State.sendStep
  dsimp only
  split
  · exact .refl s
  · refine .ite (fun _ => ?_) fun _ => .refl s
    split
    · exact .ite (fun _ => onLink_authorityKept st _ s) fun _ => laneCompletion_authorityKept st _ s
    · exact onLink_authorityKept st _ s
  · refine .ite (fun _ => .refl s) fun _ => ?_
    split
    · split <;> exact onLink_authorityKept st _ s
    · exact onLink_authorityKept st _ s

theorem contentStep_authorityKept (st : Station) (slot : BitVec 32) (s : State) :
    AuthorityKept s (s.contentStep st slot) :=
  have received := (stanceStep_authorityKept st (slotStance slot) s).trans
    (receiveStep_authorityKept st (slotOffer slot) (slotByte slot) _)
  .ite (fun _ => .ite (fun _ => received) fun _ => received.trans (beginTransfer_sendOnly st _).authorityKept)
    fun _ => received.trans (sendStep_authorityKept st _ _)

theorem frameEvent_authorityKept (st : Station) (slot : BitVec 32) (s : State) :
    AuthorityKept s (s.frameEvent st slot) := by
  have decided := presenceStep_authorityKept st (slotGood slot) s
  refine AuthorityKept.trans ?_ (composeSlot_sendOnly st _).authorityKept
  exact .ite (fun _ => .ite (fun _ => decided.trans (contentStep_authorityKept st slot _))
    fun _ => decided.trans (gapStep_authorityKept st _)) fun _ => decided

/-! ### The Berth Action Unit and the setup store -/

theorem queueTake_authorityKept (s : State) : AuthorityKept s s.queueTake := by
  unfold State.queueTake
  split
  · exact .refl s
  next n rest _ =>
    have popped : AuthorityKept s (s.popQueue rest) := .of_same rfl rfl rfl
    have opened := popped.trans (onLine_authorityKept n Line.queueHead _)
    exact .ite (fun _ => opened.trans (.of_same rfl rfl rfl)) fun _ =>
      .ite (fun _ => opened) fun _ => opened.trans (dueTake_authorityKept _)

theorem staggerExpire_authorityKept (s : State) : AuthorityKept s s.staggerExpire := by
  rw [staggerExpire_spec]
  exact .of_same rfl rfl rfl

theorem staggerTick_authorityKept (s : State) : AuthorityKept s s.staggerTick := by
  unfold State.staggerTick
  split
  · exact .refl s
  · exact .ite (fun _ => staggerExpire_authorityKept s) fun _ => .of_same rfl rfl rfl

theorem startReleaseAll_authorityKept (s : State) : AuthorityKept s s.startReleaseAll :=
  have appended (ns : List LineNo) := appendQueue_authorityKept ns s
  .ite (fun _ => appended _) fun _ => (appended _).trans (.of_same rfl rfl rfl)

theorem takeStance_authorityKept (st : Station) (before after : Stance) (s : State) :
    AuthorityKept s (s.takeStance st before after) := by
  have recomputed : AuthorityKept s s.recomputeStopped := by
    rw [recomputeStopped_spec]
    exact .of_same rfl rfl rfl
  exact .ite (fun _ => .ite (fun _ => recomputed.trans (startReleaseAll_authorityKept _))
    fun _ => recomputed.trans (latchLinkError_authorityKept st _)) fun _ => recomputed

theorem takeDue_authorityKept (e : DueEvent) (s : State) : AuthorityKept s (s.takeDue e) := .of_same rfl rfl rfl

theorem takeStanceDue_authorityKept (st : Station) (s : State) : AuthorityKept s (s.takeStanceDue st) := by
  unfold State.takeStanceDue
  split
  · exact (takeDue_authorityKept _ s).trans (takeStance_authorityKept st _ _ _)
  · exact .refl s

theorem takeHanded_authorityKept {f : State → State} (hf : ∀ s, AuthorityKept s (f s)) (e : DueEvent) (s : State) :
    AuthorityKept s (s.takeHanded e f) :=
  .ite (fun _ => (takeDue_authorityKept e s).trans (hf _)) fun _ => .refl s

theorem completeSave_authorityKept (readBack : Option StoreImage) (s : State) :
    AuthorityKept s (s.completeSave readBack) := by
  unfold State.completeSave
  split
  · exact .refl s
  · exact .of_records rfl rfl fun _ => id

/-! ### Commands and steps -/

theorem whileRunning_authorityKept {f : State → State} {s t : State} (hf : AuthorityKept s (f s))
    (h : whileRunning f s = .next t) : AuthorityKept s t := by
  cases h
  exact .ite (fun _ => hf) fun _ => .refl s

theorem exec_authorityKept (i : Instr) {s t : State} (h : exec i s = .next t) : AuthorityKept s t := by
  by_cases request : i.kind ≠ none
  · rw [exec_request i s request] at h
    exact whileRunning_authorityKept (dispatchRequest_authorityKept i s) h
  · cases i with
    | sampleEvent n sample pins => exact whileRunning_authorityKept (sampleEvent_authorityKept n sample pins s) h
    | countEvent n step => exact whileRunning_authorityKept (countEvent_authorityKept n step s) h
    | frameEvent st slot => exact whileRunning_authorityKept (frameEvent_authorityKept st slot s) h
    | powerOn => cases h; exact fun _ => authoritySound_of_empty rfl
    | resetInputAssert => cases h; exact assertReset_authorityKept s
    | resetInputRelease => cases h; exact releaseReset_authorityKept s
    | powerLoss => cases h; exact losePower_authorityKept s
    | deviceRestart st =>
      exact whileRunning_authorityKept (.ite (fun _ _ => restartPart_authoritySound st s) fun _ => .refl s) h
    | storeCompletion readBack => exact whileRunning_authorityKept (completeSave_authorityKept readBack s) h
    | staggerExpiry =>
      exact whileRunning_authorityKept (.ite (fun _ => staggerExpire_authorityKept s) fun _ => .refl s) h
    | hookTimerExpiry n | stallExpiry n | derivation n =>
      exact whileRunning_authorityKept (onLine_authorityKept n _ s) h
    | gapAbort st =>
      exact whileRunning_authorityKept (.ite (fun _ => abortGap_authorityKept st s) fun _ => .refl s) h
    | presenceLoss st =>
      exact whileRunning_authorityKept (.ite (fun _ => losePresence_authorityKept st s) fun _ => .refl s) h
    | stanceChange st => exact whileRunning_authorityKept (takeStanceDue_authorityKept st s) h
    | stopOnset n | holderChangeHalt n | inhibitOnset n =>
      exact whileRunning_authorityKept (takeHanded_authorityKept (onLine_authorityKept n _) _ s) h
    | inhibitLift n => exact whileRunning_authorityKept (takeHanded_authorityKept .refl _ s) h
    | queueTake => exact whileRunning_authorityKept (takeHanded_authorityKept queueTake_authorityKept _ s) h
    | _ => exact absurd nofun request

/-- The commands that wait are no part of the records (log 1). -/
theorem withPending_authorityKept (rest : List Instr) (s : State) : AuthorityKept s { s with pending := rest } :=
  .of_same rfl rfl rfl

theorem step_authorityKept {s t : State} (h : step s = .next t) : AuthorityKept s t := by
  unfold step at h
  split at h
  · exact (withPending_authorityKept _ s).trans (exec_authorityKept _ h)
  · split at h
    · split at h
      · exact exec_authorityKept _ h
      · exact whileRunning_authorityKept (staggerTick_authorityKept s) h
    · cases h; exact .refl s

/-- The model's ranks are those of the two orders of R113. -/
theorem ranks_asListed : ranksAsListed := ⟨rankOrder_pairwise false, rankOrder_pairwise true⟩

end Sys2Proof.Machine

namespace Sys2Proof

open Machine

/-- Settles O57: an event leaves the records and the stations PRESENT, or changes a record by a claim of a PRESENT
station (`claimed_sound`), by the removal of an entry (`GroupRecord.Sound.removed`) or by a re-evaluation
(`reevaluated_sound`), each of which leaves a sound one. -/
theorem authorityStaysSound : Obligations.AuthorityStaysSound := by
  unfold Obligations.AuthorityStaysSound
  exact ⟨ranks_asListed, fun _ _ sound hstep => step_authorityKept hstep sound⟩

end Sys2Proof

/-! PROOFS. What QUERY answers, the bytes of the four authority records (R126, R172): settles O26. -/

namespace Sys2Proof.Machine

/-- A set in rank order has at most the four stations. -/
theorem ranked_length_le_four {lead : Bool} {es : List Entry} (h : ranked lead es) : es.length ≤ 4 := by
  have stations := ((ranked_nodup h).subperm fun x _ => mem_allStations x).length_le
  rwa [List.length_map] at stations

/-- The four entry bytes of a set that fits them are its entries and then unused ones (R172). -/
theorem entryBytes_eq {es : List Entry} (h : es.length ≤ 4) :
    entryBytes es = es.map entryByte ++ List.replicate (4 - es.length) 0#8 := by
  rw [entryBytes, List.take_append, List.length_map, List.take_of_length_le (by rwa [List.length_map]),
    List.take_replicate, Nat.min_eq_left (Nat.sub_le _ _)]

theorem entryByte_eq (e : Entry) :
    entryByte e = Station.code e.station ||| if e.single = true then 0x80#8 else 0#8 := rfl

/-- The byte of the active holder is that of the first entry in service, 00h for none (R114, R172). -/
theorem recordBytes_eq {r : GroupRecord} (serving : r.inService.length ≤ 4) (waiting : r.waiting.length ≤ 4) :
    recordBytes r
      = (match r.inService with | [] => 0#8 | e :: _ => Station.code e.station)
          :: BitVec.ofNat 8 r.inService.length
          :: (r.inService.map entryByte ++ List.replicate (4 - r.inService.length) 0#8)
        ++ BitVec.ofNat 8 r.waiting.length
          :: (r.waiting.map entryByte ++ List.replicate (4 - r.waiting.length) 0#8) := by
  rw [← entryBytes_eq serving, ← entryBytes_eq waiting]
  unfold recordBytes GroupRecord.holder
  cases r.inService <;> simp

end Sys2Proof.Machine

namespace Sys2Proof

open Machine

/-- Settles O26: a sound record has at most four entries in each set, so that its bytes hold them all
(`recordBytes_eq`); the reply alone is placed. -/
theorem queryReportsRecords : Obligations.QueryReportsRecords := by
  unfold Obligations.QueryReportsRecords
  intro st s accepted sound code entry four
  have code_eq : code = Station.code := by funext x; cases x <;> rfl
  have entry_eq : entry = entryByte := by funext e; simp only [entry, code_eq, entryByte_eq]
  have bytes (g : GroupNo) : recordBytes (s.record g)
      = (match (s.record g).inService with | [] => 0#8 | e :: _ => code e.station)
          :: BitVec.ofNat 8 (s.record g).inService.length :: four (s.record g).inService
          ++ BitVec.ofNat 8 (s.record g).waiting.length :: four (s.record g).waiting := by
    obtain ⟨serving, waiting, -⟩ := sound g
    rw [recordBytes_eq (ranked_length_le_four serving) (ranked_length_le_four waiting)]
    simp only [four, entry_eq, code_eq]
  refine ⟨takeQuery st s, request_taken (take := takeQuery st) accepted rfl, ?_⟩
  exact congrArg (fun body => s.placeReply st 0x12#8 (0x01#8 :: body)) (List.flatMap_congr fun g _ => bytes g)

end Sys2Proof

/-! PROOFS. What CLEAR STATION, READ LINES, READ GROUP and READ SETUP answer, byte by byte (R159, R164, R165, R167, R172):
settles O30, O27 and O28. -/

namespace Sys2Proof.Machine

/-! ### The items of one station -/

/-- Of two writes of one station's items the second stands. -/
theorem State.onLink_onLink (s : State) (st : Station) (f g : Link → Link) :
    (s.onLink st f).onLink st g = s.putLink st (g (f (s.link st))) := by
  rw [State.onLink, State.link_onLink_self]
  simp only [State.onLink, State.putLink, Vector.set_set]

/-- CLEAR STATION works the sender's two indicators and its reply slot alone (R167). -/
theorem takeClearStation_eq (st : Station) (mask : Byte) (s : State) :
    takeClearStation st mask s
      = s.putLink st
          { s.link st with
            linkError := (s.link st).linkError && !mask.getLsbD 0
            restartInd := (s.link st).restartInd && !mask.getLsbD 1
            replySlot :=
              some
                { kind := 0x41#8
                  body := [ReplyCode.done.code, bit (s.link st).linkError 0 ||| bit (s.link st).restartInd 1] } } := by
  rw [takeClearStation, State.placeReply, State.onLink_onLink]

/-! ### Quantities of two and three bytes -/

/-- The two bytes of a quantity, put together again, are the quantity (R172). -/
theorem bytes16_reads (x : BitVec 16) : (bytes16 x).getD 0 0#8 ++ (bytes16 x).getD 1 0#8 = x :=
  (BitVec.extractLsb'_append_extractLsb'_eq_extractLsb' rfl).trans BitVec.extractLsb'_eq_self

/-- The three bytes of a signed quantity, put together again, are its two's complement (R172). -/
theorem bytes24_reads (x : Int) :
    (bytes24 x).getD 0 0#8 ++ (bytes24 x).getD 1 0#8 ++ (bytes24 x).getD 2 0#8 = BitVec.ofInt 24 x := by
  have high : (bytes24 x).getD 0 0#8 ++ (bytes24 x).getD 1 0#8 = (BitVec.ofInt 24 x).extractLsb' 8 16 :=
    BitVec.extractLsb'_append_extractLsb'_eq_extractLsb' rfl
  rw [high]
  exact (BitVec.extractLsb'_append_extractLsb'_eq_extractLsb' rfl).trans BitVec.extractLsb'_eq_self

/-! ### The line record -/

theorem LineState.code_eq_stateByte (x : LineState) : x.code = stateByte x := by cases x <;> rfl

theorem causeCode_eq_causeByte (c : Option FaultCause) : causeCode c = causeByte c := by
  rcases c with _ | c
  · rfl
  · cases c <;> rfl

/-- The flags stand in the manual's order at their bits of the flag word (R172). -/
theorem Flag.bit_eq_of_flagsInOrder {i : Nat} {f : Flag} (h : flagsInOrder[i]? = some f) : f.bit = i := by
  have bits : ∀ i : Fin 10, flagsInOrder[i].bit = i.val := by decide
  obtain ⟨inList, rfl⟩ := List.getElem?_eq_some_iff.mp h
  exact bits ⟨i, inList⟩

theorem lineRecordBytes_length (l : Line) : (lineRecordBytes l).length = 13 := rfl

/-- Bytes 2 and 3 of a line record are the flag word (R172). -/
theorem lineRecordBytes_flags (l : Line) :
    (lineRecordBytes l).getD 2 0#8 ++ (lineRecordBytes l).getD 3 0#8 = l.control.flags.zeroExtend 16 :=
  bytes16_reads _

/-- Bytes 4 and 5 of a line record are T (R172). -/
theorem lineRecordBytes_tension (l : Line) :
    (lineRecordBytes l).getD 4 0#8 ++ (lineRecordBytes l).getD 5 0#8 = BitVec.ofNat 16 l.tension.reported :=
  bytes16_reads _

/-- Bytes 6 to 8 of a line record are P (R172). -/
theorem lineRecordBytes_payout (l : Line) :
    (lineRecordBytes l).getD 6 0#8 ++ (lineRecordBytes l).getD 7 0#8 ++ (lineRecordBytes l).getD 8 0#8
      = BitVec.ofInt 24 l.sense.payout :=
  bytes24_reads _

/-- Byte 9 of a line record marks a referenced P and a lock mark that is present (R172). -/
theorem lineRecordBytes_marks (l : Line) :
    ((lineRecordBytes l).getD 9 0#8).getLsbD 0 = l.sense.referenced
      ∧ ((lineRecordBytes l).getD 9 0#8).getLsbD 1 = l.control.lockMark.isSome := by
  have bits : ∀ a b : Bool, (bit a 0 ||| bit b 1).getLsbD 0 = a ∧ (bit a 0 ||| bit b 1).getLsbD 1 = b := by decide
  exact bits _ _

/-- Bytes 10 to 12 of a line record are E, 0 without a lock mark (R68, R172). -/
theorem lineRecordBytes_excursion (l : Line) :
    (lineRecordBytes l).getD 10 0#8 ++ (lineRecordBytes l).getD 11 0#8 ++ (lineRecordBytes l).getD 12 0#8
      = BitVec.ofInt 24 (l.excursion.getD 0) :=
  bytes24_reads _

/-! ### READ LINES -/

/-- Among parts of one length put end to end, byte `j` of part `i` stands at `k * i + j`. -/
theorem getD_flatMap_of_length_eq {α β : Type} {f : α → List β} {k : Nat} (same : ∀ a, (f a).length = k) (d : β)
    {j : Nat} (inPart : j < k) (as : List α) (i : Nat) (h : i < as.length) :
    (as.flatMap f).getD (k * i + j) d = (f as[i]).getD j d := by
  induction as generalizing i with
  | nil => exact absurd h (Nat.not_lt_zero i)
  | cons a as ih =>
    rw [List.flatMap_cons]
    cases i with
    | zero =>
      rw [Nat.mul_zero, Nat.zero_add]
      exact List.getD_append _ _ _ _ (by rwa [same])
    | succ i =>
      have past : (f a).length + (k * i + j) = k * (i + 1) + j := by rw [same]; ring
      rw [← past, List.getD_append_right _ _ _ _ (Nat.le_add_right _ _), Nat.add_sub_cancel_left]
      exact ih i (Nat.lt_of_succ_lt_succ h)

/-- The line records that READ LINES carries (R164). -/
def State.readLinesBody (s : State) (first count : Byte) : List Byte :=
  (readNames first.toNat count.toNat).flatMap fun n => lineRecordBytes (s.line n)

theorem takeReadLines_eq (st : Station) (first count : Byte) (s : State) :
    takeReadLines st first count s
      = s.placeReply st 0x30#8 (ReplyCode.done.code :: first :: count :: s.readLinesBody first count) := rfl

theorem readLinesBody_length (s : State) (first count : Byte) :
    (s.readLinesBody first count).length = 13 * count.toNat := by
  simp [State.readLinesBody, readNames, List.length_flatMap, lineRecordBytes_length, Function.comp_def, Nat.mul_comm]

/-- Byte `j` of record `i` is that of the line `i` places after the first, counted round from line 7 to line 0 (R164). -/
theorem readLinesBody_getD (s : State) (first count : Byte) {i j n : Nat} (hi : i < count.toNat)
    (hn : n = (first.toNat + i) % 8) (h : n < 8) (hj : j < 13) :
    (s.readLinesBody first count).getD (13 * i + j) 0#8 = (lineRecordBytes (s.line ⟨n, h⟩)).getD j 0#8 := by
  subst hn
  have named : i < (readNames first.toNat count.toNat).length := by simpa [readNames] using hi
  rw [State.readLinesBody, getD_flatMap_of_length_eq (fun n => lineRecordBytes_length (s.line n)) _ hj _ i named]
  simp [readNames]

/-! ### READ GROUP -/

/-- A mask has the bits of the lines it names (R172). -/
theorem linesMask_getLsbD (ns : List LineNo) (m : LineNo) : (linesMask ns).getLsbD m.val = decide (m ∈ ns) := by
  have one : ∀ n m : LineNo, (1#8 <<< n.val).getLsbD m.val = decide (m = n) := by decide
  have fold (b : Byte) : (ns.foldl (fun b n => b ||| (1#8 <<< n.val)) b).getLsbD m.val
      = (b.getLsbD m.val || decide (m ∈ ns)) := by
    induction ns generalizing b with
    | nil => simp
    | cons n ns ih =>
      rw [List.foldl_cons, ih, BitVec.getLsbD_or, one]
      simp [Bool.or_assoc]
  rw [linesMask, fold, BitVec.getLsbD_zero, Bool.false_or]

/-- A profile that WRITE PROFILE takes fits the bytes that carry it (R100, R172). -/
theorem fits_of_profileTaken {p : Profile} (h : profileTaken p = true) : p.fits = true := by
  simp only [profileTaken, Bool.and_eq_true, decide_eq_true_eq] at h
  obtain ⟨⟨⟨⟨⟨⟨thresholds, dwells⟩, lengths⟩, speeds⟩, times⟩, -⟩, -⟩ := h
  simp only [Profile.fits, List.all_cons, List.all_nil, Bool.and_eq_true, decide_eq_true_eq, and_true]
  omega

theorem entryBytes_length (es : List Entry) : (entryBytes es).length = 4 := by simp [entryBytes]

theorem recordBytes_length (r : GroupRecord) : (recordBytes r).length = 11 := by
  simp [recordBytes, entryBytes_length]

theorem encodeProfile_length (p : Profile) : (encodeProfile p).length = 38 := by
  simp [encodeProfile, packedBytes, wordBytes]

/-- What READ GROUP carries after the group and its profile: its fitted lines, the berth settings and its authority
record (R165). -/
def State.readGroupRest (s : State) (g : GroupNo) : List Byte :=
  linesMask (s.groupLines g) :: bytesOfSettings s.table.settings ++ recordBytes (s.record g)

/-- What READ GROUP carries of a group (R165). -/
def State.readGroupBody (s : State) (g : GroupNo) : List Byte :=
  BitVec.ofNat 8 g.val :: encodeProfile (s.profile g) ++ s.readGroupRest g

theorem takeReadGroup_eq (st : Station) (g : GroupNo) (s : State) :
    takeReadGroup st (BitVec.ofNat 8 g.val) s
      = s.placeReply st 0x31#8 (ReplyCode.done.code :: s.readGroupBody g) := by
  simp [takeReadGroup, State.readGroupBody, State.readGroupRest, groupOf_ofNat]

theorem readGroupBody_length (s : State) (g : GroupNo) : (s.readGroupBody g).length = 54 := by
  simp [State.readGroupBody, State.readGroupRest, encodeProfile_length, bytesOfSettings, recordBytes_length]

/-- The group and its profile fill bytes 0 to 38; the rest follows them (R172). -/
theorem readGroupBody_getD (s : State) (g : GroupNo) (i : Nat) :
    (s.readGroupBody g).getD (39 + i) 0#8 = (s.readGroupRest g).getD i 0#8 := by
  have filled : (BitVec.ofNat 8 g.val :: encodeProfile (s.profile g)).length = 39 := by
    rw [List.length_cons, encodeProfile_length]
  rw [State.readGroupBody, List.getD_append_right _ _ _ _ (by omega), filled, Nat.add_sub_cancel_left]

theorem readGroupBody_drop (s : State) (g : GroupNo) : (s.readGroupBody g).drop 43 = recordBytes (s.record g) := by
  rw [State.readGroupBody, State.readGroupRest, ← List.append_assoc]
  exact List.drop_left' (by simp [encodeProfile_length, bytesOfSettings])

/-- The mask of a group's fitted lines (R165). -/
theorem linesMask_groupLines (s : State) (g : GroupNo) (m : LineNo) :
    (linesMask (s.groupLines g)).getLsbD m.val = (s.fitted m && (s.setup m).group == g) := by
  rw [linesMask_getLsbD, decide_eq_decide.mpr (mem_groupLines s g m), Bool.decide_and, Bool.decide_eq_true]
  rfl

theorem scopeByte_eq (x : Scope) :
    (if x = .berth then 1#8 else 0#8) = match x with | .group => 0x00#8 | .berth => 0x01#8 := by cases x <;> rfl

/-! ### READ SETUP -/

/-- The bytes of a line setup in its ranges spell it (R103, R172). -/
theorem fieldsOfSetup_spelled (u : LineSetup) (offset : u.zeroOffset ≤ 1023) (capacity : u.capacity ≤ 60000) :
    setupSpelled (fieldsOfSetup u) u := by
  refine ⟨rfl, byte_reads _ (by omega), ?hand, ?offset, byte_reads _ (by omega), ?capacity⟩
  case hand => cases h : u.hand <;> simp [fieldsOfSetup, h]
  case offset => exact Nat.mod_eq_of_lt (by omega)
  case capacity => exact Nat.mod_eq_of_lt (by omega)

theorem StoreState.code_eq (x : StoreState) :
    x.code = match x with | .current => 0x00#8 | .stale => 0x01#8 | .saving => 0x02#8 := by cases x <;> rfl

theorem Source.code_eq (x : Source) : x.code = match x with | .store => 0x00#8 | .default => 0x01#8 := by
  cases x <;> rfl

theorem lineOf_ofNat (n : LineNo) : lineOf (BitVec.ofNat 8 n.val) = n := by revert n; decide

theorem lineNoOk_ofNat (n : LineNo) : lineNoOk (BitVec.ofNat 8 n.val) = true := by revert n; decide

/-- What READ SETUP carries of a line (R165). -/
def State.readSetupBody (s : State) (n : LineNo) : List Byte :=
  BitVec.ofNat 8 n.val :: encodeSetup (fieldsOfSetup (s.setup n)) ++ [s.table.storeState.code, s.table.source.code]

theorem takeReadSetup_eq (st : Station) (n : LineNo) (s : State) :
    takeReadSetup st (BitVec.ofNat 8 n.val) s
      = s.placeReply st 0x32#8 (ReplyCode.done.code :: s.readSetupBody n) := by
  simp [takeReadSetup, State.readSetupBody, lineOf_ofNat]

end Sys2Proof.Machine

namespace Sys2Proof

open Machine

/-- Settles O30: the two indicators and the reply are one write of the sender's items (`takeClearStation_eq`). -/
theorem clearStationResult : Obligations.ClearStationResult := by
  unfold Obligations.ClearStationResult
  intro st mask s accepted wellFormed
  exact (request_taken (take := takeClearStation st mask) accepted wellFormed).trans
    (congrArg Host.Outcome.next (takeClearStation_eq st mask s))

/-- Settles O27: each byte of the reply is a byte of one line's record (`readLinesBody_getD`), and each field of that
record is read back from its own bytes. -/
theorem readLinesReply : Obligations.ReadLinesReply := by
  unfold Obligations.ReadLinesReply
  intro st first count s accepted firstOk countOk bounded
  have wellFormed : Instr.bodyOk (.readLines st first count) = true := by simp [Instr.bodyOk, firstOk, countOk]
  refine ⟨takeReadLines st first count s, s.readLinesBody first count,
    request_taken (take := takeReadLines st first count) accepted wellFormed, rfl, readLinesBody_length s first count, ?_⟩
  intro i n hi hn h l at'
  have reads : ∀ j, j < 13 → at' j = (lineRecordBytes l).getD j 0#8 :=
    fun j hj => readLinesBody_getD s first count hi hn h hj
  obtain ⟨payoutLow, payoutHigh, -⟩ : -65535 ≤ l.sense.payout ∧ l.sense.payout ≤ 65535 ∧ _ := bounded ⟨n, h⟩
  have flags : at' 2 ++ at' 3 = l.control.flags.zeroExtend 16 := by
    rw [reads 2 (by decide), reads 3 (by decide), lineRecordBytes_flags]
  have tension : at' 4 ++ at' 5 = BitVec.ofNat 16 l.tension.reported := by
    rw [reads 4 (by decide), reads 5 (by decide), lineRecordBytes_tension]
  have payout : at' 6 ++ at' 7 ++ at' 8 = BitVec.ofInt 24 l.sense.payout := by
    rw [reads 6 (by decide), reads 7 (by decide), reads 8 (by decide), lineRecordBytes_payout]
  have excursion : at' 10 ++ at' 11 ++ at' 12 = BitVec.ofInt 24 (l.excursion.getD 0) := by
    rw [reads 10 (by decide), reads 11 (by decide), reads 12 (by decide), lineRecordBytes_excursion]
  obtain ⟨referenced, marked⟩ := lineRecordBytes_marks l
  rw [← reads 9 (by decide)] at referenced marked
  refine ⟨?_, ?_, ?_, flags, ?_, ?_, referenced, marked, ?_, ?_⟩
  · exact (reads 0 (by decide)).trans (LineState.code_eq_stateByte _)
  · exact (reads 1 (by decide)).trans (causeCode_eq_causeByte _)
  · intro b f ordered
    obtain rfl := Flag.bit_eq_of_flagsInOrder ordered
    have inWord : f.bit < 16 := by cases f <;> decide
    simp [flags, Line.has, flagSet, inWord]
  · intro fits
    rw [tension, BitVec.toNat_ofNat, Nat.mod_eq_of_lt fits]
  · rw [payout, BitVec.toInt_ofInt_eq_self (by decide) (by omega) (by omega)]
  · intro unmarked
    rw [excursion, Line.excursion, unmarked]
    rfl
  · intro mark present markLow markHigh
    have value : l.excursion.getD 0 = l.sense.payout - mark := by rw [Line.excursion, present]; rfl
    rw [excursion, value, BitVec.toInt_ofInt_eq_self (by decide) (by omega) (by omega)]

/-- Settles O28: the tables of a READ GROUP reply stand before the authority record in 43 bytes (`readGroupTables`), and
valid figures fit the bytes that carry them (`fits_of_profileTaken`, `fieldsOfSetup_spelled`). -/
theorem readGroupAndSetupReplies : Obligations.ReadGroupAndSetupReplies := by
  unfold Obligations.ReadGroupAndSetupReplies
  intro st g n s accepted valid
  obtain ⟨profiles, -, -, setups, stagger⟩ := valid
  obtain ⟨offset, -, capacity⟩ := setups n
  refine ⟨?group, ?setup⟩
  case group =>
    have taken := request_taken (take := takeReadGroup st (BitVec.ofNat 8 g.val)) accepted (groupNoOk_ofNat g)
    have rest := readGroupBody_getD s g
    refine ⟨_, s.readGroupBody g, taken, takeReadGroup_eq st g s, readGroupBody_length s g, rfl,
      encodeProfile_laidOut _ (fits_of_profileTaken (profiles g)) _ _, ?_, ?_, ?_, rest 3, readGroupBody_drop s g⟩
    · intro m
      rw [rest 0]
      exact linesMask_groupLines s g m
    · rw [rest 1]
      exact scopeByte_eq _
    · rw [rest 2]
      exact byte_reads _ (by omega)
  case setup =>
    have taken := request_taken (take := takeReadSetup st (BitVec.ofNat 8 n.val)) accepted (lineNoOk_ofNat n)
    exact ⟨_, s.readSetupBody n, taken, takeReadSetup_eq st n s, rfl, rfl,
      ⟨fieldsOfSetup (s.setup n), encodeSetup_laidOut _ _ _, fieldsOfSetup_spelled _ offset capacity⟩,
      StoreState.code_eq _, Source.code_eq _⟩

end Sys2Proof

/-! PROOFS. Every step keeps each line's record in order (R32, R36, R40, R49, R52, R55, R56, R57, R67): settles O54. -/

namespace Sys2Proof.Machine

/-! ### The record of one line -/

/-- One line's part of `State.recordsTidy`: its record in order, and its tending watch counting only in LOCKED. -/
def Line.tidy (l : Line) : Prop :=
  l.control.tidy ∧ (l.control.state ≠ .locked → l.tension.tendDir = none ∧ l.tension.tendCount = 0)

theorem State.recordsTidy_iff (s : State) : s.recordsTidy ↔ ∀ n, (s.line n).tidy := Iff.rfl

@[simp] theorem Line.latch_tidy (f : Flag) (l : Line) : (l.latch f).tidy ↔ l.tidy := Iff.rfl
@[simp] theorem Line.reference_tidy (l : Line) : l.reference.tidy ↔ l.tidy := Iff.rfl

/-- The lock mark is present in the states that tend, and a mark made present stands in every state (R49, R67). -/
theorem Line.tidy.setMark {l : Line} (h : l.tidy) : l.setMark.tidy := by
  simp_all [Line.tidy, Control.tidy, Line.setMark]

/-! ### Entering a state -/

/-- The command record `r` is one that a line in state `x` holds (R36). -/
def CommandRecord.fits (r : CommandRecord) (x : LineState) : Prop :=
  (r.current.isSome = true ↔ x ∈ [LineState.deploying, .engaging, .hauling, .slacking, .opening, .rewinding])
    ∧ (∀ c, r.current = some c → x ∈ c.states)
    ∧ (r.slackStart.isSome = true → x = .slacking)
    ∧ (r.thenRewind = true → (x = .slacking ∨ x = .opening) ∧ r.current = some .release)
    ∧ (r.restOnCompletion = true → x = .engaging ∨ x = .opening)
    ∧ (r.tripDeferred = true → x = .engaging)
    ∧ (r.returnTo.isSome = true → x = .slipping)

/-- What an entry to a state leaves of a line's record: the state and the record entered, the lock mark and the flags kept,
the counters and the cause at their first values. -/
theorem Line.enter_control (x : LineState) (r : CommandRecord) (l : Line) :
    (l.enter x r).control =
      { state := x, lockMark := l.control.lockMark, record := r, slackWatch := 0
        hookTimer := if x.timed then some { limit := l.applied.hookTime, elapsed := 0 } else none
        stallCounter := 0, startingCount := 0, cause := none, flags := l.control.flags
        drive := driveDemand l.applied x, brake := brakeDemand x, hookDemand := hookDemandOf x } := by
  unfold Line.enter
  split <;> rfl

/-- An entry to a state keeps the tending watch at 0 outside LOCKED, and zeroes it where LOCKED is entered or left (R32). -/
theorem Line.enter_tending {l : Line} (h : l.tidy) (x : LineState) (r : CommandRecord) :
    (l.enter x r).tension.tendDir = none ∧ (l.enter x r).tension.tendCount = 0 := by
  unfold Line.enter
  dsimp only
  split
  · exact ⟨rfl, rfl⟩
  next hl => exact h.2 fun hs => hl (.inl hs)

/-- A line enters a state other than FAULTED with a record that fits it; a state that tends asks for a lock mark. -/
theorem Line.tidy.enter {l : Line} (h : l.tidy) {x : LineState} {r : CommandRecord} (fits : r.fits x)
    (unfaulted : x ≠ .faulted) (mark : x.tending = false ∨ l.control.lockMark.isSome = true) :
    (l.enter x r).tidy := by
  obtain ⟨current, states, slackStart, thenRewind, rest, trip, returnTo⟩ := fits
  refine ⟨?_, fun _ => Line.enter_tending h x r⟩
  rw [Line.enter_control]
  refine ⟨?_, ?_, ?_, ?_, ?_, ?_, current, states, slackStart, thenRewind, rest, trip, returnTo⟩
  · cases x <;> simp [LineState.timed]
  · simp
  · simp
  · simp
  · simpa using unfaulted
  · rintro (rfl | rfl | rfl) <;> exact mark.resolve_left (by decide)

theorem CommandRecord.empty_fits {x : LineState} (h : x.resting = true) : CommandRecord.fits {} x := by
  cases x <;> simp_all [CommandRecord.fits, LineState.resting]

/-- A line rests in a state: its record is empty (R36). -/
theorem Line.tidy.rest {l : Line} (h : l.tidy) {x : LineState} (resting : x.resting = true) (unfaulted : x ≠ .faulted)
    (mark : x.tending = false ∨ l.control.lockMark.isSome = true) : (l.enter x {}).tidy :=
  h.enter (CommandRecord.empty_fits resting) unfaulted mark

/-! ### The operations on a tidy line -/

section
variable {l : Line}

/-- The tending states have their lock mark (R67). -/
theorem Line.tidy.mark (h : l.tidy) (hx : l.control.state.tending = true) : l.control.lockMark.isSome = true := by
  obtain ⟨⟨-, -, -, -, -, mark, -⟩, -⟩ := h
  exact mark (by cases hs : l.control.state <;> simp_all [LineState.tending])

theorem Line.tidy.enterFaulted (h : l.tidy) (c : FaultCause) : (l.enterFaulted (some c)).tidy := by
  refine ⟨?_, fun _ => Line.enter_tending h .faulted {}⟩
  unfold Line.enterFaulted
  dsimp only
  rw [Line.enter_control]
  simp [Control.tidy, LineState.timed]

theorem Line.tidy.fault (h : l.tidy) (c : FaultCause) : (l.fault c).tidy := by
  unfold Line.fault
  split_ifs
  exacts [h, h.enterFaulted _, h.enterFaulted _]

theorem Line.tidy.slip (h : l.tidy) : l.slip.tidy := by
  refine h.enter ?_ (by decide) (.inl rfl)
  simp [CommandRecord.fits]

theorem Line.tidy.goRewind (h : l.tidy) {c : CurrentCommand} (hc : LineState.rewinding ∈ c.states) :
    (l.goRewind { current := some c }).tidy := by
  unfold Line.goRewind
  split
  · exact h.rest rfl (by decide) (.inl rfl)
  · exact h.enter (by simp [CommandRecord.fits, hc]) (by decide) (.inl rfl)

theorem Line.tidy.derive (h : l.tidy) (fitted : Bool) : (l.derive fitted).tidy := by
  have rest {x : LineState} (resting : x.resting = true) (untending : x.tending = false) (unfaulted : x ≠ .faulted) :
      (l.enter x {}).tidy := h.rest resting unfaulted (.inl untending)
  unfold Line.derive
  split_ifs
  exacts [rest rfl rfl (by decide), h.enterFaulted _, rest rfl rfl (by decide), rest rfl rfl (by decide),
    rest rfl rfl (by decide), h.enterFaulted _]

/-- What a tidy line's record holds while an operation is in flight: the current command is one of its state (R36). -/
theorem Line.tidy.current (h : l.tidy)
    (hx : l.control.state ∈ [LineState.deploying, .engaging, .hauling, .slacking, .opening, .rewinding]) :
    ∃ c, l.control.record.current = some c ∧ l.control.state ∈ c.states := by
  obtain ⟨⟨-, -, -, -, -, -, current, states, -⟩, -⟩ := h
  obtain ⟨c, hc⟩ := Option.isSome_iff_exists.1 (current.2 hx)
  exact ⟨c, hc, states c hc⟩

/-- Then-rewind is carried under RELEASE alone (R51). -/
theorem Line.tidy.thenRewind (h : l.tidy) (hr : l.control.record.thenRewind = true) :
    l.control.record.current = some .release := by
  obtain ⟨⟨-, -, -, -, -, -, -, -, -, thenRewind, -⟩, -⟩ := h
  exact (thenRewind hr).2

theorem Line.tidy.engagingComplete (h : l.tidy) (hx : l.control.state = .engaging) (b : BerthAction) :
    (l.engagingComplete b).tidy := by
  obtain ⟨c, hc, states⟩ := h.current (by simp [hx])
  have hauls : LineState.hauling ∈ c.states := by
    rw [hx] at states
    cases c <;> simp_all [CurrentCommand.states]
  unfold Line.engagingComplete
  split_ifs
  exacts [h.slip, h.rest rfl (by decide) (.inl rfl),
    h.enter (by simp [CommandRecord.fits, hc, hauls]) (by decide) (.inl rfl)]

theorem Line.tidy.openingComplete (h : l.tidy) (b : BerthAction) : (l.openingComplete b).tidy := by
  unfold Line.openingComplete
  split
  next rewinds =>
    rw [h.thenRewind (by simp_all)]
    exact h.goRewind (by decide)
  next => exact h.rest rfl (by decide) (.inl rfl)

theorem Line.tidy.hookReport (h : l.tidy) (b : BerthAction) (old new : HookPos) : (l.hookReport b old new).tidy := by
  have fault := h.fault .hook
  unfold Line.hookReport
  cases hx : l.control.state with
  | engaging =>
    dsimp only
    split_ifs
    exacts [h.engagingComplete hx b, fault, h]
  | opening =>
    dsimp only
    split_ifs
    exacts [h.openingComplete b, fault, h]
  | starting | notFitted => exact h
  | _ =>
    dsimp only
    split_ifs
    exacts [fault, h]

theorem Line.tidy.stowedReport (h : l.tidy) : l.stowedReport.tidy := by
  unfold Line.stowedReport
  split
  exacts [h.rest rfl (by decide) (.inl rfl), h]

theorem Line.tidy.driveFaultReport (h : l.tidy) : l.driveFaultReport.tidy := by
  unfold Line.driveFaultReport
  split
  exacts [h, h, h.fault .drive]

theorem Line.tidy.sensorFaultReport (h : l.tidy) : l.sensorFaultReport.tidy := by
  unfold Line.sensorFaultReport
  split
  exacts [h, h, h.fault .sensor]

/-- A stall counter is kept by a drive-powered line alone (R56). -/
theorem Line.tidy.stallCounter (h : l.tidy) {k : Nat} (hk : k ≠ 0 → l.control.state.drivePowered = true) :
    Line.tidy { l with control := { l.control with stallCounter := k } } := by
  obtain ⟨⟨timer, slack, -, rest⟩, tending⟩ := h
  exact ⟨⟨timer, slack, hk, rest⟩, tending⟩

/-- A tending line that goes back to LOCKED keeps its lock mark (R67, R77). -/
theorem Line.tidy.lockAgain (h : l.tidy) (hx : l.control.state.tending = true) : (l.enter .locked {}).tidy :=
  h.rest rfl (by decide) (.inr (h.mark hx))

/-- A line that ends its tending at the allowance latches ALLOW (R77, R79, R83). -/
theorem Line.tidy.lockAllowing (h : l.tidy) (hx : l.control.state.tending = true) :
    ((l.latch .allow).enter .locked {}).tidy :=
  Line.tidy.lockAgain (l := l.latch .allow) h hx

theorem Line.tidy.countReport (h : l.tidy) (capacity : Nat) (d : Int) (limit : Bool) :
    (l.countReport capacity d limit).tidy := by
  unfold Line.countReport
  extract_lets l1 _ l2 l3
  have latched : l1.tidy := by unfold l1; split <;> exact h
  have counted : l2.tidy := by
    unfold l2
    split
    exacts [latched.stallCounter fun h0 => absurd rfl h0, latched]
  have ended : l3.tidy := by unfold l3; split <;> exact counted
  split
  · exact ended.fault .payoutEnd
  · split
    next ends => exact counted.lockAllowing (by rw [ends.1]; rfl)
    next =>
      split
      next ends => exact counted.lockAllowing (by rw [ends.1]; rfl)
      next => exact counted

theorem Line.tidy.renderEntry (h : l.tidy) (hx : l.control.state.tending = true) (fired : Bool) :
    (l.renderEntry fired).tidy := by
  unfold Line.renderEntry
  split_ifs
  exacts [h.rest rfl (by decide) (.inr (h.mark hx)), h, h]

theorem Line.tidy.recoverEntry (h : l.tidy) (hx : l.control.state.tending = true) (stopped fired : Bool) :
    (l.recoverEntry stopped fired).tidy := by
  unfold Line.recoverEntry
  split_ifs
  exacts [h, h, h, h.rest rfl (by decide) (.inr (h.mark hx))]

theorem Line.tidy.slackReport (h : l.tidy) (hx : l.control.state = .slacking) : l.slackReport.tidy := by
  have watched (k : Nat) : Line.tidy { l with control := { l.control with slackWatch := k } } := by
    obtain ⟨⟨timer, -, rest⟩, tending⟩ := h
    exact ⟨⟨timer, fun _ => hx, rest⟩, tending⟩
  obtain ⟨c, hc, states⟩ := h.current (by simp [hx])
  obtain rfl : c = .release := by
    rw [hx] at states
    cases c <;> simp_all [CurrentCommand.states]
  unfold Line.slackReport
  dsimp only
  split
  · exact (watched _).enter (by simp [CommandRecord.fits, hc, CurrentCommand.states]) (by decide) (.inl rfl)
  · exact watched _

/-- A line locks with its lock mark set to P (R47, R48). -/
theorem Line.setMark_enter_locked_tidy (l : Line) : (l.enter .locked {}).setMark.tidy := by
  refine ⟨?_, fun hs => absurd rfl hs⟩
  unfold Line.setMark
  dsimp only
  rw [Line.enter_control]
  simp [Control.tidy, LineState.timed]

theorem Line.tidy.tensionReport (h : l.tidy) (stopped : Bool) (o : TendOutcome) :
    (l.tensionReport stopped o).tidy := by
  unfold Line.tensionReport
  cases hx : l.control.state with
  | locked =>
    have tends : l.control.state.tending = true := by rw [hx]; rfl
    cases o with
    | none => exact h
    | fired d => cases d; exacts [h.renderEntry tends true, h.recoverEntry tends stopped true]
    | standing d => cases d; exacts [h.renderEntry tends false, h.recoverEntry tends stopped false]
  | rendering | recovering =>
    dsimp only
    split
    exacts [h.lockAgain (by rw [hx]; rfl), h]
  | hauling =>
    dsimp only
    split
    exacts [Line.setMark_enter_locked_tidy l, h]
  | slacking => exact h.slackReport hx
  | deploying | rewinding =>
    dsimp only
    split
    exacts [h.fault .snag, h]
  | slipping =>
    dsimp only
    split
    · split
      exacts [h.enterFaulted _, h.rest rfl (by decide) (.inl rfl)]
    · exact h
  | _ => exact h

theorem Line.tidy.tripReport (h : l.tidy) : l.tripReport.tidy := by
  have latched : (l.latch .trip).tidy := h
  unfold Line.tripReport
  cases hx : l.control.state with
  | hauling | locked | rendering | recovering | held | slacking => exact latched.slip
  | faulted =>
    dsimp only
    split
    exacts [latched.slip, latched]
  | engaging =>
    obtain ⟨⟨timer, slack, stall, start, cause, mark, current, states, slackStart, rewind, rest, -, back⟩, tending⟩ := h
    exact ⟨⟨timer, slack, stall, start, cause, mark, current, states, slackStart, rewind, rest, fun _ => hx, back⟩,
      tending⟩
  | _ => exact latched

theorem Line.tidy.inhibitOnset (h : l.tidy) : l.inhibitOnset.tidy := by
  unfold Line.inhibitOnset
  split
  · exact h.rest rfl (by decide) (.inl rfl)
  next hx => exact h.lockAgain (by rw [hx]; rfl)
  · exact h

theorem Line.tidy.halt (h : l.tidy) : l.halt.tidy := by
  unfold Line.halt
  cases hx : l.control.state with
  | deploying | rewinding | hauling | slacking => exact h.rest rfl (by decide) (.inl rfl)
  | engaging =>
    obtain ⟨⟨timer, slack, stall, start, cause, mark, current, states, slackStart, rewind, -, trip, back⟩, tending⟩ := h
    exact ⟨⟨timer, slack, stall, start, cause, mark, current, states, slackStart, rewind, fun _ => .inl hx, trip, back⟩,
      tending⟩
  | opening =>
    obtain ⟨⟨timer, slack, stall, start, cause, mark, current, states, slackStart, -, -, trip, back⟩, tending⟩ := h
    exact ⟨⟨timer, slack, stall, start, cause, mark, current, states, slackStart, fun h0 => absurd h0 Bool.false_ne_true,
      fun _ => .inr hx, trip, back⟩, tending⟩
  | _ => exact h

theorem Line.tidy.stopOnset (h : l.tidy) : l.stopOnset.tidy := by
  unfold Line.stopOnset
  cases hx : l.control.state with
  | deploying | rewinding | hauling | slacking => exact h.rest rfl (by decide) (.inl rfl)
  | recovering => exact h.lockAgain (by rw [hx]; rfl)
  | _ => exact h

theorem Line.tidy.queueHead (h : l.tidy) : l.queueHead.tidy := by
  unfold Line.queueHead
  split
  exacts [h.enter (by simp [CommandRecord.fits, CurrentCommand.states]) (by decide) (.inl rfl), h]

theorem Line.tidy.stallExpire (h : l.tidy) : l.stallExpire.tidy := by
  unfold Line.stallExpire
  split
  exacts [h.fault .stall, h]

theorem Line.tidy.hookExpire (h : l.tidy) : l.hookExpire.tidy := by
  unfold Line.hookExpire
  split
  exacts [h.fault .hook, h]

theorem Line.tidy.deriveStarting (h : l.tidy) (fitted : Bool) : (l.deriveStarting fitted).tidy := by
  unfold Line.deriveStarting
  split
  exacts [h.derive fitted, h]

theorem Line.tidy.close (h : l.tidy) (fitted : Bool) : (l.close fitted).tidy := by
  have starting : (l.closeStarting fitted).tidy := by
    unfold Line.closeStarting
    dsimp only
    split
    next hx =>
      have counted : Line.tidy { l with control := { l.control with startingCount := l.control.startingCount + 1 } } := by
        obtain ⟨⟨timer, slack, stall, -, rest⟩, tending⟩ := h
        exact ⟨⟨timer, slack, stall, fun _ => hx, rest⟩, tending⟩
      split
      exacts [counted.derive fitted, counted]
    · exact h
  have deployed : (l.closeStarting fitted).closeDeploy.tidy := by
    unfold Line.closeDeploy
    split
    exacts [starting.rest rfl (by decide) (.inl rfl), starting]
  unfold Line.close Line.closeStall
  dsimp only
  split
  next hx =>
    have counted := deployed.stallCounter (k := (l.closeStarting fitted).closeDeploy.control.stallCounter + 1) fun _ => hx
    split
    exacts [counted.stallExpire, counted]
  · exact deployed

theorem Line.tidy.advanceHookTimer (h : l.tidy) : l.advanceHookTimer.tidy := by
  obtain ⟨⟨timer, rest⟩, tending⟩ := h
  exact ⟨⟨by simpa [Line.advanceHookTimer] using timer, rest⟩, tending⟩

/-- A clear of flags may discard trip deferred, and no more of the record (R97). -/
theorem Line.tidy.afterClear (h : l.tidy) (tripCleared : Bool) : (l.afterClear tripCleared).tidy := by
  obtain ⟨⟨timer, slack, stall, start, cause, mark, current, states, slackStart, rewind, rest, trip, back⟩, tending⟩ := h
  refine ⟨⟨timer, slack, stall, start, cause, mark, current, states, slackStart, rewind, rest, ?_, back⟩, tending⟩
  cases tripCleared with
  | true => exact fun h0 => absurd h0 Bool.false_ne_true
  | false => exact trip

/-- The tending watch counts for a LOCKED line alone (R32). -/
theorem Line.tidy.tending (h : l.tidy) (hx : l.control.state = .locked) (e : Tension) :
    Line.tidy { l with tension := e } := ⟨h.1, fun hs => absurd hx hs⟩

theorem Line.tidy.useJoined (h : l.tidy) (p : Profile) : (l.useJoined p).tidy := by
  unfold Line.useJoined
  dsimp only
  split <;> exact h

theorem Line.tidy.applyProfile (h : l.tidy) (p : Profile) : (l.applyProfile p).tidy := by
  unfold Line.applyProfile
  extract_lets _ _ _ l'
  have zeroed : l'.tidy := by
    obtain ⟨⟨timer, -, rest⟩, -⟩ := h
    exact ⟨⟨timer, fun h0 => absurd rfl h0, rest⟩, fun _ => ⟨rfl, rfl⟩⟩
  split
  next ends => exact zeroed.lockAllowing (by rw [ends.1]; rfl)
  · split
    next ends => exact zeroed.lockAllowing (by rw [ends.1]; rfl)
    · split <;> exact zeroed

theorem Line.unfit_tidy (l : Line) : l.unfit.tidy := by
  refine ⟨?_, fun _ => ⟨rfl, rfl⟩⟩
  unfold Line.unfit
  dsimp only
  rw [Line.enter_control]
  simp [Control.tidy, LineState.timed]

theorem Line.tidy.fit (h : l.tidy) (p : Profile) : (l.fit p).tidy :=
  Line.tidy.rest (l := { l with applied := p, profileDue := false, joined := none }) (x := .starting) h rfl (by decide)
    (.inl rfl)

theorem Line.tidy.takeSetup (h : l.tidy) (old new : LineSetup) (p : Profile) : (l.takeSetup old new p).tidy := by
  have unfitted := l.unfit_tidy
  have fitted := h.fit p
  unfold Line.takeSetup
  dsimp only
  split_ifs <;> assumption

end

/-- A line after a reset is tidy, whatever its lock mark: it is STARTING with the empty record (R66). -/
theorem controlAtPowerOn_tidy (mark : Option Int) : Control.tidy { controlAtPowerOn with lockMark := mark } := by
  simp [Control.tidy, controlAtPowerOn]

/-! ### Every move, every step -/

/-- Every move keeps a line's record in order: it enters a state with a record that fits it, or counts in a state that has
the count. -/
theorem LineMove.tidy {a b : Line} (m : LineMove a b) (h : a.tidy) : b.tidy := by
  cases m with
  | hookReport b old new => exact h.hookReport b old new
  | stowedReport => exact h.stowedReport
  | driveFaultReport => exact h.driveFaultReport
  | sensorFaultReport => exact h.sensorFaultReport
  | countReport capacity d limit => exact h.countReport capacity d limit
  | tending _ locked => exact h.tending locked _
  | tensionReport stopped o => exact h.tensionReport stopped o
  | tripReport => exact h.tripReport
  | inhibitOnset => exact h.inhibitOnset
  | hookTimer => exact h.advanceHookTimer
  | close fitted => exact h.close fitted
  | hookExpire => exact h.hookExpire
  | stallExpire => exact h.stallExpire
  | deriveStarting fitted => exact h.deriveStarting fitted
  | halt => exact h.halt
  | stopOnset => exact h.stopOnset
  | queueHead => exact h.queueHead
  | deploy | engage | haul | release =>
    exact h.enter (by simp [CommandRecord.fits, CurrentCommand.states]) (by decide) (.inl rfl)
  | lock => exact Line.setMark_enter_locked_tidy a
  | holdClosed | holdOpened => exact h.rest rfl (by decide) (.inl rfl)
  | mark => exact h.setMark
  | rewind => exact h.goRewind (by decide)
  | derive fitted => exact h.derive fitted
  | afterClear tripCleared => exact h.afterClear tripCleared
  | applyProfile p => exact h.applyProfile p
  | useJoined p => exact h.useJoined p
  | takeSetup old new p => exact h.takeSetup old new p
  | powerOn | assertion | restart => exact ⟨controlAtPowerOn_tidy _, fun _ => ⟨rfl, rfl⟩⟩
  | switches | load | count | skip | tension | watches | warnReport | inhibit | clear | profileDue => exact h

end Sys2Proof.Machine

namespace Sys2Proof

open Machine

/-- Settles O54: a step takes each line through moves alone (`step_linesMove`), and every move keeps the line's record in
order (`LineMove.tidy`). -/
theorem recordsStayTidy : Obligations.RecordsStayTidy := by
  unfold Obligations.RecordsStayTidy
  intro s t hs hstep
  rw [State.recordsTidy_iff] at hs ⊢
  exact step_keeps_lines (fun _ _ => LineMove.tidy) hstep hs

end Sys2Proof

/-! PROOFS. Every step keeps P, F, T and the counters of the Line Sense Unit in their ranges (R3, R5, R6, R12, R22, R24):
settles O55. -/

namespace Sys2Proof.Machine

/-! ### The figures of one line -/

/-- The items of a Line Sense Unit lie in their ranges (R3, R5, R6, R12). -/
def Sense.bounded (u : Sense) : Prop :=
  -65535 ≤ u.payout ∧ u.payout ≤ 65535 ∧ u.invalidCount ≤ 8 ∧ u.samples ≤ 8
    ∧ u.hookClosed.run ≤ 7 ∧ u.hookOpen.run ≤ 7 ∧ u.stowed.run ≤ 7 ∧ u.driveFault.run ≤ 7

/-- F is at most 16 times the largest load, and T is F divided by 16, or 0 while the line is not seeded (R22, R24, R35). -/
def Tension.bounded (e : Tension) : Prop :=
  (∀ f, e.filtered = some f → f ≤ 65504 ∧ e.reported = f / 16) ∧ (e.filtered = none → e.reported = 0)

/-- One line's part of `State.figuresBounded`. -/
def Line.bounded (l : Line) : Prop := l.sense.bounded ∧ l.tension.bounded

theorem State.figuresBounded_iff (s : State) : s.figuresBounded ↔ ∀ n, (s.line n).bounded := by
  simp only [State.figuresBounded, Line.bounded, Sense.bounded, Tension.bounded]
  exact forall_congr' fun n => by tauto

/-! ### The Line Sense Unit -/

theorem Switch.sample_run_le (eighth : Bool) (reading : Accepted) (w : Switch) : (w.sample eighth reading).run ≤ 7 := by
  unfold Switch.sample
  split_ifs <;> simp; omega

theorem Sense.bounded.sampleSwitches {u : Sense} (h : u.bounded) (pins : SwitchPins) :
    (u.sampleSwitches pins).bounded := by
  obtain ⟨low, high, invalid, -⟩ := h
  exact ⟨low, high, invalid, Nat.min_le_right _ _, Switch.sample_run_le .., Switch.sample_run_le ..,
    Switch.sample_run_le .., Switch.sample_run_le ..⟩

theorem Sense.bounded.sampleLoad {u : Sense} (h : u.bounded) (valid : Bool) : (u.sampleLoad valid).bounded := by
  obtain ⟨low, high, -, rest⟩ := h
  refine ⟨low, high, ?_, rest⟩
  cases valid with
  | true => exact Nat.zero_le _
  | false => exact Nat.min_le_right _ _

/-- A limit count would carry P beyond its range (R12). -/
theorem Sense.atLimit_iff (d : Int) (u : Sense) :
    u.atLimit d = true ↔ 65535 < u.payout + d ∨ u.payout + d < -65535 := by
  simp only [Sense.atLimit, Bool.or_eq_true, decide_eq_true_eq]
  rfl

/-- A count that would carry P beyond its range is a limit count, which leaves P (R12). -/
theorem Sense.bounded.count {u : Sense} (h : u.bounded) (d : Int) : (u.count d).bounded := by
  obtain ⟨low, high, rest⟩ := h
  unfold Sense.count
  split
  · exact ⟨low, high, rest⟩
  next within =>
    rw [Sense.atLimit_iff, not_or, not_lt, not_lt] at within
    exact ⟨within.2, within.1, rest⟩

/-- A line is referenced at P 0 (R13). -/
theorem Sense.bounded.atZero {u : Sense} (h : u.bounded) (referenced heaving : Bool) :
    Sense.bounded { u with payout := 0, referenced := referenced, heaving := heaving } := by
  obtain ⟨-, -, rest⟩ := h
  exact ⟨by norm_num, by norm_num, rest⟩

/-! ### The Tension Evaluator -/

/-- A step of the filter ends between F and 16 t (R22): the quotient is truncated toward zero. -/
theorem filterStep_le {k f t bound : Nat} (hf : f ≤ bound) (ht : 16 * t ≤ bound) : filterStep k f t ≤ bound := by
  unfold filterStep
  have step : Int.tdiv (16 * (t : Int) - f) (2 ^ k) ≤ max 0 (16 * (t : Int) - f) := by
    rcases le_total 0 (16 * (t : Int) - f) with h | h
    · exact (Int.tdiv_le_self _ h).trans (le_max_right _ _)
    · have mirrored : Int.tdiv (16 * (t : Int) - f) (2 ^ k) = -Int.tdiv (f - 16 * (t : Int)) (2 ^ k) := by
        rw [← Int.neg_tdiv, neg_sub]
      have := Int.tdiv_nonneg (sub_nonneg.2 (sub_nonpos.1 h)) (by positivity : (0 : Int) ≤ 2 ^ k)
      omega
  omega

/-- A load is at most 4094 where the sample is valid (R2, R21). -/
theorem loadOf_le {sample : BitVec 12} (h : sampleValid sample = true) (zeroOffset : Nat) :
    16 * loadOf sample zeroOffset ≤ 65504 := by
  have valid : sample.toNat ≠ 4095 := by simpa [sampleValid] using h
  have := sample.isLt
  unfold loadOf
  omega

theorem Tension.bounded.sample {e : Tension} (h : e.bounded) (k : Nat) {t : Nat} (ht : 16 * t ≤ 65504) :
    (e.sample k t).bounded := by
  refine ⟨fun f hf => ?_, fun hf => nomatch hf⟩
  obtain rfl : filteredAfter k e.filtered t = f := Option.some.inj hf
  refine ⟨?_, rfl⟩
  cases hs : e.filtered with
  | none => exact ht
  | some f => exact filterStep_le (h.1 f hs).1 ht

theorem Tension.bounded.tendStep {e : Tension} (h : e.bounded) (p : Profile) : (e.tendStep p).1.bounded := by
  unfold Tension.tendStep
  dsimp only
  split_ifs <;> exact h

/-! ### What leaves the figures of a line -/

@[simp] theorem Line.latch_bounded (f : Flag) (l : Line) : (l.latch f).bounded ↔ l.bounded := Iff.rfl
@[simp] theorem Line.setMark_bounded (l : Line) : l.setMark.bounded ↔ l.bounded := Iff.rfl
@[simp] theorem Line.setDrive_bounded (d : Int) (l : Line) : (l.setDrive d).bounded ↔ l.bounded := Iff.rfl

/-- An entry to a state touches the sign kept for the direction lead and the tending watch alone (R15, R32). -/
@[simp] theorem Line.enter_bounded (x : LineState) (r : CommandRecord) (l : Line) :
    (l.enter x r).bounded ↔ l.bounded := by
  unfold Line.enter
  dsimp only
  split <;> rfl

@[simp] theorem Line.enterFaulted_bounded (c : Option FaultCause) (l : Line) :
    (l.enterFaulted c).bounded ↔ l.bounded := Line.enter_bounded .faulted {} l

@[simp] theorem Line.slip_bounded (l : Line) : l.slip.bounded ↔ l.bounded := Line.enter_bounded ..

@[simp] theorem Line.fault_bounded (c : FaultCause) (l : Line) : (l.fault c).bounded ↔ l.bounded := by
  unfold Line.fault
  split_ifs <;> simp

/-! ### The operations on a line whose figures are bounded -/

section
variable {l : Line}

theorem Line.bounded.reference (h : l.bounded) : l.reference.bounded := ⟨h.1.atZero true l.sense.heaving, h.2⟩

theorem Line.bounded.stow (h : l.bounded) : (l.enter .stowed {}).reference.bounded :=
  ((Line.enter_bounded ..).2 h).reference

theorem Line.bounded.goRewind (h : l.bounded) (r : CommandRecord) : (l.goRewind r).bounded := by
  unfold Line.goRewind
  split <;> simp [h, h.stow]

theorem Line.bounded.derive (h : l.bounded) (fitted : Bool) : (l.derive fitted).bounded := by
  unfold Line.derive
  split_ifs <;> simp [h, h.stow]

theorem Line.bounded.hookReport (h : l.bounded) (b : BerthAction) (old new : HookPos) :
    (l.hookReport b old new).bounded := by
  have engaged : (l.engagingComplete b).bounded := by
    unfold Line.engagingComplete
    split_ifs <;> simp [h]
  have opened : (l.openingComplete b).bounded := by
    unfold Line.openingComplete
    split <;> simp [h, h.goRewind]
  unfold Line.hookReport
  generalize l.control.state = x
  cases x with
  | engaging =>
    dsimp only
    split_ifs <;> simp [h, engaged]
  | opening =>
    dsimp only
    split_ifs <;> simp [h, opened]
  | starting | notFitted => exact h
  | _ =>
    dsimp only
    split_ifs <;> simp [h]

theorem Line.bounded.stowedReport (h : l.bounded) : l.stowedReport.bounded := by
  unfold Line.stowedReport
  split <;> simp [h, h.stow]

theorem Line.bounded.driveFaultReport (h : l.bounded) : l.driveFaultReport.bounded := by
  unfold Line.driveFaultReport
  split <;> simp [h]

theorem Line.bounded.sensorFaultReport (h : l.bounded) : l.sensorFaultReport.bounded := by
  unfold Line.sensorFaultReport
  split <;> simp [h]

theorem Line.bounded.countReport (h : l.bounded) (capacity : Nat) (d : Int) (limit : Bool) :
    (l.countReport capacity d limit).bounded := by
  unfold Line.countReport
  extract_lets l1 _ l2 l3
  have latched : l1.bounded := by unfold l1; split <;> exact h
  have counted : l2.bounded := by unfold l2; split <;> exact latched
  have ended : l3.bounded := by unfold l3; split <;> exact counted
  split_ifs <;> simp [counted, ended]

theorem Line.bounded.tensionReport (h : l.bounded) (stopped : Bool) (o : TendOutcome) :
    (l.tensionReport stopped o).bounded := by
  have render (fired : Bool) : (l.renderEntry fired).bounded := by
    unfold Line.renderEntry
    split_ifs <;> simp [h]
  have recover (fired : Bool) : (l.recoverEntry stopped fired).bounded := by
    unfold Line.recoverEntry
    split_ifs <;> simp [h]
  unfold Line.tensionReport
  generalize l.control.state = x
  cases x with
  | locked =>
    cases o with
    | none => exact h
    | fired d => cases d; exacts [render true, recover true]
    | standing d => cases d; exacts [render false, recover false]
  | slacking =>
    dsimp only [Line.slackReport]
    split
    exacts [(Line.enter_bounded ..).2 h, h]
  | slipping =>
    dsimp only
    split
    · split <;> simp [h]
    · exact h
  | rendering | recovering | hauling | deploying | rewinding =>
    dsimp only
    split <;> simp [h]
  | _ => exact h

theorem Line.bounded.tripReport (h : l.bounded) : l.tripReport.bounded := by
  unfold Line.tripReport
  generalize l.control.state = x
  cases x with
  | hauling | locked | rendering | recovering | held | slacking => exact (Line.slip_bounded _).2 h
  | faulted =>
    dsimp only
    split <;> simp [h]
  | _ => exact h

theorem Line.bounded.inhibitOnset (h : l.bounded) : l.inhibitOnset.bounded := by
  unfold Line.inhibitOnset
  split <;> simp [h]

theorem Line.bounded.halt (h : l.bounded) : l.halt.bounded := by
  unfold Line.halt
  generalize l.control.state = x
  cases x with
  | deploying | rewinding | hauling | slacking => exact (Line.enter_bounded ..).2 h
  | _ => exact h

theorem Line.bounded.stopOnset (h : l.bounded) : l.stopOnset.bounded := by
  unfold Line.stopOnset
  split <;> simp [h]

theorem Line.bounded.queueHead (h : l.bounded) : l.queueHead.bounded := by
  unfold Line.queueHead
  split <;> simp [h]

theorem Line.bounded.stallExpire (h : l.bounded) : l.stallExpire.bounded := by
  unfold Line.stallExpire
  split <;> simp [h]

theorem Line.bounded.hookExpire (h : l.bounded) : l.hookExpire.bounded := by
  unfold Line.hookExpire
  split <;> simp [h]

theorem Line.bounded.deriveStarting (h : l.bounded) (fitted : Bool) : (l.deriveStarting fitted).bounded := by
  unfold Line.deriveStarting
  split
  exacts [h.derive fitted, h]

theorem Line.bounded.close (h : l.bounded) (fitted : Bool) : (l.close fitted).bounded := by
  have starting : (l.closeStarting fitted).bounded := by
    have counted : Line.bounded { l with control := { l.control with startingCount := l.control.startingCount + 1 } } := h
    unfold Line.closeStarting
    dsimp only
    split_ifs
    exacts [counted.derive fitted, h, h]
  have deployed : (l.closeStarting fitted).closeDeploy.bounded := by
    unfold Line.closeDeploy
    split <;> simp [starting]
  unfold Line.close Line.closeStall
  dsimp only
  split_ifs
  · exact Line.bounded.stallExpire deployed
  · exact deployed
  · exact deployed

theorem Line.bounded.useJoined (h : l.bounded) (p : Profile) : (l.useJoined p).bounded := by
  unfold Line.useJoined
  dsimp only
  split <;> exact h

theorem Line.bounded.applyProfile (h : l.bounded) (p : Profile) : (l.applyProfile p).bounded := by
  unfold Line.applyProfile
  extract_lets _ _ _ l'
  have taken : l'.bounded := h
  split_ifs <;> simp [taken]

theorem senseAtPowerOn_bounded (heaving : Bool) : Sense.bounded { senseAtPowerOn with heaving := heaving } := by
  simp [Sense.bounded, senseAtPowerOn, unknownSwitch]

theorem tensionAtReset_bounded : tensionAtReset.bounded := by
  simp [Tension.bounded, tensionAtReset]

theorem Line.bounded.takeSetup (h : l.bounded) (old new : LineSetup) (p : Profile) :
    (l.takeSetup old new p).bounded := by
  have unfitted : l.unfit.bounded := ⟨senseAtPowerOn_bounded _, tensionAtReset_bounded⟩
  have fitted : (l.fit p).bounded := by
    obtain ⟨-, tension⟩ := (Line.enter_bounded .starting {} { l with applied := p, profileDue := false, joined := none }).2 h
    exact ⟨senseAtPowerOn_bounded _, tension⟩
  unfold Line.takeSetup
  dsimp only
  split_ifs <;> assumption

theorem Line.bounded.atRestart (h : l.bounded) (fitted : Bool) : (l.atRestart fitted).bounded := by
  refine ⟨?_, tensionAtReset_bounded⟩
  obtain ⟨⟨low, high, -⟩, -⟩ := h
  cases fitted with
  | true => exact ⟨low, high, Nat.zero_le _, Nat.zero_le _, Nat.zero_le _, Nat.zero_le _, Nat.zero_le _, Nat.zero_le _⟩
  | false => exact senseAtPowerOn_bounded _

end

/-! ### Every move, every step -/

/-- Every move keeps a line's figures bounded: its stages count, step the filter and reference within the ranges, and what
else happens to a line leaves its figures. -/
theorem LineMove.bounded {a b : Line} (m : LineMove a b) (h : a.bounded) : b.bounded := by
  cases m with
  | switches pins => exact ⟨h.1.sampleSwitches pins, h.2⟩
  | load valid => exact ⟨h.1.sampleLoad valid, h.2⟩
  | count d => exact ⟨h.1.count d, h.2⟩
  | tension sample zeroOffset _ valid => exact ⟨h.1, h.2.sample _ (loadOf_le valid zeroOffset)⟩
  | tending => exact ⟨h.1, h.2.tendStep _⟩
  | hookReport b old new => exact h.hookReport b old new
  | stowedReport => exact h.stowedReport
  | driveFaultReport => exact h.driveFaultReport
  | sensorFaultReport => exact h.sensorFaultReport
  | countReport capacity d limit => exact h.countReport capacity d limit
  | tensionReport stopped o => exact h.tensionReport stopped o
  | tripReport => exact h.tripReport
  | inhibitOnset => exact h.inhibitOnset
  | close fitted => exact h.close fitted
  | hookExpire => exact h.hookExpire
  | stallExpire => exact h.stallExpire
  | deriveStarting fitted => exact h.deriveStarting fitted
  | halt => exact h.halt
  | stopOnset => exact h.stopOnset
  | queueHead => exact h.queueHead
  | deploy | engage | haul | holdClosed | holdOpened | release => exact (Line.enter_bounded ..).2 h
  | lock => exact (Line.setMark_bounded _).2 ((Line.enter_bounded ..).2 h)
  | rewind => exact h.goRewind _
  | derive fitted => exact h.derive fitted
  | applyProfile p => exact h.applyProfile p
  | useJoined p => exact h.useJoined p
  | takeSetup old new p => exact h.takeSetup old new p
  | powerOn | assertion => exact ⟨senseAtPowerOn_bounded _, tensionAtReset_bounded⟩
  | restart fitted => exact h.atRestart fitted
  | skip | watches | warnReport | inhibit | hookTimer | mark | clear | afterClear | profileDue => exact h

end Sys2Proof.Machine

namespace Sys2Proof

open Machine

/-- Settles O55: a step takes each line through moves alone (`step_linesMove`), and every move keeps the line's figures in
their ranges (`LineMove.bounded`); that a filter step stays between F and 16 t is `filterStep_le`. -/
theorem figuresStayBounded : Obligations.FiguresStayBounded := by
  unfold Obligations.FiguresStayBounded
  intro s t hs hstep
  rw [State.figuresBounded_iff] at hs ⊢
  exact step_keeps_lines (fun _ _ => LineMove.bounded) hstep hs

end Sys2Proof

/-! PROOFS. Where the profile of a line comes from (R100, R102, R105): no operation on a line but those of the profile
stage and of a setup write touches the profile it works by, or the one it has taken for its next sample event. -/

namespace Sys2Proof.Machine

/-- The profile that a line works by, and the one of a new group that it has taken. -/
def Line.profiles (l : Line) : Profile × Option Profile := (l.applied, l.joined)

@[simp] theorem Line.profiles_ite (c : Prop) [Decidable c] (a b : Line) :
    (if c then a else b).profiles = if c then a.profiles else b.profiles :=
  apply_ite Line.profiles c a b

@[simp] theorem Line.advanceHookTimer_profiles (l : Line) : l.advanceHookTimer.profiles = l.profiles := rfl
@[simp] theorem Line.setDrive_profiles (d : Int) (l : Line) : (l.setDrive d).profiles = l.profiles := rfl
@[simp] theorem Line.latch_profiles (f : Flag) (l : Line) : (l.latch f).profiles = l.profiles := rfl
@[simp] theorem Line.setMark_profiles (l : Line) : l.setMark.profiles = l.profiles := rfl
@[simp] theorem Line.reference_profiles (l : Line) : l.reference.profiles = l.profiles := rfl

@[simp] theorem Line.enter_profiles (x : LineState) (r : CommandRecord) (l : Line) :
    (l.enter x r).profiles = l.profiles := by
  unfold Line.enter
  dsimp only
  split <;> rfl

@[simp] theorem Line.enterFaulted_profiles (c : Option FaultCause) (l : Line) :
    (l.enterFaulted c).profiles = l.profiles := Line.enter_profiles .faulted {} l

@[simp] theorem Line.fault_profiles (c : FaultCause) (l : Line) : (l.fault c).profiles = l.profiles := by
  simp [Line.fault]

@[simp] theorem Line.slip_profiles (l : Line) : l.slip.profiles = l.profiles := Line.enter_profiles ..

@[simp] theorem Line.goRewind_profiles (r : CommandRecord) (l : Line) : (l.goRewind r).profiles = l.profiles := by
  simp [Line.goRewind]

@[simp] theorem Line.derive_profiles (fitted : Bool) (l : Line) : (l.derive fitted).profiles = l.profiles := by
  simp [Line.derive]

@[simp] theorem Line.hookReport_profiles (b : BerthAction) (old new : HookPos) (l : Line) :
    (l.hookReport b old new).profiles = l.profiles := by
  unfold Line.hookReport
  split <;> simp [Line.engagingComplete, Line.openingComplete]

@[simp] theorem Line.stowedReport_profiles (l : Line) : l.stowedReport.profiles = l.profiles := by
  simp [Line.stowedReport]

@[simp] theorem Line.driveFaultReport_profiles (l : Line) : l.driveFaultReport.profiles = l.profiles := by
  unfold Line.driveFaultReport
  split <;> simp

@[simp] theorem Line.sensorFaultReport_profiles (l : Line) : l.sensorFaultReport.profiles = l.profiles := by
  unfold Line.sensorFaultReport
  split <;> simp

@[simp] theorem Line.countReport_profiles (capacity : Nat) (d : Int) (limit : Bool) (l : Line) :
    (l.countReport capacity d limit).profiles = l.profiles := by
  unfold Line.countReport
  extract_lets l1 _ l2 l3
  have latched : l1.profiles = l.profiles := by simp [l1]
  have counted : l2.profiles = l.profiles := by
    unfold l2
    split <;> exact latched
  have ended : l3.profiles = l.profiles := by simp [l3, counted]
  simp [counted, ended]

@[simp] theorem Line.slackReport_profiles (l : Line) : l.slackReport.profiles = l.profiles := by
  unfold Line.slackReport
  dsimp only
  split
  · exact Line.enter_profiles ..
  · rfl

@[simp] theorem Line.tensionReport_profiles (stopped : Bool) (o : TendOutcome) (l : Line) :
    (l.tensionReport stopped o).profiles = l.profiles := by
  have render (fired : Bool) : (l.renderEntry fired).profiles = l.profiles := by simp [Line.renderEntry]
  have recover (fired : Bool) : (l.recoverEntry stopped fired).profiles = l.profiles := by simp [Line.recoverEntry]
  unfold Line.tensionReport
  split
  · split <;> simp [render, recover]
  all_goals simp
  intro _
  split <;> simp

@[simp] theorem Line.tripReport_profiles (l : Line) : l.tripReport.profiles = l.profiles := by
  unfold Line.tripReport
  generalize l.control.state = x
  cases x with
  | hauling | locked | rendering | recovering | held | slacking => exact Line.slip_profiles _
  | faulted => simp
  | _ => rfl

@[simp] theorem Line.inhibitOnset_profiles (l : Line) : l.inhibitOnset.profiles = l.profiles := by
  unfold Line.inhibitOnset
  split <;> simp

@[simp] theorem Line.halt_profiles (l : Line) : l.halt.profiles = l.profiles := by
  unfold Line.halt
  generalize l.control.state = x
  cases x with
  | deploying | rewinding | hauling | slacking => exact Line.enter_profiles ..
  | _ => rfl

@[simp] theorem Line.stopOnset_profiles (l : Line) : l.stopOnset.profiles = l.profiles := by
  unfold Line.stopOnset
  split <;> simp

@[simp] theorem Line.queueHead_profiles (l : Line) : l.queueHead.profiles = l.profiles := by
  simp [Line.queueHead]

@[simp] theorem Line.stallExpire_profiles (l : Line) : l.stallExpire.profiles = l.profiles := by
  simp [Line.stallExpire]

@[simp] theorem Line.hookExpire_profiles (l : Line) : l.hookExpire.profiles = l.profiles := by
  simp [Line.hookExpire]

@[simp] theorem Line.deriveStarting_profiles (fitted : Bool) (l : Line) :
    (l.deriveStarting fitted).profiles = l.profiles := by
  simp [Line.deriveStarting]

@[simp] theorem Line.close_profiles (fitted : Bool) (l : Line) : (l.close fitted).profiles = l.profiles := by
  have starting : (l.closeStarting fitted).profiles = l.profiles := by
    unfold Line.closeStarting
    dsimp only
    split_ifs
    exacts [Line.derive_profiles .., rfl, rfl]
  have deployed : (l.closeStarting fitted).closeDeploy.profiles = l.profiles := by
    simp [Line.closeDeploy, starting]
  unfold Line.close Line.closeStall
  dsimp only
  split_ifs
  · exact (Line.stallExpire_profiles _).trans deployed
  · exact deployed
  · exact deployed

/-- A profile that a line takes into use is the one that it then works by, and none of a new group waits (R102, R105). -/
theorem Line.useJoined_profiles (p : Profile) (l : Line) : (l.useJoined p).profiles = (p, none) := by
  unfold Line.useJoined
  dsimp only
  split <;> rfl

theorem Line.applyProfile_profiles (p : Profile) (l : Line) : (l.applyProfile p).profiles = (p, none) := by
  unfold Line.applyProfile
  extract_lets _ _ _ l'
  have taken : l'.profiles = (p, none) := rfl
  split_ifs <;> simp [taken]

/-- A setup write leaves a line its profiles, or brings it the profile of its new setup's group (R105). -/
theorem Line.takeSetup_profiles (old new : LineSetup) (p : Profile) (l : Line) :
    ((l.takeSetup old new p).applied = l.applied ∨ (l.takeSetup old new p).applied = p)
      ∧ ((l.takeSetup old new p).joined = none ∨ (l.takeSetup old new p).joined = l.joined
        ∨ (l.takeSetup old new p).joined = some p) := by
  have unfitted : l.unfit.applied = l.applied ∧ l.unfit.joined = none :=
    ⟨congrArg Prod.fst (Line.enter_profiles .notFitted {} l), rfl⟩
  have fitted : (l.fit p).applied = p ∧ (l.fit p).joined = none := by
    have entered := Line.enter_profiles .starting {} { l with applied := p, profileDue := false, joined := none }
    exact ⟨congrArg Prod.fst entered, congrArg Prod.snd entered⟩
  unfold Line.takeSetup
  dsimp only
  split_ifs <;> simp [unfitted, fitted]

end Sys2Proof.Machine

/-! PROOFS. What a step can do to the whole part: `PartMove` lists what can happen at one stage of an event of the running
part, and every such event takes the part through such moves (`step_cases`). What they all keep, with power-on, the reset
input and a loss of power, every step keeps (`step_keeps`). -/

namespace Sys2Proof.Machine

/-! ### Work on the lines -/

/-- An event that is handed over to one line. -/
def DueEvent.forLine : DueEvent → Bool
  | .halt _ | .stopOnset _ | .inhibitOnset _ | .inhibitLift _ => true
  | .stance .. | .queueTake => false

/-- Profile `p` is one that line `n` has, or that of a group. -/
def State.knows (s : State) (n : LineNo) (p : Profile) : Prop :=
  p = (s.line n).applied ∨ (s.line n).joined = some p ∨ ∃ g, p = s.profile g

/-- The profiles of line `l`, in the place of line `n`, are known before. -/
def State.knowsLine (s : State) (n : LineNo) (l : Line) : Prop :=
  s.knows n l.applied ∧ ∀ p, l.joined = some p → s.knows n p

/-- From `s` to `t` lines are worked: beside them only authority records, notice marks and the events handed to lines
change, and no line gets a profile that neither it nor a group had. -/
structure LinesWorked (s t : State) : Prop where
  beside : BesideLines s t
  due : ∃ es, t.due = s.due ++ es ∧ ∀ e ∈ es, DueEvent.forLine e = true
  profiles : ∀ n, s.knowsLine n (t.line n)

theorem State.knowsLine_of_profiles {s : State} {n : LineNo} {l : Line} (h : l.profiles = (s.line n).profiles) :
    s.knowsLine n l := by
  obtain ⟨applied, joined⟩ := Prod.mk.inj h
  exact ⟨.inl applied, fun p hp => .inr (.inl (joined ▸ hp))⟩

theorem State.knowsLine_self (s : State) (n : LineNo) : s.knowsLine n (s.line n) := knowsLine_of_profiles rfl

/-- What is known after work on the lines was known before. -/
theorem State.knows.before {s t : State} (table : t.table = s.table) (profiles : ∀ n, s.knowsLine n (t.line n))
    {n : LineNo} {p : Profile} (h : t.knows n p) : s.knows n p := by
  obtain rfl | joined | ⟨g, rfl⟩ := h
  · exact (profiles n).1
  · exact (profiles n).2 p joined
  · exact .inr (.inr ⟨g, by rw [State.profile, table]; rfl⟩)

theorem LinesWorked.refl (s : State) : LinesWorked s s :=
  ⟨.refl s, ⟨[], by simp, by simp⟩, s.knowsLine_self⟩

theorem LinesWorked.trans {s t u : State} (h : LinesWorked s t) (h' : LinesWorked t u) : LinesWorked s u := by
  obtain ⟨es, due, lines⟩ := h.due
  obtain ⟨es', due', lines'⟩ := h'.due
  refine ⟨h.beside.trans h'.beside, ⟨es ++ es', by rw [due', due, List.append_assoc], ?_⟩, fun n => ?_⟩
  · intro e he
    exact (List.mem_append.1 he).elim (lines e) (lines' e)
  · have before {p : Profile} : t.knows n p → s.knows n p := .before h.beside.table h.profiles
    exact ⟨before (h'.profiles n).1, fun p hp => before ((h'.profiles n).2 p hp)⟩

theorem LinesWorked.foldl {α : Type} {f : State → α → State} (hf : ∀ s a, LinesWorked s (f s a)) :
    ∀ (l : List α) (s : State), LinesWorked s (l.foldl f s)
  | [], s => .refl s
  | a :: l, s => (hf s a).trans (LinesWorked.foldl hf l (f s a))

theorem LinesWorked.ite {c : Prop} [Decidable c] {s t u : State} (ht : c → LinesWorked s t)
    (hu : ¬c → LinesWorked s u) : LinesWorked s (if c then t else u) := by
  split
  next h => exact ht h
  next h => exact hu h

/-- The Arbiter's work, where it hands over events of lines alone. -/
theorem AuthorityOnly.linesWorked {s t : State} (h : AuthorityOnly s t)
    (due : ∃ es, t.due = s.due ++ es ∧ ∀ e ∈ es, DueEvent.forLine e = true) : LinesWorked s t :=
  ⟨h.besideLines, due, fun n => State.knowsLine_of_profiles (by rw [h.line n])⟩

theorem setRecord_linesWorked (g : GroupNo) (r : GroupRecord) (s : State) : LinesWorked s (s.setRecord g r) := by
  refine (setRecord_authorityOnly g r s).linesWorked ?_
  rw [setRecord_due]
  split
  · exact ⟨[], by simp, by simp⟩
  · exact ⟨_, rfl, by simp [DueEvent.forLine]⟩

theorem removeEntry_linesWorked (st : Station) (g : GroupNo) (s : State) : LinesWorked s (s.removeEntry st g) :=
  .ite (fun _ => setRecord_linesWorked g _ s) fun _ => .refl s

theorem reevaluateAll_linesWorked (s : State) : LinesWorked s s.reevaluateAll :=
  .foldl (fun s g => setRecord_linesWorked g _ s) _ s

theorem singleTest_linesWorked (n : LineNo) (s : State) : LinesWorked s (s.singleTest n) :=
  .foldl (fun _ _ => .foldl (fun s _ => .ite (fun _ => removeEntry_linesWorked _ _ s) fun _ => .refl s) _ _) _ s

theorem recordWatched_linesWorked (st : Station) (taken : List LineNo) (s : State) :
    LinesWorked s (s.recordWatched st taken) := by
  refine .foldl (fun s g => ?_) _ s
  have watched (ns : List LineNo) : LinesWorked s (s.setWatched st g ns) :=
    (setWatched_authorityOnly st g ns s).linesWorked ⟨[], by simp [State.setWatched, State.putRecord], by simp⟩
  unfold State.recordWatchedIn
  dsimp only
  split
  · exact .ite (fun _ => .ite (fun _ => (watched _).trans (removeEntry_linesWorked st g _)) fun _ => watched _)
      fun _ => .refl s
  · exact .refl s

/-- A line is changed in its place. -/
theorem putLine_linesWorked {n : LineNo} {l : Line} {s : State} (h : s.knowsLine n l) :
    LinesWorked s (s.putLine n l) := by
  refine ⟨⟨rfl, rfl, rfl, rfl, fun _ => rfl, rfl, rfl, rfl⟩, ⟨[], by simp, by simp⟩, fun m => ?_⟩
  rw [State.line_putLine]
  split
  next same => rw [same]; exact h
  next => exact s.knowsLine_self m

/-- A change of a line's record, whatever it is, with the notice and the single-command test that follow (R65, R124). -/
theorem onLine_linesWorked {n : LineNo} {f : Line → Line} {s : State} (h : s.knowsLine n (f (s.line n))) :
    LinesWorked s (s.onLine n f) := by
  have changed : LinesWorked s (s.lineChanged n (f (s.line n))) := by
    refine ⟨lineChanged_besideLines n _ s, ⟨[], ?_, by simp⟩, fun m => ?_⟩
    · unfold State.lineChanged
      split <;> simp [markLine_due]
    · have lines := lineChanged_lines n (f (s.line n)) s
      have put : (s.lineChanged n (f (s.line n))).line m = (s.putLine n (f (s.line n))).line m :=
        congrArg (fun v : Vector Line 8 => v[m]) lines
      rw [put]
      exact (putLine_linesWorked h).profiles m
  exact .ite (fun _ => changed) fun _ => changed.trans (singleTest_linesWorked n _)

/-- A change of a line's record that leaves its profiles. -/
theorem onLine_keeping_linesWorked (n : LineNo) {f : Line → Line} (hf : ∀ l, (f l).profiles = l.profiles) (s : State) :
    LinesWorked s (s.onLine n f) := onLine_linesWorked (State.knowsLine_of_profiles (hf _))

theorem reevaluateInhibits_linesWorked (own : Option LineNo) (s : State) :
    LinesWorked s (s.reevaluateInhibits own) := by
  refine .foldl (fun s n => ?_) _ s
  have put := putLine_linesWorked (n := n) (l := (s.line n).setInhibit (s.inhibitOf n)) (s := s)
    (State.knowsLine_of_profiles rfl)
  have handed (e : DueEvent) (he : e.forLine = true) :
      LinesWorked s ((s.putLine n ((s.line n).setInhibit (s.inhibitOf n))).handOver e) :=
    put.trans ⟨⟨rfl, rfl, rfl, rfl, fun _ => rfl, rfl, rfl, rfl⟩, ⟨[e], rfl, by simp [he]⟩, State.knowsLine_self _⟩
  exact .ite (fun _ => .refl s) fun _ => .ite (fun _ => put) fun _ => handed _ (by split <;> rfl)

/-! ### The moves of the part -/

/-- A reply in transfer to the station stands in its reply slot (R156, R157). -/
def Link.holdsReply (k : Link) : Prop := ∀ o, k.outgoing = some o → o.isReply = true → k.replySlot ≠ none

/-- The station keeps its presence and its stance, and a reply in transfer its place in the reply slot. -/
structure Link.Carries (k k' : Link) : Prop where
  presence : k'.presence = k.presence
  stance : k'.stance = k.stance
  holdsReply : k.holdsReply → k'.holdsReply

/-- The setup lies in its ranges (R103). -/
def LineSetup.inRange (u : LineSetup) : Prop := u.zeroOffset ≤ 1023 ∧ 1000 ≤ u.capacity ∧ u.capacity ≤ 60000

/-- The Berth Action Unit, and the events handed over, while everything else stands. -/
def State.withBerth (b : BerthAction) (s : State) : State := { s with berth := b }

/-- The Group Table is replaced. -/
def State.withTable (t : GroupTable) (s : State) : State := { s with table := t }

/-- The Group Table once line `n` has been given setup `u`: a CURRENT store is then STALE (R108). -/
def GroupTable.setSetup (n : LineNo) (u : LineSetup) (t : GroupTable) : GroupTable :=
  { t with
    setups := t.setups.set n u
    storeState := if t.storeState = StoreState.current then StoreState.stale else t.storeState }

/-- A PRESENT station becomes ABSENT, before the Arbiter is told (R150, R169). -/
def State.linkLost (st : Station) (s : State) : State :=
  let s1 := s.onLink st Link.lost
  let s2 := if (s.link st).stance = .idle then s1 else s1.handOver (.stance st (s.link st).stance .idle)
  { s2 with pendingRestart := s2.pendingRestart.filter (· != st) }

/-- What can happen at one stage of an event of the running part: `PartMove s t` takes the part from `s` to `t`. That
nothing else happens is `step_cases`. -/
inductive PartMove : State → State → Prop
  | lines {s t : State} (worked : LinesWorked s t) : PartMove s t
  -- The stations.
  | link (st : Station) (f : Link → Link) (s : State) (carries : (s.link st).Carries (f (s.link st))) :
    PartMove s (s.onLink st f)
  | gain (st : Station) (s : State) (absent : (s.link st).presence = .absent) : PartMove s (s.onLink st Link.gained)
  | lose (st : Station) (s : State) : PartMove s (s.linkLost st)
  | stance (st : Station) (before after : Stance) (s : State) :
    PartMove s ((s.onLink st fun k => { k with stance := after }).handOver (.stance st before after))
  -- The Berth Action Unit.
  | append (ns : List LineNo) (s : State) : PartMove s (s.appendQueue ns)
  | dueTake (s : State) : PartMove s s.dueTake
  | takeDue (e : DueEvent) (s : State) (other : ∀ st before after, e ≠ .stance st before after) :
    PartMove s (s.takeDue e)
  | takeStance (e : DueEvent) (s : State) : PartMove s (s.takeDue e).recomputeStopped
  | berth (b : BerthAction) (s : State) (queue : b.queue.Sublist s.berth.queue) (stopped : b.stopped = s.berth.stopped) :
    PartMove s (s.withBerth b)
  -- The Group Table and the pending restart.
  | profile (g : GroupNo) (p : Profile) (s : State) (valid : profileTaken p = true) :
    PartMove s (s.withTable { s.table with profiles := s.table.profiles.set g p })
  | settings (b : BerthSettings) (s : State) (inRange : b.stagger ≤ 200) :
    PartMove s (s.withTable { s.table with settings := b })
  | setup (n : LineNo) (u : LineSetup) (s : State) (inRange : u.inRange) :
    PartMove s (s.withTable (s.table.setSetup n u))
  | startSave (s : State) (idle : s.pendingRestart = []) : PartMove s s.startSave
  | completeSave (readBack : Option StoreImage) (s : State) : PartMove s (s.completeSave readBack)
  | awaitRestart (sts : List Station) (s : State) (idle : s.table.storeState ≠ .saving) :
    PartMove s { s with pendingRestart := sts }
  | restart (st : Station) (s : State) : PartMove s (s.restartPart st)

/-- From `s` to `t` by moves of the part. -/
def PartMoves : State → State → Prop := Relation.ReflTransGen PartMove

theorem PartMove.moves {s t : State} (m : PartMove s t) : PartMoves s t := .single m

theorem LinesWorked.moves {s t : State} (h : LinesWorked s t) : PartMoves s t := .single (.lines h)

theorem PartMoves.refl (s : State) : PartMoves s s := Relation.ReflTransGen.refl

theorem PartMoves.trans {s t u : State} (h : PartMoves s t) (h' : PartMoves t u) : PartMoves s u :=
  Relation.ReflTransGen.trans h h'

theorem PartMoves.ite {c : Prop} [Decidable c] {s t u : State} (ht : c → PartMoves s t) (hu : ¬c → PartMoves s u) :
    PartMoves s (if c then t else u) := by
  split
  next h => exact ht h
  next h => exact hu h

/-! ### The stages of a sample event and of a count event -/

theorem afterLatch_linesWorked (n : LineNo) (s : State) : LinesWorked s (s.afterLatch n) :=
  have reevaluated := reevaluateInhibits_linesWorked (some n) s
  .ite (fun _ => reevaluated.trans (onLine_keeping_linesWorked n Line.inhibitOnset_profiles _)) fun _ => reevaluated

theorem protectionStage_linesWorked (n : LineNo) (s : State) : LinesWorked s (s.protectionStage n) := by
  have stepped (warn trip : Nat) : LinesWorked s (s.putLine n ((s.line n).setWatches warn trip)) :=
    putLine_linesWorked (State.knowsLine_of_profiles rfl)
  have reported (warn trip : Nat) (f : Line → Line) (hf : ∀ l, (f l).profiles = l.profiles) :
      LinesWorked s ((s.putLine n ((s.line n).setWatches warn trip)).onLine n f) :=
    (stepped warn trip).trans (onLine_keeping_linesWorked n hf _)
  refine .ite (fun _ => .ite (fun _ => stepped _ _) fun _ => .ite (fun _ => ?_) fun _ => ?_)
    fun _ => .ite (fun _ => ?_) fun _ => stepped _ _
  · exact reported _ _ _ Line.tripReport_profiles
  · exact (reported _ _ _ Line.tripReport_profiles).trans (afterLatch_linesWorked n _)
  · exact (reported _ _ _ (Line.latch_profiles .warn)).trans (afterLatch_linesWorked n _)

theorem tensionStage_linesWorked (n : LineNo) (sample : BitVec 12) (s : State) :
    LinesWorked s (s.tensionStage n sample) := by
  refine .ite (fun _ => LinesWorked.trans (LinesWorked.trans ?_ (onLine_keeping_linesWorked n
    (Line.tensionReport_profiles _ _) _)) (protectionStage_linesWorked n _)) fun _ => .refl s
  exact putLine_linesWorked (State.knowsLine_of_profiles rfl)

theorem putSense_linesWorked (n : LineNo) (u : Sense) (s : State) :
    LinesWorked s (s.putLine n { s.line n with sense := u }) :=
  putLine_linesWorked (State.knowsLine_of_profiles rfl)

theorem sensorStage_linesWorked (n : LineNo) (sample : BitVec 12) (s : State) :
    LinesWorked s (s.sensorStage n sample) :=
  .ite (fun _ => (putSense_linesWorked n _ s).trans (onLine_keeping_linesWorked n Line.sensorFaultReport_profiles _))
    fun _ => putSense_linesWorked n _ s

theorem profileStage_linesWorked (n : LineNo) (s : State) : LinesWorked s (s.profileStage n) := by
  have known {l : Line} {p : Profile} (h : l.profiles = (p, none)) (hp : s.knows n p) : s.knowsLine n l := by
    obtain ⟨applied, joined⟩ := Prod.mk.inj h
    exact ⟨applied ▸ hp, fun q hq => by simp [joined] at hq⟩
  unfold State.profileStage
  refine .ite (fun _ => onLine_linesWorked (known (Line.applyProfile_profiles _ _) (.inr (.inr ⟨_, rfl⟩)))) fun _ => ?_
  split
  next p joined => exact onLine_linesWorked (known (Line.useJoined_profiles _ _) (.inr (.inl joined)))
  next => exact .refl s

theorem hookChange_partMoves (n : LineNo) (old new : HookPos) (s : State) : PartMoves s (s.hookChange n old new) :=
  have reported := (onLine_keeping_linesWorked n (Line.hookReport_profiles s.berth old new) s).moves
  .ite (fun _ => reported.trans (PartMove.append _ _).moves) fun _ => reported

theorem switchStage_partMoves (n : LineNo) (pins : SwitchPins) (s : State) : PartMoves s (s.switchStage n pins) := by
  unfold State.switchStage
  extract_lets old new _ s1 s2 s3
  have read : PartMoves s s1 := (putSense_linesWorked n _ s).moves
  have hook : PartMoves s s2 := .ite (fun _ => read) fun _ => read.trans (hookChange_partMoves n _ _ _)
  have stowed : PartMoves s s3 :=
    .ite (fun _ => hook.trans (onLine_keeping_linesWorked n Line.stowedReport_profiles _).moves) fun _ => hook
  exact .ite (fun _ => stowed.trans (onLine_keeping_linesWorked n Line.driveFaultReport_profiles _).moves)
    fun _ => stowed

theorem sampleEvent_partMoves (n : LineNo) (sample : BitVec 12) (pins : SwitchPins) (s : State) :
    PartMoves s (s.sampleEvent n sample pins) := by
  have timed : PartMoves s (s.putLine n (s.line n).advanceHookTimer) :=
    (putLine_linesWorked (State.knowsLine_of_profiles (Line.advanceHookTimer_profiles _))).moves
  have switched := (timed.trans (profileStage_linesWorked n _).moves).trans (switchStage_partMoves n pins _)
  have loaded := (switched.trans (sensorStage_linesWorked n sample _).moves).trans
    (tensionStage_linesWorked n sample _).moves
  exact PartMoves.trans (.ite (fun _ => loaded) fun _ => timed)
    (onLine_keeping_linesWorked n (Line.close_profiles _) _).moves

theorem countEvent_linesWorked (n : LineNo) (step : EncoderStep) (s : State) : LinesWorked s (s.countEvent n step) := by
  refine .ite (fun _ => ?_) fun _ => .refl s
  dsimp only
  cases countDirection (s.setup n).hand step with
  | none => exact putSense_linesWorked n _ s
  | some d =>
    exact (putSense_linesWorked n _ s).trans (onLine_keeping_linesWorked n (Line.countReport_profiles _ _ _) _)

/-! ### Line commands -/

theorem placeReply_partMoves (st : Station) (kind : Byte) (body : List Byte) (s : State) :
    PartMoves s (s.placeReply st kind body) :=
  (PartMove.link st _ s ⟨rfl, rfl, fun _ _ _ _ => Option.some_ne_none _⟩).moves

theorem takeLines_partMoves {f : LineNo → State → State × ReplyCode} (hf : ∀ n s, PartMoves s (f n s).1) :
    ∀ (ns : List LineNo) (s : State), PartMoves s (takeLines f ns s).1
  | [], s => .refl s
  | n :: ns, s => (hf n s).trans (takeLines_partMoves hf ns (f n s).1)

theorem lineCommand_partMoves {f : (LineNo → Bool) → LineNo → State → State × ReplyCode}
    (hf : ∀ permit n s, PartMoves s (f permit n s).1) (st : Station) (kind lines : Byte) (s : State) :
    PartMoves s (s.lineCommand st kind lines f) :=
  .ite (fun _ => placeReply_partMoves st _ _ s) fun _ =>
    ((takeLines_partMoves (hf _) _ s).trans (recordWatched_linesWorked st _ _).moves).trans
      (placeReply_partMoves st _ _ _)

/-- A line command turned away for a line leaves the state (R43). -/
theorem refused_partMoves {c : Prop} [Decidable c] {s : State} {code : ReplyCode} {taken : State × ReplyCode}
    (h : PartMoves s taken.1) : PartMoves s (if c then (s, code) else taken).1 := by
  split
  · exact .refl s
  · exact h

theorem doLine_partMoves {f : Line → Line} (hf : ∀ l, (f l).profiles = l.profiles) (n : LineNo) (s : State) :
    PartMoves s (s.doLine n f).1 := (onLine_keeping_linesWorked n hf s).moves

theorem deployLine_partMoves (permit : LineNo → Bool) (n : LineNo) (s : State) :
    PartMoves s (deployLine permit n s).1 :=
  refused_partMoves <| refused_partMoves <| refused_partMoves <| refused_partMoves <| refused_partMoves <|
    refused_partMoves <| doLine_partMoves (Line.enter_profiles _ _) n s

theorem engageLine_partMoves (permit : LineNo → Bool) (n : LineNo) (s : State) :
    PartMoves s (engageLine permit n s).1 :=
  refused_partMoves <| refused_partMoves <| refused_partMoves <| doLine_partMoves (Line.enter_profiles _ _) n s

theorem lockLine_partMoves (permit : LineNo → Bool) (n : LineNo) (s : State) :
    PartMoves s (lockLine permit n s).1 := by
  refine refused_partMoves <| refused_partMoves <| refused_partMoves <| refused_partMoves ?_
  split
  · exact doLine_partMoves (f := fun l => (l.enter .locked {}).setMark) (fun l => Line.enter_profiles .locked {} l) n s
  · exact refused_partMoves <| refused_partMoves <| doLine_partMoves (Line.enter_profiles _ _) n s

theorem holdLine_partMoves (permit : LineNo → Bool) (n : LineNo) (s : State) :
    PartMoves s (holdLine permit n s).1 := by
  refine refused_partMoves ?_
  generalize (s.line n).control.state = x
  cases x with
  | locked | rendering | recovering | hauling | slacking | deploying | rewinding =>
    exact doLine_partMoves (Line.enter_profiles _ _) n s
  | _ => exact .refl s

theorem markLine_partMoves (permit : LineNo → Bool) (n : LineNo) (s : State) :
    PartMoves s (Machine.markLine permit n s).1 := by
  refine refused_partMoves ?_
  generalize (s.line n).control.state = x
  cases x with
  | locked | held => exact doLine_partMoves Line.setMark_profiles n s
  | _ => exact .refl s

theorem releaseLine_partMoves (thenRewind : Bool) (permit : LineNo → Bool) (n : LineNo) (s : State) :
    PartMoves s (releaseLine thenRewind permit n s).1 := by
  refine refused_partMoves <| refused_partMoves <| refused_partMoves ?_
  generalize (s.line n).control.state = x
  cases x with
  | locked | rendering | recovering | held | hauling => exact doLine_partMoves (Line.enter_profiles _ _) n s
  | _ => exact .refl s

theorem rewindLine_partMoves (permit : LineNo → Bool) (n : LineNo) (s : State) :
    PartMoves s (rewindLine permit n s).1 :=
  refused_partMoves <| refused_partMoves <| refused_partMoves <| refused_partMoves <|
    doLine_partMoves (Line.goRewind_profiles _) n s

theorem resetLineOne_partMoves (permit : LineNo → Bool) (n : LineNo) (s : State) :
    PartMoves s (resetLineOne permit n s).1 :=
  refused_partMoves <| refused_partMoves <| doLine_partMoves (Line.derive_profiles _) n s

theorem quickReleaseLine_partMoves (st : Station) (permit : LineNo → Bool) (n : LineNo) (s : State) :
    PartMoves s (quickReleaseLine st permit n s).1 :=
  refused_partMoves <| refused_partMoves <| refused_partMoves <| (PartMove.append [n] s).moves

/-! ### The other requests -/

theorem takeGroups_linesWorked {f : GroupNo → State → State × ReplyCode} (hf : ∀ g s, LinesWorked s (f g s).1) :
    ∀ (gs : List GroupNo) (s : State), LinesWorked s (takeGroups f gs s).1
  | [], s => .refl s
  | g :: gs, s => (hf g s).trans (takeGroups_linesWorked hf gs (f g s).1)

theorem takeClaim_partMoves (st : Station) (groups option : Byte) (s : State) :
    PartMoves s (takeClaim st groups option s) :=
  (takeGroups_linesWorked (fun g s => setRecord_linesWorked g _ s) _ s).moves.trans (placeReply_partMoves st _ _ _)

theorem takeYield_partMoves (st : Station) (groups : Byte) (s : State) : PartMoves s (takeYield st groups s) := by
  have yields (g : GroupNo) (u : State) : LinesWorked u (yieldGroup st g u).1 := by
    unfold yieldGroup
    split
    · exact removeEntry_linesWorked st g u
    · exact .refl u
  exact (takeGroups_linesWorked yields _ s).moves.trans (placeReply_partMoves st _ _ _)

theorem clearLine_linesWorked (st : Station) (flags : BitVec 16) (n : LineNo) (s : State) :
    LinesWorked s (clearLine st flags n s).1 := by
  have cleared (mask : BitVec 10) : LinesWorked s (s.putLine n ((s.line n).clear mask)) :=
    putLine_linesWorked (State.knowsLine_of_profiles rfl)
  have discarded (trip : Bool) (u : State) : LinesWorked u (u.putLine n ((u.line n).afterClear trip)) :=
    putLine_linesWorked (State.knowsLine_of_profiles rfl)
  unfold clearLine
  extract_lets l word named s1
  split
  · exact .refl s
  · split
    · exact .refl s
    · split
      · dsimp only
        exact (cleared named).trans ((discarded _ s1).trans (reevaluateInhibits_linesWorked none _))
      · exact cleared named

theorem clearLines_linesWorked (st : Station) (flags : BitVec 16) :
    ∀ (ns : List LineNo) (s : State), LinesWorked s (clearLines st flags ns s).1
  | [], s => .refl s
  | n :: ns, s => (clearLine_linesWorked st flags n s).trans (clearLines_linesWorked st flags ns _)

theorem takeClearFlags_partMoves (st : Station) (lines : Byte) (flags : BitVec 16) (s : State) :
    PartMoves s (takeClearFlags st lines flags s) :=
  (clearLines_linesWorked st flags _ s).moves.trans (placeReply_partMoves st _ _ _)

theorem takeClearStation_partMoves (st : Station) (indicators : Byte) (s : State) :
    PartMoves s (takeClearStation st indicators s) :=
  (PartMove.link st _ s ⟨rfl, rfl, id⟩).moves.trans (placeReply_partMoves st _ _ _)

theorem PartMoves.answer {s t : State} (h : PartMoves s t) (st : Station) (kind : Byte) (c : ReplyCode) :
    PartMoves s (t.answer st kind c) := h.trans (placeReply_partMoves st kind _ t)

/-- A request turned away by an outcome code alone. -/
theorem answered_partMoves {c : Prop} [Decidable c] {s t : State} {st : Station} {kind : Byte} {code : ReplyCode}
    (h : ¬c → PartMoves s t) : PartMoves s (if c then s.answer st kind code else t) :=
  .ite (fun _ => (PartMoves.refl s).answer st kind code) h

theorem takeWriteProfile_partMoves (st : Station) (group : Byte) (p : Profile) (s : State) :
    PartMoves s (takeWriteProfile st group p s) := by
  refine answered_partMoves fun _ => answered_partMoves fun _ => answered_partMoves fun valid => ?_
  have replaced : PartMoves s (s.withTable { s.table with profiles := s.table.profiles.set (groupOf group) p }) :=
    (PartMove.profile _ p s (by simpa [profileTaken_eq] using valid)).moves
  have awaited (n : LineNo) (u : State) : LinesWorked u (u.putLine n { u.line n with profileDue := true }) :=
    putLine_linesWorked (State.knowsLine_of_profiles rfl)
  exact (replaced.trans (LinesWorked.foldl (fun u n => awaited n u) _ _).moves).answer st _ _

theorem settingsOfBytes_stagger {scope stagger lead : Byte} {b : BerthSettings}
    (h : settingsOfBytes scope stagger lead = some b) : b.stagger ≤ 200 := by
  unfold settingsOfBytes at h
  split at h
  next fits =>
    obtain rfl := Option.some.inj h
    simp only [Bool.and_eq_true, decide_eq_true_eq] at fits
    exact fits.1.2
  next => cases h

theorem takeWriteBerth_partMoves (st : Station) (scope stagger lead : Byte) (s : State) :
    PartMoves s (takeWriteBerth st scope stagger lead s) := by
  refine answered_partMoves fun _ => answered_partMoves fun _ => ?_
  cases taken : settingsOfBytes scope stagger lead with
  | none => exact (PartMoves.refl s).answer st _ _
  | some b =>
    have replaced : PartMoves s (s.withTable { s.table with settings := b }) :=
      (PartMove.settings b s (settingsOfBytes_stagger taken)).moves
    refine PartMoves.answer ?_ st _ _
    unfold State.writeBerth
    extract_lets old _ s1 s2
    have inhibits : PartMoves s s2 :=
      .ite (fun _ => replaced) fun _ => replaced.trans (reevaluateInhibits_linesWorked none s1).moves
    exact .ite (fun _ => inhibits) fun _ => inhibits.trans (reevaluateAll_linesWorked s2).moves

theorem setupOfFields_inRange {f : SetupFields} {u : LineSetup} (h : setupOfFields f = some u) : u.inRange := by
  rw [setupOfFields_eq_some] at h
  obtain ⟨taken, -, -, -, zeroOffset, -, capacity⟩ := h
  unfold setupTaken at taken
  rw [decide_eq_true_eq] at taken
  obtain ⟨-, -, -, offset, -, low, high⟩ := taken
  exact ⟨zeroOffset ▸ offset, capacity ▸ low, capacity ▸ high⟩

theorem writeSetup_partMoves (n : LineNo) {u : LineSetup} (inRange : u.inRange) (s : State) :
    PartMoves s (s.writeSetup n u) := by
  have replaced : PartMoves s (s.withTable (s.table.setSetup n u)) := (PartMove.setup n u s inRange).moves
  have line : LinesWorked (s.withTable (s.table.setSetup n u))
      ((s.withTable (s.table.setSetup n u)).onLine n (Line.takeSetup (s.setup n) u (s.profile u.group))) := by
    obtain ⟨applied, joined⟩ := Line.takeSetup_profiles (s.setup n) u (s.profile u.group) (s.line n)
    refine onLine_linesWorked ⟨?_, fun p hp => ?_⟩
    · exact applied.imp id fun h => .inr ⟨u.group, h⟩
    · obtain h | h | h := joined
      · exact absurd (h.symm.trans hp) (by simp)
      · exact .inr (.inl (h.symm.trans hp))
      · exact .inr (.inr ⟨u.group, Option.some.inj (hp.symm.trans h)⟩)
  have taken := replaced.trans line.moves
  exact .ite (fun _ => taken) fun _ => taken.trans (reevaluateInhibits_linesWorked none _).moves

theorem takeWriteLineSetup_partMoves (st : Station) (line : Byte) (f : SetupFields) (s : State) :
    PartMoves s (takeWriteLineSetup st line f s) := by
  refine answered_partMoves fun _ => answered_partMoves fun _ => answered_partMoves fun _ =>
    answered_partMoves fun _ => answered_partMoves fun _ => ?_
  cases taken : setupOfFields f with
  | none => exact (PartMoves.refl s).answer st _ _
  | some u => exact (writeSetup_partMoves _ (setupOfFields_inRange taken) s).answer st _ _

theorem takeSaveSetup_partMoves (st : Station) (s : State) : PartMoves s (takeSaveSetup st s) :=
  answered_partMoves fun _ => answered_partMoves fun _ => answered_partMoves fun free =>
    (PartMove.startSave s (by simpa using (not_or.1 free).2)).moves.answer st _ _

theorem takeRestart_partMoves (st : Station) (s : State) : PartMoves s (takeRestart st s) :=
  answered_partMoves fun _ => answered_partMoves fun free =>
    (PartMove.awaitRestart _ s (by simp at free; simp [free])).moves.answer st _ _

/-! ### Request events -/

theorem latchLinkError_partMoves (st : Station) (s : State) : PartMoves s (s.latchLinkError st) :=
  (PartMove.link st _ s ⟨rfl, rfl, id⟩).moves

theorem requestEvent_partMoves {take : State → State} (st : Station) (bodyOk : Bool) {s : State}
    (h : PartMoves s (take s)) : PartMoves s (s.requestEvent st bodyOk take) :=
  .ite (fun _ => .refl s) fun _ => .ite (fun _ => latchLinkError_partMoves st s) fun _ => h

theorem dispatchRequest_partMoves (i : Instr) (s : State) : PartMoves s (dispatchRequest i s) := by
  cases i with
  | claim st groups option => exact requestEvent_partMoves st _ (takeClaim_partMoves st groups option s)
  | yieldGroups st groups => exact requestEvent_partMoves st _ (takeYield_partMoves st groups s)
  | query st => exact requestEvent_partMoves st _ (placeReply_partMoves st _ _ s)
  | deploy st lines => exact requestEvent_partMoves st _ (lineCommand_partMoves deployLine_partMoves st _ lines s)
  | engage st lines => exact requestEvent_partMoves st _ (lineCommand_partMoves engageLine_partMoves st _ lines s)
  | lock st lines => exact requestEvent_partMoves st _ (lineCommand_partMoves lockLine_partMoves st _ lines s)
  | hold st lines => exact requestEvent_partMoves st _ (lineCommand_partMoves holdLine_partMoves st _ lines s)
  | mark st lines => exact requestEvent_partMoves st _ (lineCommand_partMoves markLine_partMoves st _ lines s)
  | rewind st lines => exact requestEvent_partMoves st _ (lineCommand_partMoves rewindLine_partMoves st _ lines s)
  | quickRelease st lines =>
    exact requestEvent_partMoves st _ (lineCommand_partMoves (quickReleaseLine_partMoves st) st _ lines s)
  | resetLine st lines => exact requestEvent_partMoves st _ (lineCommand_partMoves resetLineOne_partMoves st _ lines s)
  | release st lines option =>
    exact requestEvent_partMoves st _ (lineCommand_partMoves (releaseLine_partMoves _) st _ lines s)
  | readLines st first count => exact requestEvent_partMoves st _ (placeReply_partMoves st _ _ s)
  | readGroup st group => exact requestEvent_partMoves st _ (placeReply_partMoves st _ _ s)
  | readSetup st line => exact requestEvent_partMoves st _ (placeReply_partMoves st _ _ s)
  | clearFlags st lines flags => exact requestEvent_partMoves st _ (takeClearFlags_partMoves st lines flags s)
  | clearStation st indicators => exact requestEvent_partMoves st _ (takeClearStation_partMoves st indicators s)
  | writeProfile st group p => exact requestEvent_partMoves st _ (takeWriteProfile_partMoves st group p s)
  | writeBerth st scope stagger lead =>
    exact requestEvent_partMoves st _ (takeWriteBerth_partMoves st scope stagger lead s)
  | writeLineSetup st line f => exact requestEvent_partMoves st _ (takeWriteLineSetup_partMoves st line f s)
  | saveSetup st => exact requestEvent_partMoves st _ (takeSaveSetup_partMoves st s)
  | restart st => exact requestEvent_partMoves st _ (takeRestart_partMoves st s)
  | _ => exact .refl s

/-! ### The frame event -/

theorem losePresence_partMoves (st : Station) (s : State) : PartMoves s (s.losePresence st) :=
  (PartMove.lose st s).moves.trans (LinesWorked.foldl (fun s g => removeEntry_linesWorked st g s) _ _).moves

theorem presenceStep_partMoves (st : Station) (good : Bool) (s : State) : PartMoves s (s.presenceStep st good) := by
  have counted (f : Link → Link) (hf : (s.link st).Carries (f (s.link st))) : PartMoves s (s.onLink st f) :=
    (PartMove.link st f s hf).moves
  unfold State.presenceStep
  dsimp only
  split
  next absent => exact .ite (fun _ => (PartMove.gain st s absent).moves) fun _ => counted _ ⟨rfl, rfl, id⟩
  · exact counted _ ⟨rfl, rfl, id⟩
  · exact counted _ ⟨rfl, rfl, id⟩
  · exact .ite (fun _ => losePresence_partMoves st s) fun _ => counted _ ⟨rfl, rfl, id⟩

theorem stanceStep_partMoves (st : Station) (code : BitVec 4) (s : State) : PartMoves s (s.stanceStep st code) := by
  unfold State.stanceStep
  extract_lets k s1
  have read : PartMoves s s1 := (PartMove.link st _ s ⟨rfl, rfl, id⟩).moves
  split
  · exact read.trans (latchLinkError_partMoves st s1)
  · exact .ite (fun _ => read.trans (PartMove.stance st k.stance _ s1).moves) fun _ => read

theorem messageComplete_partMoves (st : Station) (kind : Byte) (length : Nat) (bytes : List Byte) (s : State) :
    PartMoves s (s.messageComplete st kind length bytes) := by
  refine .ite (fun _ => latchLinkError_partMoves st s) fun _ => ?_
  cases decodeRequest st kind bytes with
  | none => exact latchLinkError_partMoves st s
  | some i => exact dispatchRequest_partMoves i s

theorem takeByte_partMoves (st : Station) (b : Byte) (s : State) : PartMoves s (s.takeByte st b) := by
  have next (m : Incoming) : PartMoves s ((s.onLink st fun k => { k with gap := 0 }).setIncoming st m) :=
    (PartMove.link st _ s ⟨rfl, rfl, id⟩).moves.trans (PartMove.link st _ _ ⟨rfl, rfl, id⟩).moves
  unfold State.takeByte
  dsimp only
  split
  · exact next _
  · exact .ite (fun _ => (next _).trans (latchLinkError_partMoves st _)) fun _ =>
      .ite (fun _ => (next _).trans (messageComplete_partMoves st _ _ _ _)) fun _ => next _
  · exact .ite (fun _ => (next _).trans (messageComplete_partMoves st _ _ _ _)) fun _ => next _

theorem abortGap_partMoves (st : Station) (s : State) : PartMoves s (s.abortGap st) :=
  (PartMove.link st _ s ⟨rfl, rfl, id⟩).moves

theorem gapStep_partMoves (st : Station) (s : State) : PartMoves s (s.gapStep st) :=
  .ite (fun _ => .refl s) fun _ =>
    .ite (fun _ => abortGap_partMoves st s) fun _ => (PartMove.link st _ s ⟨rfl, rfl, id⟩).moves

theorem receiveStep_partMoves (st : Station) (offer : Bool) (b : Byte) (s : State) :
    PartMoves s (s.receiveStep st offer b) := by
  unfold State.receiveStep
  extract_lets r s1
  have received : PartMoves s s1 := (PartMove.link st _ s ⟨rfl, rfl, id⟩).moves
  split
  · exact received.trans (takeByte_partMoves st _ s1)
  · exact received.trans (gapStep_partMoves st s1)

/-- A lane completion ends the transfer, and may restart the part (R156, R170). -/
theorem laneCompletion_partMoves (st : Station) (isReply : Bool) (s : State) :
    PartMoves s (s.laneCompletion st isReply) := by
  have ended : PartMoves s (s.onLink st fun k =>
      { k with send := .awaitingClear, outgoing := none, replySlot := if isReply then none else k.replySlot }) :=
    (PartMove.link st _ s ⟨rfl, rfl, fun _ _ ho => absurd ho (by simp)⟩).moves
  exact .ite (fun _ => ended.trans (PartMove.restart st _).moves) fun _ => ended

theorem sendStep_partMoves (st : Station) (take : Bool) (s : State) : PartMoves s (s.sendStep st take) := by
  have sent (x : SendLane) : PartMoves s (s.onLink st fun k => { k with send := x }) :=
    (PartMove.link st _ s ⟨rfl, rfl, id⟩).moves
  unfold State.sendStep
  dsimp only
  split
  · exact .refl s
  · refine .ite (fun _ => ?_) fun _ => .refl s
    split
    · exact .ite (fun _ => sent _) fun _ => laneCompletion_partMoves st _ s
    · exact sent _
  · refine .ite (fun _ => .refl s) fun _ => ?_
    split
    next o transfer =>
      split
      · refine (PartMove.link st _ s ⟨rfl, rfl, fun held o' ho' reply => ?_⟩).moves
        obtain rfl := Option.some.inj ho'
        exact held o transfer reply
      · exact sent _
    · exact sent _

theorem beginTransfer_partMoves (st : Station) (s : State) : PartMoves s (s.beginTransfer st) := by
  have notice (bytes : List Byte) (u : State) : PartMoves u (u.offerMessage st bytes false) := by
    refine (PartMove.link st _ u ⟨rfl, rfl, fun _ o ho reply => ?_⟩).moves
    obtain rfl := Option.some.inj ho
    exact absurd reply (by simp)
  have unmarked (f : Link → Link) (hf : (s.link st).Carries (f (s.link st))) (bytes : List Byte) :
      PartMoves s ((s.onLink st f).offerMessage st bytes false) :=
    (PartMove.link st f s hf).moves.trans (notice bytes _)
  unfold State.beginTransfer
  dsimp only
  split
  next r placed =>
    exact (PartMove.link st _ s ⟨rfl, rfl, fun _ _ _ _ => placed ▸ Option.some_ne_none _⟩).moves
  · split
    · exact unmarked _ ⟨rfl, rfl, id⟩ _
    · split
      · exact unmarked _ ⟨rfl, rfl, id⟩ _
      · exact .refl s

theorem contentStep_partMoves (st : Station) (slot : BitVec 32) (s : State) : PartMoves s (s.contentStep st slot) :=
  have received := (stanceStep_partMoves st (slotStance slot) s).trans
    (receiveStep_partMoves st (slotOffer slot) (slotByte slot) _)
  .ite (fun _ => .ite (fun _ => received) fun _ => received.trans (beginTransfer_partMoves st _))
    fun _ => received.trans (sendStep_partMoves st _ _)

theorem composeSlot_partMoves (st : Station) (s : State) : PartMoves s (s.composeSlot st) :=
  (PartMove.link st (fun k => { k with downstream := s.compose st }) s ⟨rfl, rfl, id⟩).moves

theorem frameEvent_partMoves (st : Station) (slot : BitVec 32) (s : State) : PartMoves s (s.frameEvent st slot) := by
  have decided := presenceStep_partMoves st (slotGood slot) s
  refine PartMoves.trans ?_ (composeSlot_partMoves st _)
  exact .ite (fun _ => .ite (fun _ => decided.trans (contentStep_partMoves st slot _))
    fun _ => decided.trans (gapStep_partMoves st _)) fun _ => decided

/-! ### The Berth Action Unit -/

/-- The Berth Action Unit's own items change, the queue losing entries at most. -/
theorem withBerth_partMoves {b : BerthAction} {s : State} (queue : b.queue.Sublist s.berth.queue)
    (stopped : b.stopped = s.berth.stopped) : PartMoves s (s.withBerth b) := (PartMove.berth b s queue stopped).moves

theorem queueTake_partMoves (s : State) : PartMoves s s.queueTake := by
  unfold State.queueTake
  split
  · exact .refl s
  next n rest queue =>
    have popped : PartMoves s (s.popQueue rest) :=
      withBerth_partMoves (by rw [queue]; exact List.sublist_cons_self n rest) rfl
    have opened := popped.trans (onLine_keeping_linesWorked n Line.queueHead_profiles _).moves
    exact .ite (fun _ => opened.trans (withBerth_partMoves (List.Sublist.refl _) rfl)) fun _ =>
      .ite (fun _ => opened) fun _ => opened.trans (PartMove.dueTake _).moves

theorem staggerExpire_partMoves (s : State) : PartMoves s s.staggerExpire := by
  have idle : PartMoves s (s.withBerth { s.berth with stagger := none }) :=
    withBerth_partMoves (List.Sublist.refl _) rfl
  exact .ite (fun _ => idle) fun _ => idle.trans (PartMove.dueTake _).moves

theorem staggerTick_partMoves (s : State) : PartMoves s s.staggerTick := by
  unfold State.staggerTick
  split
  · exact .refl s
  · exact .ite (fun _ => staggerExpire_partMoves s) fun _ => withBerth_partMoves (List.Sublist.refl _) rfl

theorem startReleaseAll_partMoves (s : State) : PartMoves s s.startReleaseAll :=
  have appended (ns : List LineNo) : PartMoves s (s.appendQueue ns) := (PartMove.append ns s).moves
  .ite (fun _ => appended _) fun _ => (appended _).trans (withBerth_partMoves (List.Sublist.refl _) rfl)

theorem takeStanceDue_partMoves (st : Station) (s : State) : PartMoves s (s.takeStanceDue st) := by
  unfold State.takeStanceDue
  split
  next before after _ =>
    have recomputed := (PartMove.takeStance (.stance st before after) s).moves
    exact .ite (fun _ => .ite (fun _ => recomputed.trans (startReleaseAll_partMoves _))
      fun _ => recomputed.trans (latchLinkError_partMoves st _)) fun _ => recomputed
  · exact .refl s

theorem takeHanded_partMoves {f : State → State} (hf : ∀ s, PartMoves s (f s)) (e : DueEvent) (s : State)
    (other : ∀ st before after, e ≠ .stance st before after) : PartMoves s (s.takeHanded e f) :=
  .ite (fun _ => (PartMove.takeDue e s other).moves.trans (hf _)) fun _ => .refl s

/-! ### Commands and steps -/

/-- What a command can do: the running part goes through moves, or the supply or the reset input changes. -/
inductive Stepped (s : State) : State → Prop
  | moves {t : State} (running : s.running = true) (h : PartMoves s t) : Stepped s t
  | stands : Stepped s s
  | powerOn : Stepped s s.powerOn
  | assertReset : Stepped s s.assertReset
  | releaseReset : Stepped s s.releaseReset
  | losePower : Stepped s s.losePower

theorem whileRunning_stepped {f : State → State} {s t : State} (hf : PartMoves s (f s))
    (h : whileRunning f s = .next t) : Stepped s t := by
  unfold whileRunning at h
  cases h
  split
  next running => exact .moves running hf
  next => exact .stands

theorem exec_stepped (i : Instr) {s t : State} (h : exec i s = .next t) : Stepped s t := by
  by_cases request : i.kind ≠ none
  · rw [exec_request i s request] at h
    exact whileRunning_stepped (dispatchRequest_partMoves i s) h
  · cases i with
    | sampleEvent n sample pins => exact whileRunning_stepped (sampleEvent_partMoves n sample pins s) h
    | countEvent n step => exact whileRunning_stepped (countEvent_linesWorked n step s).moves h
    | frameEvent st slot => exact whileRunning_stepped (frameEvent_partMoves st slot s) h
    | powerOn => cases h; exact .powerOn
    | resetInputAssert => cases h; exact .assertReset
    | resetInputRelease => cases h; exact .releaseReset
    | powerLoss => cases h; exact .losePower
    | deviceRestart st =>
      exact whileRunning_stepped (.ite (fun _ => (PartMove.restart st s).moves) fun _ => .refl s) h
    | storeCompletion readBack => exact whileRunning_stepped (PartMove.completeSave readBack s).moves h
    | staggerExpiry => exact whileRunning_stepped (.ite (fun _ => staggerExpire_partMoves s) fun _ => .refl s) h
    | hookTimerExpiry n =>
      exact whileRunning_stepped (onLine_keeping_linesWorked n Line.hookExpire_profiles s).moves h
    | stallExpiry n => exact whileRunning_stepped (onLine_keeping_linesWorked n Line.stallExpire_profiles s).moves h
    | derivation n =>
      exact whileRunning_stepped (onLine_keeping_linesWorked n (Line.deriveStarting_profiles _) s).moves h
    | gapAbort st => exact whileRunning_stepped (.ite (fun _ => abortGap_partMoves st s) fun _ => .refl s) h
    | presenceLoss st => exact whileRunning_stepped (.ite (fun _ => losePresence_partMoves st s) fun _ => .refl s) h
    | stanceChange st => exact whileRunning_stepped (takeStanceDue_partMoves st s) h
    | stopOnset n =>
      exact whileRunning_stepped (takeHanded_partMoves (fun s =>
        (onLine_keeping_linesWorked n Line.stopOnset_profiles s).moves) (.stopOnset n) s fun _ _ _ => nofun) h
    | holderChangeHalt n =>
      exact whileRunning_stepped (takeHanded_partMoves (fun s =>
        (onLine_keeping_linesWorked n Line.halt_profiles s).moves) (.halt n) s fun _ _ _ => nofun) h
    | inhibitOnset n =>
      exact whileRunning_stepped (takeHanded_partMoves (fun s =>
        (onLine_keeping_linesWorked n Line.inhibitOnset_profiles s).moves) (.inhibitOnset n) s fun _ _ _ => nofun) h
    | inhibitLift n => exact whileRunning_stepped (takeHanded_partMoves PartMoves.refl (.inhibitLift n) s fun _ _ _ => nofun) h
    | queueTake => exact whileRunning_stepped (takeHanded_partMoves queueTake_partMoves .queueTake s fun _ _ _ => nofun) h
    | _ => exact absurd nofun request

/-- The queue of commands apart, a step of the part is a command or an idle period (log 1, log 28). -/
theorem step_stepped {s t : State} (h : step s = .next t) : ∃ rest, Stepped { s with pending := rest } t := by
  unfold step at h
  split at h
  next rest _ => exact ⟨rest, exec_stepped _ h⟩
  · refine ⟨s.pending, ?_⟩
    split at h
    · split at h
      · exact exec_stepped _ h
      · exact whileRunning_stepped (staggerTick_partMoves s) h
    · cases h; exact .stands

/-- The induction over what a step does: what every move of the running part, power-on, the reset input and a loss of power
keep, and what does not read the queue of commands, every step keeps. -/
theorem step_keeps {P : State → Prop} (pending : ∀ s rest, P s → P { s with pending := rest })
    (move : ∀ s t, PartMove s t → s.running = true → P s → P t ∧ t.running = true)
    (powerOn : ∀ s, P s → P s.powerOn) (assertReset : ∀ s, P s → P s.assertReset)
    (releaseReset : ∀ s, P s → P s.releaseReset) (losePower : ∀ s, P s → P s.losePower)
    {s t : State} (h : step s = .next t) (hs : P s) : P t := by
  obtain ⟨rest, h⟩ := step_stepped h
  have hs := pending s rest hs
  cases h with
  | moves running moves =>
    have kept {u : State} (hu : PartMoves { s with pending := rest } u) : P u ∧ u.running = true := by
      induction hu with
      | refl => exact ⟨hs, running⟩
      | tail _ m ih => exact move _ _ m ih.2 ih.1
    exact (kept moves).1
  | stands => exact hs
  | powerOn => exact powerOn _ hs
  | assertReset => exact assertReset _ hs
  | releaseReset => exact releaseReset _ hs
  | losePower => exact losePower _ hs

end Sys2Proof.Machine

/-! PROOFS. Every step keeps the release queue without repeats, STOPPED in agreement with the stances and a reply in transfer
in its reply slot (R133, R134, R137, R142, R150, R156, R157, R160): settles O58. -/

namespace Sys2Proof.Machine

/-! ### What the moves leave alone -/

theorem LinesWorked.running {s t : State} (h : LinesWorked s t) : t.running = s.running := by
  simp only [State.running, h.beside.powered, h.beside.resetAsserted]

/-- Every move of the running part leaves it running: power-on, the reset input and a loss of power are no moves. -/
theorem PartMove.running {s t : State} (m : PartMove s t) (h : s.running = true) : t.running = true := by
  cases m with
  | lines worked => exact worked.running.trans h
  | lose =>
    unfold State.linkLost
    dsimp only
    split <;> exact h
  | append => rw [appendQueue_spec]; exact h
  | dueTake => unfold State.dueTake; split <;> exact h
  | takeStance => rw [recomputeStopped_spec]; exact h
  | completeSave => unfold State.completeSave; split <;> exact h
  | restart st =>
    have kept := restartPart_inhibitsKept st s
    simpa only [State.running, kept.powered, kept.resetAsserted] using h
  | _ => exact h

theorem completeSave_beside (readBack : Option StoreImage) (s : State) :
    (s.completeSave readBack).links = s.links ∧ (s.completeSave readBack).berth = s.berth
      ∧ (s.completeSave readBack).due = s.due ∧ (s.completeSave readBack).lines = s.lines := by
  unfold State.completeSave
  split <;> exact ⟨rfl, rfl, rfl, rfl⟩

/-! ### The restart -/

/-- What a composing of slots leaves of the part. -/
theorem composeSlots_spec (xs : List Station) (s : State) :
    ∃ links, xs.foldl (fun s x => s.composeSlot x) s = { s with links := links }
      ∧ ∀ x, ∃ slot, (xs.foldl (fun s x => s.composeSlot x) s).link x = { s.link x with downstream := slot } := by
  induction xs generalizing s with
  | nil => exact ⟨s.links, rfl, fun x => ⟨(s.link x).downstream, rfl⟩⟩
  | cons a xs ih =>
    obtain ⟨links, rest, link⟩ := ih (s.composeSlot a)
    refine ⟨links, rest, fun x => ?_⟩
    obtain ⟨slot, h⟩ := link x
    refine ⟨slot, h.trans ?_⟩
    rw [State.composeSlot, State.link_onLink]
    split <;> rfl

theorem restartLines_beside (ns : List LineNo) (s : State) :
    ∃ lines, ns.foldl (fun s n => s.restartLine n) s = { s with lines := lines } := by
  induction ns generalizing s with
  | nil => exact ⟨s.lines, rfl⟩
  | cons n ns ih => obtain ⟨lines, h⟩ := ih (s.restartLine n); exact ⟨lines, h⟩

/-- Each station's items after a restart, the downstream slot apart (R160). -/
theorem restartPart_link (st : Station) (s : State) (x : Station) :
    ∃ slot, (s.restartPart st).link x = { (s.link x).atRestart with downstream := slot } := by
  unfold State.restartPart
  extract_lets _ s1 s2 s3 s4
  obtain ⟨-, -, link⟩ := composeSlots_spec (slotsUpTo st) s4
  obtain ⟨slot, h⟩ := link x
  refine ⟨slot, h.trans ?_⟩
  obtain ⟨lines, restarted⟩ := restartLines_beside allLines s1
  have same : s2.link x = s.link x := by
    change (List.foldl _ s1 allLines).link x = _
    rw [restarted]; rfl
  have linked : s4.link x = (s2.link x).atRestart := by
    change s3.link x = _
    simp only [s3, allStations, List.foldl_cons, List.foldl_nil, State.link_onLink]
    cases x <;> simp
  rw [linked, same]

/-- What a restart makes of the rest of the part (R66, R110, R111, R132, R146, R170). -/
theorem restartPart_rest (st : Station) (s : State) :
    (s.restartPart st).table = GroupTable.load { s.table.defaults with saveCopy := none }
      ∧ (s.restartPart st).records = Vector.replicate 4 emptyRecord ∧ (s.restartPart st).berth = berthAtReset
      ∧ (s.restartPart st).due = [] ∧ (s.restartPart st).pendingRestart = []
      ∧ (s.restartPart st).freeIndex = s.freeIndex ∧ (s.restartPart st).pending = s.pending
      ∧ (s.restartPart st).powered = s.powered ∧ (s.restartPart st).resetAsserted = s.resetAsserted := by
  have linked (xs : List Station) (f : Link → Link) (u : State) :
      ∃ links, xs.foldl (fun s x => s.onLink x f) u = { u with links := links } := by
    induction xs generalizing u with
    | nil => exact ⟨u.links, rfl⟩
    | cons a xs ih => obtain ⟨links, h⟩ := ih (u.onLink a f); exact ⟨links, h⟩
  unfold State.restartPart
  extract_lets _ s1 s2 s3 s4
  obtain ⟨links, composed, -⟩ := composeSlots_spec (slotsUpTo st) s4
  obtain ⟨lines, restarted⟩ := restartLines_beside allLines s1
  obtain ⟨links', restartedLinks⟩ := linked allStations Link.atRestart s2
  have h3 : s3 = { s1 with lines := lines, links := links' } := restartedLinks.trans (by rw [show s2 = _ from restarted])
  rw [composed]
  unfold s4
  rw [h3]
  exact ⟨rfl, rfl, rfl, rfl, rfl, rfl, rfl, rfl, rfl⟩

/-! ### The release queue -/

theorem forLine_not_queueTake {es : List DueEvent} (h : ∀ e ∈ es, DueEvent.forLine e = true) :
    es.count .queueTake = 0 :=
  List.count_eq_zero.2 fun he => absurd (h _ he) (by simp [DueEvent.forLine])

theorem State.queueSound.of_queue {s t : State} (h : s.queueSound) (queue : t.berth.queue.Sublist s.berth.queue)
    (takes : t.due.count .queueTake ≤ s.due.count .queueTake) : t.queueSound := by
  obtain ⟨nodup, length, count⟩ := h
  exact ⟨nodup.sublist queue, queue.length_le.trans length, takes.trans count⟩

/-- An empty queue with nothing due is sound (R146). -/
theorem queueSound_of_empty {s : State} (berth : s.berth = berthAtReset) (due : s.due = []) : s.queueSound := by
  unfold State.queueSound
  rw [berth, due]
  decide

theorem appendQueue_queueSound (ns : List LineNo) {s : State} (h : s.queueSound) : (s.appendQueue ns).queueSound := by
  obtain ⟨nodup, -, count⟩ := h
  have nodup' := appendQueue_nodup ns s nodup
  refine ⟨nodup', length_le_eight nodup', ?_⟩
  rw [appendQueue_spec]
  dsimp only
  split
  next due => simp [List.count_eq_zero.2 due.2.2]
  next => exact count

theorem recomputeStopped_count (s : State) : s.recomputeStopped.due.count .queueTake = s.due.count .queueTake := by
  rw [recomputeStopped_spec]
  dsimp only
  split
  · rw [List.count_append, Nat.add_eq_left]
    exact forLine_not_queueTake (by simp [DueEvent.forLine])
  · rfl

theorem PartMove.queueSound {s t : State} (m : PartMove s t) (h : s.queueSound) : t.queueSound := by
  cases m with
  | lines worked =>
    obtain ⟨es, due, lines⟩ := worked.due
    refine h.of_queue (by rw [worked.beside.berth]) ?_
    rw [due, List.count_append, forLine_not_queueTake lines]
    exact le_rfl
  | lose st =>
    refine h.of_queue ?_ ?_ <;> unfold State.linkLost <;> dsimp only <;> split
    · exact List.Sublist.refl _
    · exact List.Sublist.refl _
    · exact le_rfl
    · simp [State.handOver]
  | stance st before after =>
    refine h.of_queue (List.Sublist.refl _) ?_
    simp [State.handOver]
  | append ns => exact appendQueue_queueSound ns h
  | dueTake =>
    obtain ⟨nodup, length, count⟩ := h
    refine ⟨?_, ?_, dueTake_count s count⟩ <;> unfold State.dueTake <;> split <;> assumption
  | takeDue e => exact h.of_queue (List.Sublist.refl _) (List.erase_sublist.count_le _)
  | takeStance e =>
    refine h.of_queue ?_ ?_
    · rw [recomputeStopped_spec]; exact List.Sublist.refl _
    · rw [recomputeStopped_count]; exact List.erase_sublist.count_le _
  | berth b _ queue => exact h.of_queue queue le_rfl
  | completeSave readBack =>
    obtain ⟨-, berth, due, -⟩ := completeSave_beside readBack s
    exact h.of_queue (by rw [berth]) (by rw [due])
  | restart st =>
    obtain ⟨-, -, berth, due, -⟩ := restartPart_rest st s
    exact queueSound_of_empty berth due
  | link | gain | profile | settings | setup | startSave | awaitRestart => exact h

/-! ### STOPPED and the stances -/

/-- Some station that is PRESENT has STOP as its stance, where the same holds before: presence and stances stand. -/
theorem State.stoppedAgrees.of_same {s t : State} (h : s.stoppedAgrees)
    (due : ∀ st before after, DueEvent.stance st before after ∈ s.due → DueEvent.stance st before after ∈ t.due)
    (stopped : t.berth.stopped = s.berth.stopped) (present : ∀ x, t.present x = s.present x)
    (stance : ∀ x, (t.link x).stance = (s.link x).stance) : t.stoppedAgrees := by
  intro quiet
  rw [stopped, h fun st before after he => quiet st before after (due st before after he)]
  simp only [present, stance]

/-- Where no station has a stance but IDLE and the berth is not STOPPED, the two agree. -/
theorem stoppedAgrees_of_idle {s : State} (stopped : s.berth.stopped = false) (idle : ∀ x, (s.link x).stance = .idle) :
    s.stoppedAgrees := by
  intro _
  simp [stopped, idle]

/-- STOPPED is what the stances say once it has been recomputed (R134). -/
theorem recomputeStopped_stoppedAgrees (s : State) : s.recomputeStopped.stoppedAgrees := by
  intro _
  rw [recomputeStopped_spec]
  exact stopWanted_iff s

/-- A change of one station's items by which it neither begins nor ceases to want the berth STOPPED. -/
theorem onLink_stoppedAgrees {s : State} (h : s.stoppedAgrees) (st : Station) (f : Link → Link)
    (wants : ((f (s.link st)).presence = .present ∧ (f (s.link st)).stance = .stop)
      ↔ ((s.link st).presence = .present ∧ (s.link st).stance = .stop)) : (s.onLink st f).stoppedAgrees := by
  intro quiet
  refine (h quiet).trans (exists_congr fun x => ?_)
  simp only [State.present, beq_iff_eq, State.link_onLink]
  split
  next same => rw [same]; exact wants.symm
  next => exact Iff.rfl

/-- A stance change that waits to be taken makes no claim of STOPPED. -/
theorem stoppedAgrees_of_waiting {s : State} {st : Station} {before after : Stance}
    (h : DueEvent.stance st before after ∈ s.due) : s.stoppedAgrees :=
  fun quiet => absurd h (quiet st before after)

theorem PartMove.stoppedAgrees {s t : State} (m : PartMove s t) (h : s.stoppedAgrees) : t.stoppedAgrees := by
  cases m with
  | lines worked =>
    obtain ⟨es, due, -⟩ := worked.due
    refine h.of_same (fun _ _ _ he => due ▸ List.mem_append_left es he) (by rw [worked.beside.berth])
      worked.beside.present fun x => ?_
    rw [worked.beside.links x]
  | link st f _ carries =>
    exact onLink_stoppedAgrees h st f (by rw [carries.presence, carries.stance])
  | gain st _ absent => exact onLink_stoppedAgrees h st _ (by simp [Link.gained, absent])
  | lose st =>
    by_cases idle : (s.link st).stance = .idle
    · have lost := onLink_stoppedAgrees h st Link.lost (by simp [Link.lost, idle])
      unfold State.linkLost
      simp only [if_pos idle]
      exact lost.of_same (fun _ _ _ => id) rfl (fun _ => rfl) fun _ => rfl
    · refine stoppedAgrees_of_waiting (st := st) (before := (s.link st).stance) (after := .idle) ?_
      unfold State.linkLost
      simp only [if_neg idle]
      exact List.mem_append_right _ (List.mem_singleton.2 rfl)
  | stance st before after =>
    exact stoppedAgrees_of_waiting (List.mem_append_right _ (List.mem_singleton.2 rfl))
  | append ns =>
    rw [appendQueue_spec]
    refine h.of_same (fun _ _ _ he => ?_) rfl (fun _ => rfl) fun _ => rfl
    dsimp only
    split
    exacts [List.mem_append_left _ he, he]
  | dueTake =>
    unfold State.dueTake
    split
    · exact h
    · exact h.of_same (fun _ _ _ he => List.mem_append_left _ he) rfl (fun _ => rfl) fun _ => rfl
  | takeDue e _ other =>
    exact h.of_same (fun st before after he => (List.mem_erase_of_ne (other st before after).symm).2 he) rfl
      (fun _ => rfl) fun _ => rfl
  | takeStance e => exact recomputeStopped_stoppedAgrees _
  | berth b _ _ stopped => exact h.of_same (fun _ _ _ => id) stopped (fun _ => rfl) fun _ => rfl
  | completeSave readBack =>
    obtain ⟨links, berth, due, -⟩ := completeSave_beside readBack s
    refine h.of_same (fun _ _ _ he => due ▸ he) (by rw [berth]) (fun x => ?_) fun x => ?_ <;>
      simp only [State.present, State.link, links]
  | restart st =>
    obtain ⟨-, -, berth, -⟩ := restartPart_rest st s
    refine stoppedAgrees_of_idle (by rw [berth]; rfl) fun x => ?_
    obtain ⟨slot, link⟩ := restartPart_link st s x
    rw [link]
    rfl
  | profile | settings | setup | startSave | awaitRestart =>
    exact h.of_same (fun _ _ _ => id) rfl (fun _ => rfl) fun _ => rfl

/-! ### Replies in transfer -/

theorem State.repliesHeld_iff (s : State) : s.repliesHeld ↔ ∀ st, (s.link st).holdsReply := Iff.rfl

/-- A station with nothing in transfer holds no reply in transfer. -/
theorem Link.holdsReply_of_none {k : Link} (h : k.outgoing = none) : k.holdsReply :=
  fun o ho => absurd (h.symm.trans ho) (by simp)

theorem onLink_repliesHeld {s : State} (h : s.repliesHeld) (st : Station) (f : Link → Link)
    (hf : (f (s.link st)).holdsReply) : (s.onLink st f).repliesHeld := by
  rw [State.repliesHeld_iff] at h ⊢
  intro x
  rw [State.link_onLink]
  split
  next same => rw [same]; exact hf
  next => exact h x

theorem State.repliesHeld.of_links {s t : State} (h : s.repliesHeld) (links : t.links = s.links) : t.repliesHeld := by
  intro st o
  simp only [State.link, links]
  exact h st o

theorem PartMove.repliesHeld {s t : State} (m : PartMove s t) (h : s.repliesHeld) : t.repliesHeld := by
  cases m with
  | lines worked =>
    intro st o
    rw [worked.beside.links st]
    exact h st o
  | link st f _ carries => exact onLink_repliesHeld h st f (carries.holdsReply (h st))
  | gain st => exact onLink_repliesHeld h st _ (Link.holdsReply_of_none rfl)
  | lose st =>
    have lost := onLink_repliesHeld h st Link.lost (Link.holdsReply_of_none rfl)
    refine lost.of_links ?_
    unfold State.linkLost
    dsimp only
    split <;> rfl
  | stance st before after => exact (onLink_repliesHeld h st (fun k => { k with stance := after }) (h st)).of_links rfl
  | append ns => exact h.of_links (by rw [appendQueue_spec])
  | dueTake => exact h.of_links (by unfold State.dueTake; split <;> rfl)
  | takeStance e => exact h.of_links (by rw [recomputeStopped_spec]; rfl)
  | completeSave readBack => exact h.of_links (completeSave_beside readBack s).1
  | restart st =>
    intro x
    obtain ⟨slot, link⟩ := restartPart_link st s x
    rw [link]
    exact Link.holdsReply_of_none rfl
  | takeDue | berth | profile | settings | setup | startSave | awaitRestart => exact h.of_links rfl

/-! ### Power-on, the reset input and a loss of power -/

/-- The links, the berth and the events handed over as after power-on (R146, R160). -/
def State.berthReset (s : State) : Prop :=
  s.berth = berthAtReset ∧ s.due = [] ∧ s.links = Vector.replicate 4 linkAtPowerOn

theorem link_of_reset {s : State} (h : s.links = Vector.replicate 4 linkAtPowerOn) (x : Station) :
    s.link x = linkAtPowerOn := by
  simp [State.link, h]

theorem State.berthReset.sound {s : State} (h : s.berthReset) : s.queueSound ∧ s.stoppedAgrees ∧ s.repliesHeld := by
  obtain ⟨berth, due, links⟩ := h
  refine ⟨queueSound_of_empty berth due, stoppedAgrees_of_idle (by rw [berth]; rfl) fun x => ?_, fun x => ?_⟩
  · rw [link_of_reset links]; rfl
  · rw [link_of_reset links]; exact Link.holdsReply_of_none rfl

theorem powerOn_berthReset (s : State) : s.powerOn.berthReset := ⟨rfl, rfl, rfl⟩

/-- What the three invariants read. -/
def State.sameBerth (s t : State) : Prop := t.berth = s.berth ∧ t.due = s.due ∧ t.links = s.links

theorem abandonSave_sameBerth (s : State) : s.sameBerth s.abandonSave := by
  unfold State.abandonSave
  split <;> exact ⟨rfl, rfl, rfl⟩

theorem assertReset_berth (s : State) : s.assertReset.berthReset ∨ s.sameBerth s.assertReset := by
  unfold State.assertReset
  split
  · exact .inl ⟨rfl, rfl, rfl⟩
  · exact .inr ⟨rfl, rfl, rfl⟩

theorem releaseReset_sameBerth (s : State) : s.sameBerth s.releaseReset := by
  unfold State.releaseReset
  split
  · split <;> exact ⟨rfl, rfl, rfl⟩
  · exact ⟨rfl, rfl, rfl⟩

/-- What reads the berth, the events handed over and the links alone, and holds after power-on, is kept by every step that
the moves of the running part keep it by. -/
theorem step_keeps_berth {P : State → Prop} (same : ∀ s t, s.sameBerth t → P s → P t)
    (reset : ∀ s : State, s.berthReset → P s) (move : ∀ s t, PartMove s t → P s → P t) {s t : State}
    (h : step s = .next t) (hs : P s) : P t := by
  refine step_keeps (P := P) (fun s rest hs => same s _ ⟨rfl, rfl, rfl⟩ hs)
    (fun s t m running hs => ⟨move s t m hs, m.running running⟩) (fun s _ => reset _ (powerOn_berthReset s))
    (fun s hs => ?_) (fun s hs => same s _ (releaseReset_sameBerth s) hs)
    (fun s hs => same s _ (abandonSave_sameBerth s) hs) h hs
  obtain cleared | stands := assertReset_berth s
  · exact reset _ cleared
  · exact same s _ stands hs

theorem State.sameBerth.queueSound {s t : State} (h : s.sameBerth t) (hs : s.queueSound) : t.queueSound := by
  obtain ⟨berth, due, -⟩ := h
  exact hs.of_queue (by rw [berth]) (by rw [due])

theorem State.sameBerth.stoppedAgrees {s t : State} (h : s.sameBerth t) (hs : s.stoppedAgrees) : t.stoppedAgrees := by
  obtain ⟨berth, due, links⟩ := h
  refine hs.of_same (fun _ _ _ he => due ▸ he) (by rw [berth]) (fun x => ?_) fun x => ?_ <;>
    simp only [State.present, State.link, links]

theorem State.sameBerth.repliesHeld {s t : State} (h : s.sameBerth t) (hs : s.repliesHeld) : t.repliesHeld :=
  hs.of_links h.2.2

end Sys2Proof.Machine

namespace Sys2Proof

open Machine

/-- Settles O58: each of the three invariants is kept by every move of the part (`PartMove.queueSound`,
`PartMove.stoppedAgrees`, `PartMove.repliesHeld`), holds after power-on, and reads nothing that the supply and the reset
input change beside (`step_keeps_berth`). -/
theorem berthActionStaysSound : Obligations.BerthActionStaysSound := by
  unfold Obligations.BerthActionStaysSound
  intro s t h
  exact ⟨step_keeps_berth (fun _ _ => State.sameBerth.queueSound) (fun _ r => r.sound.1) (fun _ _ => PartMove.queueSound) h,
    step_keeps_berth (fun _ _ => State.sameBerth.stoppedAgrees) (fun _ r => r.sound.2.1)
      (fun _ _ => PartMove.stoppedAgrees) h,
    step_keeps_berth (fun _ _ => State.sameBerth.repliesHeld) (fun _ r => r.sound.2.2)
      (fun _ _ => PartMove.repliesHeld) h⟩

end Sys2Proof

/-! PROOFS. Every step keeps profiles, setups and settings in their ranges, and a save in progress apart from resets and
pending restarts (R100, R101, R103, R106, R108, R109, R111, R169): settles O59. -/

namespace Sys2Proof.Machine

/-! ### The figures of the Group Table -/

/-- The profiles, setups and settings of a Group Table lie in their ranges. -/
def GroupTable.valid (t : GroupTable) : Prop :=
  (∀ g : GroupNo, profileTaken t.profiles[g] = true) ∧ (∀ n : LineNo, LineSetup.inRange t.setups[n])
    ∧ t.settings.stagger ≤ 200

/-- The profiles of a line are ones that WRITE PROFILE takes. -/
def Line.profilesValid (l : Line) : Prop :=
  profileTaken l.applied = true ∧ ∀ p, l.joined = some p → profileTaken p = true

theorem State.figuresValid_iff (s : State) : s.figuresValid ↔ s.table.valid ∧ ∀ n, (s.line n).profilesValid := by
  unfold State.figuresValid GroupTable.valid Line.profilesValid
  constructor
  · rintro ⟨profiles, applied, joined, setups, stagger⟩
    exact ⟨⟨profiles, setups, stagger⟩, fun n => ⟨applied n, joined n⟩⟩
  · rintro ⟨⟨profiles, setups, stagger⟩, lines⟩
    exact ⟨profiles, fun n => (lines n).1, fun n => (lines n).2, setups, stagger⟩

theorem defaultProfile_taken : profileTaken defaultProfile = true := by decide

theorem defaultSetups_inRange (n : LineNo) : LineSetup.inRange defaultSetups[n] := by
  unfold LineSetup.inRange
  revert n
  decide

/-- Profiles and settings at their defaults are valid, beside setups that are (R100, R106, R111). -/
theorem GroupTable.valid.defaults {t : GroupTable} (h : t.valid) : t.defaults.valid := by
  obtain ⟨-, setups, -⟩ := h
  refine ⟨fun g => ?_, setups, by norm_num [GroupTable.defaults, defaultSettings]⟩
  simp [GroupTable.defaults, defaultProfiles, defaultProfile_taken]

/-- The setups of an image that passes the load are in range (R110). -/
theorem setupsOfImage_inRange {img : StoreImage} {us : Vector LineSetup 8} (h : setupsOfImage img = some us)
    (n : LineNo) : LineSetup.inRange us[n] := by
  unfold setupsOfImage at h
  split at h
  next a b c d e f g i ha hb hc hd he hf hg hi =>
    obtain rfl := Option.some.inj h
    match n with
    | 0 => exact setupOfFields_inRange ha
    | 1 => exact setupOfFields_inRange hb
    | 2 => exact setupOfFields_inRange hc
    | 3 => exact setupOfFields_inRange hd
    | 4 => exact setupOfFields_inRange he
    | 5 => exact setupOfFields_inRange hf
    | 6 => exact setupOfFields_inRange hg
    | 7 => exact setupOfFields_inRange hi
  next => cases h

theorem GroupTable.valid.load {t : GroupTable} (h : t.valid) : t.load.valid := by
  obtain ⟨profiles, -, stagger⟩ := h
  cases checked : checkedSetups t.store with
  | some us =>
    rw [GroupTable.load_some checked]
    exact ⟨profiles, setupsOfImage_inRange ((checkedSetups_eq_some _ _).1 checked).2, stagger⟩
  | none =>
    rw [GroupTable.load_none checked]
    exact ⟨profiles, defaultSetups_inRange, stagger⟩

/-- A profile that was known before is a valid one. -/
theorem State.figuresValid.known {s : State} (h : s.figuresValid) {n : LineNo} {p : Profile} (hp : s.knows n p) :
    profileTaken p = true := by
  rw [State.figuresValid_iff] at h
  obtain ⟨⟨profiles, -⟩, lines⟩ := h
  obtain rfl | joined | ⟨g, rfl⟩ := hp
  · exact (lines n).1
  · exact (lines n).2 p joined
  · exact profiles g

theorem LinesWorked.figuresValid {s t : State} (worked : LinesWorked s t) (h : s.figuresValid) : t.figuresValid := by
  have known {n : LineNo} {p : Profile} : s.knows n p → profileTaken p = true := h.known
  rw [State.figuresValid_iff] at h ⊢
  obtain ⟨table, -⟩ := h
  exact ⟨by rw [worked.beside.table]; exact table, fun n =>
    ⟨known (worked.profiles n).1, fun p hp => known ((worked.profiles n).2 p hp)⟩⟩

/-- The lines stand, and the new table is valid where the old one is. -/
theorem State.figuresValid.of_lines {s t : State} (h : s.figuresValid) (lines : t.lines = s.lines)
    (table : s.table.valid → t.table.valid) : t.figuresValid := by
  rw [State.figuresValid_iff] at h ⊢
  refine ⟨table h.1, fun n => ?_⟩
  rw [State.line, lines]
  exact h.2 n

/-- Every line works by the default profile, as after a reset (R111). -/
theorem figuresValid_of_reset {s : State} (table : s.table.valid)
    (lines : ∀ n, (s.line n).profiles = (defaultProfile, none)) : s.figuresValid := by
  rw [State.figuresValid_iff]
  refine ⟨table, fun n => ?_⟩
  obtain ⟨applied, joined⟩ := Prod.mk.inj (lines n)
  exact ⟨applied ▸ defaultProfile_taken, fun p hp => absurd (joined.symm.trans hp) (by simp)⟩

theorem restartLines_profiles (ns : List LineNo) (s : State) (n : LineNo)
    (h : n ∈ ns ∨ (s.line n).profiles = (defaultProfile, none)) :
    ((ns.foldl (fun s n => s.restartLine n) s).line n).profiles = (defaultProfile, none) := by
  induction ns generalizing s with
  | nil => exact h.resolve_left List.not_mem_nil
  | cons m ns ih =>
    refine ih (s.restartLine m) ?_
    rw [State.restartLine, State.line_putLine]
    split
    next => exact .inr rfl
    next other => exact h.imp_left fun hm => (List.mem_cons.1 hm).resolve_left other

theorem restartPart_profiles (st : Station) (s : State) (n : LineNo) :
    ((s.restartPart st).line n).profiles = (defaultProfile, none) := by
  unfold State.restartPart
  extract_lets _ s1 s2 s3 s4
  obtain ⟨links, composed, -⟩ := composeSlots_spec (slotsUpTo st) s4
  have linked (xs : List Station) (u : State) :
      (xs.foldl (fun s x => s.onLink x Link.atRestart) u).line n = u.line n := by
    induction xs generalizing u with
    | nil => rfl
    | cons a xs ih => exact ih _
  rw [composed]
  change (s3.line n).profiles = _
  rw [show s3.line n = s2.line n from linked _ _]
  exact restartLines_profiles allLines s1 n (.inl (mem_allLines n))

theorem completeSave_figures (readBack : Option StoreImage) (s : State) :
    (s.completeSave readBack).table.profiles = s.table.profiles ∧ (s.completeSave readBack).table.setups = s.table.setups
      ∧ (s.completeSave readBack).table.settings = s.table.settings := by
  unfold State.completeSave
  split <;> exact ⟨rfl, rfl, rfl⟩

/-- A table with the figures of another is valid with it. -/
theorem GroupTable.valid.of_same {t u : GroupTable} (h : t.valid) (profiles : u.profiles = t.profiles)
    (setups : u.setups = t.setups) (settings : u.settings = t.settings) : u.valid := by
  unfold GroupTable.valid
  rw [profiles, setups, settings]
  exact h

theorem PartMove.figuresValid {s t : State} (m : PartMove s t) (h : s.figuresValid) : t.figuresValid := by
  cases m with
  | lines worked => exact worked.figuresValid h
  | profile g p _ valid =>
    refine h.of_lines rfl fun ⟨profiles, rest⟩ => ⟨fun x => ?_, rest⟩
    simp only [State.withTable, Fin.getElem_fin, Vector.getElem_set]
    split
    exacts [valid, profiles x]
  | settings b _ inRange => exact h.of_lines rfl fun ⟨profiles, setups, _⟩ => ⟨profiles, setups, inRange⟩
  | setup n u _ inRange =>
    refine h.of_lines rfl fun ⟨profiles, setups, stagger⟩ => ⟨profiles, fun x => ?_, stagger⟩
    simp only [State.withTable, GroupTable.setSetup, Fin.getElem_fin, Vector.getElem_set]
    split
    exacts [inRange, setups x]
  | completeSave readBack =>
    obtain ⟨-, -, -, lines⟩ := completeSave_beside readBack s
    obtain ⟨profiles, setups, settings⟩ := completeSave_figures readBack s
    exact h.of_lines lines fun table => table.of_same profiles setups settings
  | restart st =>
    have table := ((s.figuresValid_iff).1 h).1
    refine figuresValid_of_reset ?_ (restartPart_profiles st s)
    rw [(restartPart_rest st s).1]
    exact GroupTable.valid.load (table.defaults.of_same rfl rfl rfl)
  | append ns =>
    rw [appendQueue_spec]
    exact h.of_lines rfl id
  | dueTake =>
    unfold State.dueTake
    split
    exacts [h, h.of_lines rfl id]
  | takeStance e =>
    rw [recomputeStopped_spec]
    exact h.of_lines rfl id
  | lose st =>
    unfold State.linkLost
    dsimp only
    split <;> exact h.of_lines rfl id
  | link | gain | stance | takeDue | berth | startSave | awaitRestart => exact h.of_lines rfl id

/-! ### The save -/

theorem State.saveSound.of_same {s t : State} (h : s.saveSound) (store : t.table.storeState = s.table.storeState)
    (copy : t.table.saveCopy = s.table.saveCopy) (running : t.running = s.running)
    (restart : s.pendingRestart = [] → t.pendingRestart = []) : t.saveSound := by
  unfold State.saveSound
  rw [store, copy, running]
  exact ⟨h.1, fun saving => ⟨(h.2 saving).1, restart (h.2 saving).2⟩⟩

/-- No save is in progress. -/
theorem saveSound_of_none {s : State} (store : s.table.storeState ≠ .saving) (copy : s.table.saveCopy = none) :
    s.saveSound :=
  ⟨⟨fun h => absurd h store, fun h => by simp [copy] at h⟩, fun h => absurd h store⟩

/-- Without a save the load leaves none (R110). -/
theorem GroupTable.load_storeState (t : GroupTable) : t.load.storeState ≠ .saving := by
  cases checked : checkedSetups t.store with
  | some us => rw [GroupTable.load_some checked]; exact nofun
  | none => rw [GroupTable.load_none checked]; exact nofun

theorem PartMove.saveSound {s t : State} (m : PartMove s t) (running : s.running = true) (h : s.saveSound) :
    t.saveSound := by
  have runs := m.running running
  cases m with
  | lines worked =>
    exact h.of_same (by rw [worked.beside.table]) (by rw [worked.beside.table]) worked.running
      (by rw [worked.beside.pendingRestart]; exact id)
  | lose st =>
    have left (none : s.pendingRestart = []) : (s.linkLost st).pendingRestart = [] := by
      unfold State.linkLost
      dsimp only
      split <;> simp [State.handOver, none]
    have table : (s.linkLost st).table = s.table := by
      unfold State.linkLost
      dsimp only
      split <;> rfl
    exact h.of_same (by rw [table]) (by rw [table]) (runs.trans running.symm) left
  | append ns =>
    rw [appendQueue_spec]
    exact h.of_same rfl rfl rfl id
  | dueTake =>
    unfold State.dueTake
    split
    exacts [h, h.of_same rfl rfl rfl id]
  | takeStance e =>
    rw [recomputeStopped_spec]
    exact h.of_same rfl rfl rfl id
  | setup n u =>
    obtain ⟨copy, free⟩ := h
    have saving : (s.table.setSetup n u).storeState = .saving ↔ s.table.storeState = .saving := by
      unfold GroupTable.setSetup
      dsimp only
      split
      next current => simp [current]
      next => exact Iff.rfl
    exact ⟨saving.trans copy, fun now => free (saving.1 now)⟩
  | startSave _ idle => exact ⟨⟨fun _ => rfl, fun _ => rfl⟩, fun _ => ⟨running, idle⟩⟩
  | completeSave readBack =>
    unfold State.completeSave
    split
    · exact h
    · refine saveSound_of_none ?_ rfl
      dsimp only
      split <;> decide
  | awaitRestart sts _ idle => exact ⟨h.1, fun saving => absurd saving idle⟩
  | restart st =>
    obtain ⟨table, -⟩ := restartPart_rest st s
    exact saveSound_of_none (by rw [table]; exact GroupTable.load_storeState _) (by rw [table, GroupTable.load_saveCopy])
  | link | gain | stance | takeDue | berth | profile | settings => exact h.of_same rfl rfl rfl id

/-! ### Power-on, the reset input and a loss of power -/

theorem abandonSave_figures (s : State) :
    s.abandonSave.table.profiles = s.table.profiles ∧ s.abandonSave.table.setups = s.table.setups
      ∧ s.abandonSave.table.settings = s.table.settings ∧ s.abandonSave.lines = s.lines := by
  unfold State.abandonSave
  split <;> exact ⟨rfl, rfl, rfl, rfl⟩

/-- A save that is abandoned is none (R111, log 38). -/
theorem State.saveSound.abandonSave {s : State} (h : s.saveSound) : s.abandonSave.table.storeState ≠ .saving := by
  unfold State.abandonSave
  split
  next copy => exact fun saving => by simpa [copy] using h.1.1 saving
  next => simp

/-- A part that does not run has no save in progress. -/
theorem State.saveSound.idle {s : State} (h : s.saveSound) (stopped : s.running = false) :
    s.table.storeState ≠ .saving ∧ s.table.saveCopy = none := by
  have store : s.table.storeState ≠ .saving := fun saving => by simpa [stopped] using (h.2 saving).1
  exact ⟨store, by simpa using mt h.1.2 store⟩

/-- Both of O59's invariants. -/
def State.tableSound (s : State) : Prop := s.figuresValid ∧ s.saveSound

theorem powerOn_tableSound {s : State} (h : s.tableSound) : s.powerOn.tableSound := by
  obtain ⟨figures, save⟩ := h
  obtain ⟨profiles, setups, settings, -⟩ := abandonSave_figures s
  have table := ((s.figuresValid_iff).1 figures).1.of_same profiles setups settings
  refine ⟨figuresValid_of_reset table.defaults.load fun n => ?_, saveSound_of_none (GroupTable.load_storeState _) ?_⟩
  · simp [State.powerOn, State.load, State.powerOnValues, State.line]; rfl
  · exact (GroupTable.load_saveCopy _).trans (State.abandonSave_saveCopy s)

theorem assertReset_tableSound {s : State} (h : s.tableSound) : s.assertReset.tableSound := by
  obtain ⟨figures, save⟩ := h
  obtain ⟨profiles, setups, settings, -⟩ := abandonSave_figures s
  have table := ((s.figuresValid_iff).1 figures).1.of_same profiles setups settings
  unfold State.assertReset
  split
  · refine ⟨figuresValid_of_reset table.defaults fun n => ?_, saveSound_of_none save.abandonSave (State.abandonSave_saveCopy s)⟩
    rw [State.line, State.linesAtAssertion_get]
    rfl
  next unpowered =>
    obtain ⟨store, copy⟩ := save.idle (by simp [State.running, unpowered])
    exact ⟨figures.of_lines rfl id, saveSound_of_none store copy⟩

theorem releaseReset_tableSound {s : State} (h : s.tableSound) : s.releaseReset.tableSound := by
  obtain ⟨figures, save⟩ := h
  unfold State.releaseReset
  split
  next asserted =>
    obtain ⟨store, copy⟩ := save.idle (by simp [State.running, asserted])
    split
    · exact ⟨figures.of_lines rfl GroupTable.valid.load,
        saveSound_of_none (GroupTable.load_storeState _) ((GroupTable.load_saveCopy _).trans copy)⟩
    · exact ⟨figures.of_lines rfl id, saveSound_of_none store copy⟩
  next => exact ⟨figures, save⟩

theorem losePower_tableSound {s : State} (h : s.tableSound) : s.losePower.tableSound := by
  obtain ⟨figures, save⟩ := h
  obtain ⟨profiles, setups, settings, lines⟩ := abandonSave_figures s
  exact ⟨figures.of_lines lines fun table => table.of_same profiles setups settings,
    saveSound_of_none save.abandonSave (State.abandonSave_saveCopy s)⟩

end Sys2Proof.Machine

namespace Sys2Proof

open Machine

/-- Settles O59: every move of the part keeps the figures and the save (`PartMove.figuresValid`, `PartMove.saveSound`), and
so do the changes of the supply and of the reset input. -/
theorem tableStaysValid : Obligations.TableStaysValid := by
  unfold Obligations.TableStaysValid
  intro s t figures save h
  refine step_keeps (P := State.tableSound) (fun s rest hs => ?_) (fun s t m running hs => ?_)
    (fun _ => powerOn_tableSound) (fun _ => assertReset_tableSound) (fun _ => releaseReset_tableSound)
    (fun _ => losePower_tableSound) h ⟨figures, save⟩
  · exact ⟨hs.1.of_lines rfl id, hs.2.of_same rfl rfl rfl id⟩
  · exact ⟨⟨m.figuresValid hs.1, m.saveSound running hs.2⟩, m.running running⟩

end Sys2Proof

/-! PROOFS. What the line commands do to the lines they name (R43 to R54, R61, R82, R140, R163): settles O1, O2, O3, O4
and O5. -/

namespace Sys2Proof.Machine

/-! ### The outcome of each command for one line -/

section
variable {s u : State} {st : Station} {n : LineNo}

/-- What a command for line `n` reads of the state is as it was at the request event (R43, log 35). -/
structure SameFor (s u : State) (n : LineNo) : Prop where
  line : u.line n = s.line n
  table : u.table = s.table
  berth : u.berth = s.berth

theorem SameFor.setup (h : SameFor s u n) : u.setup n = s.setup n := setup_congr n h.table

theorem SameFor.fitted (h : SameFor s u n) : u.fitted n = s.fitted n := by rw [State.fitted, h.setup]; rfl

/-- The same checks decide, in the same order, whether the command is taken for the line. -/
theorem deployLine_eq (h : SameFor s u n) :
    deployLine (s.permitted st) n u
      = if deployOutcome s st n = .done then (u.onLine n (Line.enter .deploying { current := some .deploy }), .done)
        else (u, deployOutcome s st n) := by
  unfold deployLine deployOutcome State.doLine
  rw [h.line, h.berth, h.setup, permitted_iff]
  grind

theorem engageLine_eq (h : SameFor s u n) :
    engageLine (s.permitted st) n u
      = if engageOutcome s st n = .done then (u.onLine n (Line.enter .engaging { current := some .engage }), .done)
        else (u, engageOutcome s st n) := by
  unfold engageLine engageOutcome State.doLine
  rw [h.line, h.berth, permitted_iff]
  grind

/-- What LOCK makes of line `n`, which it locks at T of at least L and otherwise hauls (R47). -/
def State.locking (s : State) (n : LineNo) (l : Line) : Line :=
  if (s.line n).applied.lock ≤ (s.line n).tension.reported then (l.enter .locked {}).setMark
  else l.enter .hauling { current := some .lock }

theorem lockLine_eq (h : SameFor s u n) :
    lockLine (s.permitted st) n u
      = if lockOutcome s st n = .done then (u.onLine n (s.locking n), .done) else (u, lockOutcome s st n) := by
  unfold lockLine lockOutcome State.doLine
  have tending : (s.line n).control.state.tending = true
      ↔ (s.line n).control.state ∈ [LineState.locked, .rendering, .recovering] := by
    cases (s.line n).control.state <;> decide
  rw [h.line, h.berth, permitted_iff]
  by_cases tight : (s.line n).applied.lock ≤ (s.line n).tension.reported
  · have locking : s.locking n = fun l => (l.enter .locked {}).setMark := by funext l; exact if_pos tight
    grind
  · have locking : s.locking n = Line.enter .hauling { current := some .lock } := by funext l; exact if_neg tight
    grind

/-- The state that HOLD takes line `n` to (R50). -/
def State.holding (s : State) (n : LineNo) (l : Line) : Line :=
  if (s.line n).control.state = .deploying ∨ (s.line n).control.state = .rewinding then l.enter .opened {}
  else l.enter .held {}

theorem holdLine_eq (h : SameFor s u n) :
    holdLine (s.permitted st) n u
      = if holdOutcome s st n = .done then (u.onLine n (s.holding n), .done) else (u, holdOutcome s st n) := by
  unfold holdLine holdOutcome State.doLine
  have holding : s.holding n = if (s.line n).control.state = .deploying ∨ (s.line n).control.state = .rewinding
      then Line.enter .opened {} else Line.enter .held {} := by funext l; unfold State.holding; split <;> rfl
  rw [h.line, permitted_iff, holding]
  by_cases hold : s.holder (s.setup n).group = some st
  · generalize (s.line n).control.state = x
    cases x <;> simp [hold]
  · simp [hold]

theorem markLine_eq (h : SameFor s u n) :
    Machine.markLine (s.permitted st) n u
      = if markOutcome s st n = .done then (u.onLine n Line.setMark, .done) else (u, markOutcome s st n) := by
  unfold Machine.markLine markOutcome State.doLine
  rw [h.line, permitted_iff]
  by_cases hold : s.holder (s.setup n).group = some st
  · generalize (s.line n).control.state = x
    cases x <;> simp [hold]
  · simp [hold]

theorem releaseLine_eq (rewinds : Bool) (h : SameFor s u n) :
    releaseLine rewinds (s.permitted st) n u
      = if releaseOutcome s st n = .done then
          (u.onLine n (Line.enter .slacking { current := some .release, slackStart := some (s.line n).sense.payout
                                              thenRewind := rewinds }), .done)
        else (u, releaseOutcome s st n) := by
  unfold releaseLine releaseOutcome State.doLine
  rw [h.line, h.berth, permitted_iff]
  dsimp only
  by_cases hold : s.holder (s.setup n).group = some st
  · generalize (s.line n).control.state = x
    cases s.berth.stopped <;> cases s.berth.releaseAll <;> cases x <;> simp [hold]
  · simp [hold]

theorem rewindLine_eq (h : SameFor s u n) :
    rewindLine (s.permitted st) n u
      = if rewindOutcome s st n = .done then (u.onLine n (Line.goRewind { current := some .rewind }), .done)
        else (u, rewindOutcome s st n) := by
  unfold rewindLine rewindOutcome State.doLine
  rw [h.line, h.berth, permitted_iff]
  grind

theorem resetLineOne_eq (h : SameFor s u n) :
    resetLineOne (s.permitted st) n u
      = if resetLineOutcome s st n = .done then (u.onLine n (Line.derive (s.fitted n)), .done)
        else (u, resetLineOutcome s st n) := by
  unfold resetLineOne resetLineOutcome State.doLine
  rw [h.line, h.fitted, permitted_iff]
  grind

end

/-! ### The result of each command -/

/-- A line command that is taken: its effect on each line of outcome DONE is `after` (R163). -/
theorem exec_lineCommand {s : State} {st : Station} {kind mask : Byte} {ok : Bool}
    {f : (LineNo → Bool) → LineNo → State → State × ReplyCode} {out : LineNo → ReplyCode} {g : LineNo → Line → Line}
    {after : LineNo → Line} (accepted : s.accepts st = true) (hok : ok = true) (clear : (s.link st).restartInd = false)
    (each : ∀ n u, SameFor s u n → f (s.permitted st) n u = if out n = .done then (u.onLine n (g n), .done) else (u, out n))
    (effect : ∀ n, g n (s.line n) = after n) :
    ∃ t, whileRunning (State.requestEvent st ok (State.lineCommand st kind mask f)) s = .next t
      ∧ LineCommandResult kind st mask s t out after := by
  refine ⟨_, request_taken accepted hok, ?_⟩
  have result := lineCommand_result (kind := kind) (mask := mask)
    (fun n u line table berth => each n u ⟨line, table, berth⟩) clear
  rwa [funext effect] at result

/-- A line comes to rest, the demands idle (R38). -/
theorem enter_eq_idleIn (a : Line) {x : LineState} (still : x.drivePowered = false) (apply : brakeDemand x = .apply)
    (untimed : x.timed = false) : a.enter x {} = a.idleIn x := by
  refine enter_eq_placed a x {} (driveDemand_eq_zero _ still) apply ?_ (by simp [untimed])
  cases x with
  | engaging | opening => cases untimed
  | _ => rfl

theorem setMark_eq_remarked (a : Line) : a.setMark = a.remarked := rfl

theorem stow_eq_zeroed (a : Line) : (a.enter .stowed {}).reference = (a.idleIn .stowed).zeroed := by
  rw [enter_eq_idleIn a rfl rfl rfl]
  rfl

end Sys2Proof.Machine

namespace Sys2Proof

open Machine

/-- Settles O1: each command is taken line by line by its own checks (`deployLine_eq`, `releaseLine_eq`, `rewindLine_eq`). -/
theorem deployReleaseRewindResult : Obligations.DeployReleaseRewindResult := by
  unfold Obligations.DeployReleaseRewindResult
  intro st mask option s accepted clear
  refine ⟨?deploy, fun hoption => ?release, ?rewind⟩
  case deploy =>
    exact exec_lineCommand accepted rfl clear (fun n u h => deployLine_eq h) fun n =>
      enter_eq_placed _ _ _ rfl rfl rfl rfl
  case release =>
    exact exec_lineCommand accepted hoption clear (fun n u h => releaseLine_eq _ h) fun n =>
      enter_eq_placed _ _ _ rfl rfl rfl rfl
  case rewind =>
    refine exec_lineCommand accepted rfl clear (fun n u h => rewindLine_eq h) fun n => ?_
    unfold Line.goRewind
    rw [stow_eq_zeroed, enter_eq_placed _ _ _ rfl rfl rfl rfl]
    rfl

/-- Settles O2: `engageLine_eq` and `lockLine_eq`. -/
theorem engageLockResult : Obligations.EngageLockResult := by
  unfold Obligations.EngageLockResult
  intro st mask s accepted clear
  refine ⟨?engage, ?lock⟩
  case engage =>
    exact exec_lineCommand accepted rfl clear (fun n u h => engageLine_eq h) fun n =>
      enter_eq_placed _ _ _ rfl rfl rfl rfl
  case lock =>
    refine exec_lineCommand accepted rfl clear (fun n u h => lockLine_eq h) fun n => ?_
    unfold State.locking
    rw [enter_eq_idleIn _ rfl rfl rfl, setMark_eq_remarked, enter_eq_placed _ _ _ rfl rfl rfl rfl]
    rfl

/-- Settles O3: `holdLine_eq`, `markLine_eq` and `resetLineOne_eq`. -/
theorem holdMarkResetResult : Obligations.HoldMarkResetResult := by
  unfold Obligations.HoldMarkResetResult
  intro st mask s accepted clear
  refine ⟨?hold, ?mark, ?reset⟩
  case hold =>
    refine exec_lineCommand accepted rfl clear (fun n u h => holdLine_eq h) fun n => ?_
    unfold State.holding
    rw [enter_eq_idleIn _ rfl rfl rfl, enter_eq_idleIn _ rfl rfl rfl]
  case mark =>
    exact exec_lineCommand accepted rfl clear (fun n u h => markLine_eq h) fun n => setMark_eq_remarked _
  case reset =>
    exact exec_lineCommand accepted rfl clear (fun n u h => resetLineOne_eq h) fun n => derive_eq_derivedAs _ _

end Sys2Proof

/-! ### QUICK RELEASE and the restart indicator -/

namespace Sys2Proof.Machine

/-- A QUICK RELEASE of one line reads the queue for that line alone (R140). -/
theorem quickReleaseLine_eq {s u : State} {st : Station} {n : LineNo} (line : u.line n = s.line n)
    (queued : n ∈ u.berth.queue ↔ n ∈ s.berth.queue) :
    quickReleaseLine st (s.permitted st) n u
      = if quickReleaseOutcome s st n = .done then (u.appendQueue [n], .done) else (u, quickReleaseOutcome s st n) := by
  unfold quickReleaseLine quickReleaseOutcome
  have closed := hookClosed_iff (s.line n)
  have unopening : (s.line n).hookClosed = true → (s.line n).control.state ≠ .opening := by
    rw [closed]
    intro h x
    simp [x] at h
  have contained : u.berth.queue.contains n = decide (n ∈ s.berth.queue) := by
    rw [Bool.eq_iff_iff, List.contains_iff_mem, decide_eq_true_iff, queued]
  rw [line, permitted_iff]
  simp only [← closed, contained]
  by_cases refused : s.holder (s.setup n).group ≠ some st ∧ st ≠ .panel
  · simp [refused]
  · have permitted : (decide (s.holder (s.setup n).group = some st) || st == .panel) = true := by
      simpa [or_iff_not_imp_left] using refused
    by_cases hooked : (s.line n).hookClosed = true
    · by_cases waits : n ∈ s.berth.queue <;> simp [refused, permitted, hooked, unopening hooked, waits]
    · by_cases opening : (s.line n).control.state = .opening <;> simp [refused, permitted, hooked, opening]

/-- A line that is queued already does not join (R140). -/
theorem quickReleaseOutcome_queued {s : State} {st : Station} {n : LineNo} (h : n ∈ s.berth.queue) :
    quickReleaseOutcome s st n ≠ .done := by
  intro passes
  unfold quickReleaseOutcome at passes
  dsimp only at passes
  split_ifs at passes

/-- Lines that join one after another join as one append (R137, R142). -/
theorem appendQueue_append {s : State} {js : List LineNo} {n : LineNo} (nodup : (js ++ [n]).Nodup)
    (fresh : ∀ m ∈ js ++ [n], m ∉ s.berth.queue) : (s.appendQueue js).appendQueue [n] = s.appendQueue (js ++ [n]) := by
  have first : newEntries s.berth.queue js = js :=
    newEntries_eq_self (nodup.sublist (List.sublist_append_left ..)) fun m hm => fresh m (List.mem_append_left _ hm)
  have then' : newEntries (s.berth.queue ++ js) [n] = [n] := by
    refine newEntries_eq_self (List.nodup_singleton n) fun m hm => ?_
    obtain rfl := List.mem_singleton.1 hm
    rw [List.mem_append, not_or]
    exact ⟨fresh m (by simp), fun hj => (List.nodup_append.1 nodup).2.2 m hj m (by simp) rfl⟩
  rw [appendQueue_spec, appendQueue_spec js s, appendQueue_spec (js ++ [n]) s, newEntries_eq_self nodup fresh]
  simp only [first, then', List.append_assoc]
  by_cases idle : s.berth.stagger = none <;> by_cases due : DueEvent.queueTake ∈ s.due <;> by_cases none : js = [] <;>
    simp [idle, due, none]

theorem appendQueue_nil (s : State) : s.appendQueue [] = s := by
  rw [appendQueue_spec]
  simp [newEntries]

/-- The lines of a QUICK RELEASE are taken as one append of those that pass (R140, R142). -/
theorem takeLines_quickRelease (s : State) (st : Station) : ∀ (ns js : List LineNo), (js ++ ns).Nodup →
    (∀ m ∈ js, m ∉ s.berth.queue) →
    takeLines (quickReleaseLine st (s.permitted st)) ns (s.appendQueue js)
      = (s.appendQueue (js ++ ns.filter fun n => quickReleaseOutcome s st n == .done), ns.map (quickReleaseOutcome s st))
  | [], js, _, _ => by simp [takeLines]
  | n :: ns, js, nodup, fresh => by
    have inPlace : n ∉ js := fun hj => (List.nodup_append.1 nodup).2.2 n hj n (by simp) rfl
    have queued : n ∈ (s.appendQueue js).berth.queue ↔ n ∈ s.berth.queue := by
      rw [appendQueue_spec]
      simp [mem_newEntries, inPlace]
    have one := quickReleaseLine_eq (st := st) (appendQueue_line js n s) queued
    unfold takeLines
    rw [one]
    by_cases passes : quickReleaseOutcome s st n = .done
    · have notQueued : n ∉ s.berth.queue := fun hq => by
        unfold quickReleaseOutcome at passes
        dsimp only at passes
        split_ifs at passes
      have nodup' : ((js ++ [n]) ++ ns).Nodup := by simpa using nodup
      have fresh' : ∀ m ∈ js ++ [n], m ∉ s.berth.queue := by
        intro m hm
        obtain hj | rfl := by simpa using hm
        exacts [fresh m hj, notQueued]
      rw [if_pos passes]
      dsimp only
      rw [appendQueue_append (nodup'.sublist (List.sublist_append_left ..)) fresh',
        takeLines_quickRelease s st ns (js ++ [n]) nodup' fresh']
      simp [passes]
    · rw [if_neg passes]
      dsimp only
      rw [takeLines_quickRelease s st ns js (nodup.sublist (by simp)) fresh]
      simp [passes]

/-- The lines that a QUICK RELEASE adds to the queue (R140). -/
def State.quickReleasing (s : State) (st : Station) (mask : Byte) : List LineNo :=
  (maskLines mask).filter fun n => quickReleaseOutcome s st n == .done

theorem newEntries_quickReleasing (s : State) (st : Station) (mask : Byte) :
    newEntries s.berth.queue (s.quickReleasing st mask) = s.quickReleasing st mask := by
  refine newEntries_eq_self ((maskLines_nodup mask).filter _) fun n hn hq => ?_
  have passes : quickReleaseOutcome s st n = .done := by simpa using (List.mem_filter.1 hn).2
  exact quickReleaseOutcome_queued hq passes

/-- What a QUICK RELEASE makes of the state, before its reply (R140, R123). -/
def State.quickReleased (s : State) (st : Station) (mask : Byte) : State :=
  (s.appendQueue (s.quickReleasing st mask)).recordWatched st
    (takenLines (maskLines mask) ((maskLines mask).map (quickReleaseOutcome s st)))

theorem quickReleased_authorityOnly (s : State) (st : Station) (mask : Byte) :
    AuthorityOnly (s.appendQueue (s.quickReleasing st mask)) (s.quickReleased st mask) :=
  recordWatched_authorityOnly st _ _

theorem appendQueue_link (ns : List LineNo) (s : State) (x : Station) : (s.appendQueue ns).link x = s.link x := by
  rw [appendQueue_spec]
  rfl

theorem appendQueue_sameCore (ns : List LineNo) (s : State) : s.sameCore (s.appendQueue ns) := by
  rw [appendQueue_spec]
  exact ⟨rfl, rfl, rfl, rfl, rfl, rfl⟩

theorem lineCommand_quickRelease {s : State} {st : Station} (mask : Byte) (clear : (s.link st).restartInd = false) :
    s.lineCommand st 0x27#8 mask (quickReleaseLine st)
      = (s.quickReleased st mask).placeReply st 0x27#8
          ([ReplyCode.done.code, mask] ++ ((maskLines mask).map (quickReleaseOutcome s st)).map ReplyCode.code) := by
  have taken := takeLines_quickRelease s st (maskLines mask) [] (by simpa using maskLines_nodup mask) (by simp)
  rw [appendQueue_nil, List.nil_append] at taken
  unfold State.lineCommand State.restartSet
  rw [clear]
  simp only [Bool.false_eq_true, if_false]
  rw [taken]
  rfl

/-- A reply placed behind work on the notice marks (R157). -/
theorem placeReply_linksButReply {s b : State} (links : ∀ x, Link.sameButMarks (s.link x) (b.link x)) (st : Station)
    (kind : Byte) (body : List Byte) : s.linksButReply (b.placeReply st kind body) st := by
  intro x
  have same := links x
  unfold Link.sameButMarks at same
  unfold State.placeReply
  simp only [State.link_onLink, if_true]
  split
  next hx => subst hx; rw [same]
  next => exact same

theorem placeReply_marks (st : Station) (kind : Byte) (body : List Byte) (s : State) (x : Station) :
    ((s.placeReply st kind body).link x).lineMarks = (s.link x).lineMarks
      ∧ ((s.placeReply st kind body).link x).groupMarks = (s.link x).groupMarks := by
  unfold State.placeReply
  rw [State.link_onLink]
  split <;> exact ⟨rfl, rfl⟩

/-- A refusal under a set restart indicator places the reply alone (R163). -/
theorem exec_restartPending {s : State} {st : Station} {kind mask : Byte} {ok : Bool}
    {f : (LineNo → Bool) → LineNo → State → State × ReplyCode} (accepted : s.accepts st = true) (hok : ok = true)
    (pending : (s.link st).restartInd = true) :
    ∃ t, whileRunning (State.requestEvent st ok (State.lineCommand st kind mask f)) s = .next t
      ∧ s.onlyReply t st
        { kind := kind
          body := 0x0D#8 :: mask :: (allLines.filter fun n => mask.getLsbD n.val).map fun _ => 0x0D#8 } := by
  refine ⟨_, request_taken accepted hok, ?_⟩
  unfold State.lineCommand State.restartSet
  rw [pending]
  rfl

end Sys2Proof.Machine

namespace Sys2Proof

open Machine

/-- Settles O4: the lines that pass join the queue as one append (`takeLines_quickRelease`), and the watched sets are the
only other work (`recordWatched_eq_self`). -/
theorem quickReleaseResult : Obligations.QuickReleaseResult := by
  unfold Obligations.QuickReleaseResult
  intro st mask s accepted clear named joined
  have releasing : joined = s.quickReleasing st mask := rfl
  clear_value joined
  subst releasing
  have passing := newEntries_quickReleasing s st mask
  have watched := quickReleased_authorityOnly s st mask
  have links (x : Station) : Link.sameButMarks (s.link x) ((s.quickReleased st mask).link x) := by
    rw [← appendQueue_link (s.quickReleasing st mask) s x]
    exact watched.links x
  have lineMarks (x : Station) : ((s.quickReleased st mask).link x).lineMarks = (s.link x).lineMarks := by
    rw [← appendQueue_link (s.quickReleasing st mask) s x]
    exact watched.lineMarks x
  have unwatched : s.noSingle = true → s.quickReleased st mask = s.appendQueue (s.quickReleasing st mask) :=
    fun unmarked => recordWatched_eq_self _ _ (noSingle_of_records (by rw [appendQueue_spec]) unmarked)
  have replied := lineCommand_quickRelease mask clear
  generalize s.quickReleased st mask = b at watched links lineMarks unwatched replied
  refine ⟨_, (request_taken accepted rfl).trans (congrArg _ replied), ?_, ?_, ?_, ?_,
    placeReply_linksButReply links st _ _, fun x => (placeReply_marks st _ _ b x).1.trans (lineMarks x),
    fun unmarked => ?_⟩
  · exact watched.lines.trans (by rw [appendQueue_spec])
  · obtain ⟨powered, resetAsserted, table, pendingRestart, freeIndex, pending⟩ :=
      appendQueue_sameCore (s.quickReleasing st mask) s
    exact ⟨watched.powered.trans powered, watched.resetAsserted.trans resetAsserted, watched.table.trans table,
      watched.pendingRestart.trans pendingRestart, watched.freeIndex.trans freeIndex, watched.pending.trans pending⟩
  · refine watched.berth.trans ?_
    rw [appendQueue_spec, passing]
  · unfold State.placeReply
    rw [State.link_onLink_self, List.map_map]
    rfl
  · obtain rfl := unwatched unmarked
    refine ⟨?_, fun x => (placeReply_marks st _ _ _ x).2.trans (by rw [appendQueue_link]), ?_⟩
    · change (s.appendQueue _).records = _
      rw [appendQueue_spec]
    · change (s.appendQueue _).due = _
      rw [appendQueue_spec, passing]

/-- Settles O5: the nine line commands share one refusal (`exec_restartPending`). -/
theorem lineCommandRestartPending : Obligations.LineCommandRestartPending := by
  unfold Obligations.LineCommandRestartPending
  intro st mask option s accepted pending hoption c hc
  simp only [List.mem_cons, List.not_mem_nil, or_false] at hc
  obtain rfl | rfl | rfl | rfl | rfl | rfl | rfl | rfl | rfl := hc
  case inr.inr.inr.inr.inr.inl => exact exec_restartPending accepted hoption pending
  all_goals exact exec_restartPending accepted rfl pending

end Sys2Proof

/-! PROOFS. The requests as commands: one that is malformed, or that finds the reply slot occupied, and the commands of
a part that does not run: settles O35, O51. -/

namespace Sys2Proof.Machine

/-- Every request runs a request event of its sender, under its own body check (R161). -/
theorem dispatchRequest_eq_requestEvent {i : Instr} {st : Station} (h : i.sender = some st) :
    ∃ take, ∀ s, dispatchRequest i s = s.requestEvent st i.bodyOk take := by
  cases i with
  | sampleEvent | countEvent | frameEvent | powerOn | resetInputAssert | resetInputRelease | deviceRestart
  | storeCompletion | staggerExpiry | hookTimerExpiry | stallExpiry | derivation | gapAbort | presenceLoss
  | stanceChange | stopOnset | holderChangeHalt | inhibitOnset | inhibitLift | queueTake | powerLoss => nomatch h
  | _ => exact Option.some.inj h ▸ ⟨_, fun _ => rfl⟩

theorem kind_ne_none_of_sender {i : Instr} {st : Station} (h : i.sender = some st) : i.kind ≠ none := by
  cases i with
  | sampleEvent | countEvent | frameEvent | powerOn | resetInputAssert | resetInputRelease | deviceRestart
  | storeCompletion | staggerExpiry | hookTimerExpiry | stallExpiry | derivation | gapAbort | presenceLoss
  | stanceChange | stopOnset | holderChangeHalt | inhibitOnset | inhibitLift | queueTake | powerLoss => nomatch h
  | _ => nofun

/-- A request that is malformed, or that comes before an occupied reply slot, is discarded (R155, R161). -/
theorem requestEvent_discarded {s : State} {st : Station} {ok : Bool} (present : s.present st = true)
    (h : ok = false ∨ (s.link st).replySlot ≠ none) (take : State → State) :
    s.requestEvent st ok take = s.latchLinkError st := by
  have discarded : ((s.link st).replySlot.isSome || !ok) = true := by
    rcases h with rfl | h
    · simp
    · simp [Option.isSome_iff_ne_none.mpr h]
  rw [State.requestEvent, present, discarded]
  rfl

/-- An event of the running part does nothing to a part that does not run (R18, log 6). -/
theorem whileRunning_stopped {s : State} (f : State → State) (h : s.running = false) : whileRunning f s = .next s := by
  rw [whileRunning, h]
  rfl

end Sys2Proof.Machine

namespace Sys2Proof

open Machine

/-- Settles O35: every request runs a request event of its sender (`dispatchRequest_eq_requestEvent`), and that discards
it (`requestEvent_discarded`). -/
theorem malformedDiscarded : Obligations.MalformedDiscarded := by
  unfold Obligations.MalformedDiscarded
  intro i st s sender running present bad
  obtain ⟨take, request⟩ := dispatchRequest_eq_requestEvent sender
  rw [exec_request i s (kind_ne_none_of_sender sender), whileRunning_running _ running, request,
    requestEvent_discarded present bad]
  rfl

/-- Settles O51: every command but the four is an event of the running part (`whileRunning_stopped`). -/
theorem nothingHappensInReset : Obligations.NothingHappensInReset := by
  unfold Obligations.NothingHappensInReset
  intro c s stopped other
  cases c with
  | powerOn | resetInputAssert | resetInputRelease | powerLoss => exact absurd (by simp) other
  | _ => exact whileRunning_stopped _ stopped

end Sys2Proof

/-! PROOFS. The leads of a line and its demands: settles O53. -/

namespace Sys2Proof.Machine

/-- The drive speeds of a profile that WRITE PROFILE takes lie above 0 (R100). -/
theorem profileTaken_speeds {p : Profile} (h : profileTaken p = true) :
    0 < p.deploySpeed ∧ 0 < p.haulSpeed ∧ 0 < p.recoverSpeed ∧ 0 < p.slackSpeed ∧ 0 < p.rewindSpeed := by
  simp only [profileTaken, Bool.and_eq_true, decide_eq_true_eq] at h
  omega

/-- The sign kept for the direction lead of a line that pays out is outward (R15, R38). -/
theorem Line.heaving_outward {l : Line} (h : l.demandsAgree) (taken : profileTaken l.applied = true)
    (out : l.control.state ∈ [LineState.deploying, .slacking]) : l.sense.heaving = false := by
  obtain ⟨drive, -, -, sign⟩ := h
  obtain ⟨deploy, -, -, slack, -⟩ := profileTaken_speeds taken
  have outward : 0 < l.control.drive := by
    rw [drive]
    simp only [List.mem_cons, List.not_mem_nil, or_false] at out
    rcases out with hx | hx <;> rw [hx] <;> simpa [driveDemand]
  rw [sign outward.ne', decide_eq_false (by omega)]

/-- The sign kept for the direction lead of a line that heaves in is inward (R15, R38). -/
theorem Line.heaving_inward {l : Line} (h : l.demandsAgree) (taken : profileTaken l.applied = true)
    (inw : l.control.state ∈ [LineState.hauling, .recovering, .rewinding]) : l.sense.heaving = true := by
  obtain ⟨drive, -, -, sign⟩ := h
  obtain ⟨-, haul, recover, -, rewind⟩ := profileTaken_speeds taken
  have inward : l.control.drive < 0 := by
    rw [drive]
    simp only [List.mem_cons, List.not_mem_nil, or_false] at inw
    rcases inw with hx | hx | hx <;> rw [hx] <;> simpa [driveDemand]
  rw [sign inward.ne, decide_eq_true inward]

/-! The brake demand of each state (R38). -/

theorem brakeDemand_release_iff (x : LineState) :
    (brakeDemand x == .release) = true
      ↔ x ∈ [LineState.deploying, .slacking] ∨ x ∈ [LineState.hauling, .recovering, .rewinding] := by
  cases x <;> decide

theorem brakeDemand_slip_iff (x : LineState) : (brakeDemand x == .slip) = true ↔ x = .rendering ∨ x = .slipping := by
  cases x <;> decide

theorem brakeDemand_apply_iff (x : LineState) :
    (brakeDemand x == .apply) = true ↔ (brakeDemand x == .release) = false ∧ (brakeDemand x == .slip) = false := by
  cases x <;> decide

end Sys2Proof.Machine

namespace Sys2Proof

open Machine

/-- Settles O53: the brake, hook and speed leads are read from the demands of the state, and the direction lead from the
sign that the drive demand keeps (`Line.heaving_outward`, `Line.heaving_inward`). -/
theorem leadsShowDemands : Obligations.LeadsShowDemands := by
  unfold Obligations.LeadsShowDemands
  intro n s agree taken x p outward inward leads
  obtain ⟨drive, brake, hook, -⟩ := agree n
  have release : leads.releaseLead = (brakeDemand x == .release) := congrArg (· == Brake.release) brake
  have slip : leads.slipLead = (brakeDemand x == .slip) := congrArg (· == Brake.slip) brake
  have apply : leads.applyLead = (brakeDemand x == .apply) := congrArg (· == Brake.apply) brake
  have opens : leads.openLead = (hookDemandOf x == .openHook) := congrArg (· == HookDemand.openHook) hook
  have closes : leads.closeLead = (hookDemandOf x == .closeHook) := congrArg (· == HookDemand.closeHook) hook
  have speed : leads.speedDuty = (driveDemand p x).natAbs := congrArg Int.natAbs drive
  have direction : leads.direction = directionLead (s.setup n).hand (s.line n).sense.heaving := rfl
  rw [release, slip, apply, opens, closes, speed, direction]
  refine ⟨brakeDemand_release_iff x, brakeDemand_slip_iff x, brakeDemand_apply_iff x, ?_, ?_, ?_, fun out => ?_,
    fun inw => ?_⟩
  · generalize x = y
    cases y <;> decide
  · generalize x = y
    cases y <;> decide
  · clear_value x
    cases x <;> simp [driveDemand]
  · rw [Line.heaving_outward (agree n) taken out]
    generalize (s.setup n).hand = hand
    cases hand <;> decide
  · rw [Line.heaving_inward (agree n) taken inw]
    generalize (s.setup n).hand = hand
    cases hand <;> decide

end Sys2Proof

/-! PROOFS. The state after reset: settles O60. -/

namespace Sys2Proof.Machine

theorem reset_line (n : LineNo) : State.reset.line n = lineAtPowerOn := by
  simp [State.line, State.reset]

theorem lineAtPowerOn_demandsAgree : lineAtPowerOn.demandsAgree := ⟨rfl, rfl, rfl, fun h => absurd rfl h⟩

theorem lineAtPowerOn_tidy : lineAtPowerOn.tidy := ⟨controlAtPowerOn_tidy none, fun _ => ⟨rfl, rfl⟩⟩

theorem lineAtPowerOn_bounded : lineAtPowerOn.bounded := ⟨senseAtPowerOn_bounded false, tensionAtReset_bounded⟩

/-- No line is overloaded after reset, so that no inhibit is to be in force (R91). -/
theorem reset_inhibitOf (n : LineNo) : State.reset.inhibitOf n = false := by
  have clear (m : LineNo) : (State.reset.line m).overloaded = false := by rw [reset_line]; rfl
  simp [State.inhibitOf, clear]

theorem reset_figuresValid : State.reset.figuresValid := by
  refine figuresValid_of_reset ⟨fun g => ?_, defaultSetups_inRange, ?_⟩ fun n => by rw [reset_line]; rfl
  · simp [State.reset, defaultProfiles, defaultProfile_taken]
  · norm_num [State.reset, defaultSettings]

end Sys2Proof.Machine

namespace Sys2Proof

open Machine

/-- Settles O60, each invariant from the values of one block after power-on. -/
theorem resetMeetsInvariants : Obligations.ResetMeetsInvariants := by
  have berth : State.reset.berthReset := ⟨rfl, rfl, rfl⟩
  obtain ⟨queue, stopped, replies⟩ := berth.sound
  refine ⟨fun n => ?_, fun n => ?_, (State.figuresBounded_iff _).2 fun n => ?_, fun held => absurd held.2 Bool.false_ne_true,
    (inhibitsAgree_iff _).2 fun n => ?_, authoritySound_of_empty rfl, queue, stopped, replies, reset_figuresValid,
    saveSound_of_none nofun rfl⟩
  · exact (reset_line n).symm ▸ lineAtPowerOn_demandsAgree
  · exact (reset_line n).symm ▸ lineAtPowerOn_tidy
  · exact (reset_line n).symm ▸ lineAtPowerOn_bounded
  · rw [reset_inhibitOf, reset_line]
    rfl

end Sys2Proof

/-! PROOFS. Every request body in its layout, and the message of every request whose fields fit read back (R154, R172):
settles O36. -/

namespace Sys2Proof.Machine

/-- A body that carries a profile where R172 puts its fields is read as that profile. -/
theorem decodeProfile_of_laidOut {body : List Byte} {p : Profile} (h : profileLaidOut body p) : decodeProfile body = p := by
  unfold profileLaidOut at h
  obtain ⟨h1, h2, h3, h4, h5, h6, h7, h8, h9, h10, h11, h12, h13, h14, h15, h16, h17, h18, h19, h20, h21, h22, h23, h24⟩ := h
  unfold decodeProfile packedFirst packedSecond wordAt byteAt
  simp only [h1, h2, h3, h4, h5, h6, h7, h8, h9, h10, h11, h12, h13, h14, h15, h16, h17, h18, h19, h20, h21, h22, h23, h24]

theorem writeProfileBody_length (group : Byte) (p : Profile) : (group :: encodeProfile p).length = 39 := by
  rw [List.length_cons, encodeProfile_length]

theorem decodeRequest_writeProfile (st : Station) {body : List Byte} (h : body.length = 39) :
    decodeRequest st 0x50#8 body = some (.writeProfile st (body.getD 0 0#8) (decodeProfile body)) :=
  if_pos (congrArg some h.symm)

/-- A two-byte quantity, taken apart and joined again. -/
theorem bytes_append_eq (x : BitVec 16) : x.extractLsb' 8 8 ++ x.extractLsb' 0 8 = x := by
  ext i hi
  simp only [BitVec.getElem_append, BitVec.getElem_extractLsb']
  split
  · simp [BitVec.getLsbD_eq_getElem hi]
  · rw [show 8 + (i - 8) = i by omega, BitVec.getLsbD_eq_getElem hi]

theorem decodeSetup_encodeSetup (line : Byte) (f : SetupFields) : decodeSetup (line :: encodeSetup f) = f := by
  simp [decodeSetup, encodeSetup, bytes_append_eq]

/-- The message of a request gives the request back. -/
theorem decodeRequest_encodeBody {i : Instr} {st : Station} {kind : Byte} (sender : i.sender = some st)
    (hkind : i.kind = some kind) (fit : i.fieldsFit = true) : decodeRequest st kind (encodeBody i) = some i := by
  cases i with
  | sampleEvent | countEvent | frameEvent | powerOn | resetInputAssert | resetInputRelease | deviceRestart
  | storeCompletion | staggerExpiry | hookTimerExpiry | stallExpiry | derivation | gapAbort | presenceLoss
  | stanceChange | stopOnset | holderChangeHalt | inhibitOnset | inhibitLift | queueTake | powerLoss => nomatch sender
  | writeProfile x group p =>
    obtain rfl := Option.some.inj sender
    obtain rfl := Option.some.inj hkind
    have read := decodeProfile_of_laidOut (encodeProfile_laidOut p fit group [])
    rw [List.append_nil] at read
    rw [encodeBody, decodeRequest_writeProfile x (writeProfileBody_length group p), read, List.getD_cons_zero]
  | writeLineSetup x line f =>
    obtain rfl := Option.some.inj sender
    obtain rfl := Option.some.inj hkind
    exact congrArg (fun g => some (Instr.writeLineSetup x line g)) (decodeSetup_encodeSetup line f)
  | clearFlags x lines flags =>
    obtain rfl := Option.some.inj sender
    obtain rfl := Option.some.inj hkind
    exact congrArg (fun w => some (Instr.clearFlags x lines w)) (bytes_append_eq flags)
  | _ =>
    obtain rfl := Option.some.inj sender
    obtain rfl := Option.some.inj hkind
    rfl

/-- The body of a request has the length of its kind. -/
theorem requestLength_encodeBody {i : Instr} {kind : Byte} (hkind : i.kind = some kind) :
    requestLength kind = some (encodeBody i).length := by
  cases i with
  | sampleEvent | countEvent | frameEvent | powerOn | resetInputAssert | resetInputRelease | deviceRestart
  | storeCompletion | staggerExpiry | hookTimerExpiry | stallExpiry | derivation | gapAbort | presenceLoss
  | stanceChange | stopOnset | holderChangeHalt | inhibitOnset | inhibitLift | queueTake | powerLoss => nomatch hkind
  | writeProfile x group p =>
    obtain rfl := Option.some.inj hkind
    rw [encodeBody, writeProfileBody_length]
    rfl
  | _ => exact Option.some.inj hkind ▸ rfl

/-- The body of each kind carries its operands as the tables of R172 print them. -/
theorem requests_laidOut : requestsLaidOut := by
  intro st a b c flags p f
  refine ⟨rfl, rfl, rfl, ?_, rfl, rfl, rfl, rfl, ?_, rfl, rfl, ?_, ?_, rfl, rfl⟩
  · simp only [List.forall_mem_cons]
    exact ⟨rfl, rfl, rfl, rfl, rfl, rfl, rfl, rfl, nofun⟩
  · exact ⟨_, _, rfl, fun i hi => by simp [hi], fun i hi => by simp [hi]⟩
  · intro body fits
    have laid := encodeProfile_laidOut p fits a []
    rw [List.append_nil] at laid
    exact ⟨writeProfileBody_length a p, rfl, laid⟩
  · intro body
    have laid := encodeSetup_laidOut f a []
    rw [List.append_nil] at laid
    exact ⟨rfl, rfl, laid⟩

end Sys2Proof.Machine

namespace Sys2Proof

open Machine

/-- Settles O36. -/
theorem requestDecodesEncoded : Obligations.RequestDecodesEncoded :=
  ⟨requests_laidOut, fun _ _ _ sender hkind fit => ⟨decodeRequest_encodeBody sender hkind fit, requestLength_encodeBody hkind⟩⟩

end Sys2Proof

/-! PROOFS. SAVE SETUP, the store completion, and RESTART: settles O34. -/

namespace Sys2Proof.Machine

/-- The fields of a setup in its ranges spell it, and are read back as it (R103, R172). -/
theorem setupOfFields_fieldsOfSetup {u : LineSetup} (h : u.inRange) : setupOfFields (fieldsOfSetup u) = some u := by
  obtain ⟨zero, low, high⟩ := h
  have group := u.group.isLt
  have rank := u.rank.isLt
  refine (setupOfFields_eq_some _ u).2 ⟨?_, fieldsOfSetup_spelled u zero high⟩
  refine decide_eq_true ⟨?_, ?_, ?_, ?_, ?_, ?_, ?_⟩
  case refine_1 => unfold fieldsOfSetup; dsimp only; split <;> decide
  case refine_3 => unfold fieldsOfSetup; dsimp only; split <;> decide
  all_goals simp only [fieldsOfSetup, BitVec.toNat_ofNat]; omega

/-- The copy of the setups in force is loaded as those setups (R109, R110). -/
theorem setupsOfImage_imageOfSetups {us : Vector LineSetup 8} (h : ∀ n : LineNo, LineSetup.inRange us[n]) :
    setupsOfImage (imageOfSetups us) = some us := by
  have read (n : LineNo) : setupOfFields (imageOfSetups us).setups[n] = some us[n] := by
    refine Eq.trans (congrArg setupOfFields ?_) (setupOfFields_fieldsOfSetup (h n))
    match n with
    | 0 | 1 | 2 | 3 | 4 | 5 | 6 | 7 => rfl
  have all : setupsOfImage (imageOfSetups us) = some #v[us[0], us[1], us[2], us[3], us[4], us[5], us[6], us[7]] := by
    have at' (i : Nat) (hi : i < 8) : setupOfFields (imageOfSetups us).setups[i] = some us[i] := read ⟨i, hi⟩
    simp only [setupsOfImage, at']
  rw [all]
  congr 1
  ext1 i hi
  interval_cases i <;> rfl

theorem completeSave_saving (readBack : Option StoreImage) {s : State} {img : StoreImage} (h : s.table.saveCopy = some img) :
    s.completeSave readBack
      = { s with
          table :=
            { s.table with
              store := readBack.getD img
              saveCopy := none
              storeState := if readBack = none ∨ readBack = some img then .current else .stale } } := by
  unfold State.completeSave
  rw [h]
  cases readBack <;> simp

/-- The stations whose RESTART reply is awaited once a RESTART of station `st` has been taken (R169). -/
theorem mem_restartJoined (st x : Station) (xs : List Station) :
    x ∈ (if xs.contains st then xs else xs ++ [st]) ↔ x = st ∨ x ∈ xs := by
  split
  next h => exact ⟨.inr, fun hx => hx.elim (fun hx => hx ▸ List.contains_iff_mem.mp h) id⟩
  next => rw [List.mem_append, List.mem_singleton, or_comm]

end Sys2Proof.Machine

namespace Sys2Proof

open Machine

/-- Settles O34: each check of SAVE SETUP and RESTART in turn, and the copy that a save takes
(`setupsOfImage_imageOfSetups`). -/
theorem saveSetupAndRestart : Obligations.SaveSetupAndRestart := by
  unfold Obligations.SaveSetupAndRestart
  intro st readBack s
  refine ⟨?_, fun img running saving => ?_, ?_⟩
  · intro accepted outcome
    refine ⟨_, request_taken accepted rfl, ?_⟩
    simp only [takeSaveSetup, State.restartSet, bne_iff_ne, outcome]
    by_cases set : (s.link st).restartInd = true
    · simp only [if_pos set, reduceCtorEq, if_false]
      exact ⟨rfl, rfl⟩
    by_cases other : st ≠ .service
    · simp only [if_neg set, if_pos other, reduceCtorEq, if_false]
      exact ⟨rfl, rfl⟩
    by_cases busy : s.table.storeState = .saving ∨ s.pendingRestart ≠ []
    · simp only [if_neg set, if_neg other, if_pos busy, reduceCtorEq, if_false]
      exact ⟨rfl, rfl⟩
    · simp only [if_neg set, if_neg other, if_neg busy, if_true]
      exact ⟨⟨imageOfSetups s.table.setups, rfl, rfl, fun valid =>
        setupsOfImage_imageOfSetups ((State.figuresValid_iff s).1 valid).1.2.1⟩, rfl⟩
  · exact (whileRunning_running _ running).trans (congrArg _ (completeSave_saving readBack saving))
  · intro accepted outcome
    refine ⟨_, request_taken accepted rfl, ?_⟩
    have refused : (!(st == .panel || st == .service)) = true ↔ st = .quay ∨ st = .vessel := by cases st <;> decide
    have busy : (!s.berth.queue.isEmpty || s.table.storeState == .saving) = true
        ↔ s.berth.queue ≠ [] ∨ s.table.storeState = .saving := by simp
    simp only [takeRestart, outcome, refused, busy]
    by_cases other : st = .quay ∨ st = .vessel
    · simp only [if_pos other]
      exact ⟨rfl, fun _ => rfl, nofun⟩
    by_cases saving : s.berth.queue ≠ [] ∨ s.table.storeState = .saving
    · simp only [if_neg other, if_pos saving]
      exact ⟨rfl, fun _ => rfl, nofun⟩
    · simp only [if_neg other, if_neg saving]
      exact ⟨rfl, fun h => absurd rfl h, fun _ x => mem_restartJoined st x s.pendingRestart⟩

end Sys2Proof

/-! PROOFS. Faults, expiries, derivation and the events that other blocks hand to a line: settles O22, O23. -/

namespace Sys2Proof.Machine

/-! ### A fault -/

/-- A line enters FAULTED and latches the flag of its fault (R57). -/
theorem enterFaulted_latch_eq_faultedBy (a : Line) (c : FaultCause) (f : Flag) :
    (a.enterFaulted (some c)).latch f = a.faultedBy c f := by
  rw [Line.enterFaulted, enter_eq_idleIn a rfl rfl rfl]
  rfl

/-- A fault of a line that is neither FAULTED nor SLIPPING (R57). -/
theorem fault_eq_faultedBy {a : Line} (c : FaultCause) (faulted : a.control.state ≠ .faulted)
    (slipping : a.control.state ≠ .slipping) : a.fault c = a.faultedBy c c.flag := by
  rw [Line.fault, if_neg faulted, if_neg slipping, enterFaulted_latch_eq_faultedBy]

/-- A SLIPPING line goes to FAULTED with the cause that it carries (R57). -/
theorem fault_slipping {a : Line} (c : FaultCause) (h : a.control.state = .slipping) :
    a.fault c = a.faultedBy (a.control.record.returnTo.getD c) c.flag := by
  rw [Line.fault, if_neg (by rw [h]; nofun), if_pos h, enterFaulted_latch_eq_faultedBy]

/-- A FAULTED line keeps its first cause (R57). -/
theorem fault_faulted {a : Line} (c : FaultCause) (h : a.control.state = .faulted) : a.fault c = a.latch c.flag :=
  if_pos h

/-! ### Expiries -/

theorem hookExpire_eq {a : Line}
    (timer : a.control.hookTimer.isSome = true ↔ a.control.state = .engaging ∨ a.control.state = .opening) :
    a.hookExpire
      = if a.control.state = .engaging ∨ a.control.state = .opening then a.faultedBy .hook .hook else a := by
  have timed : a.control.state.timed = true ↔ a.control.state = .engaging ∨ a.control.state = .opening := by
    generalize a.control.state = x
    cases x <;> decide
  simp only [Line.hookExpire, timed, timer, and_self]
  refine ite_congr rfl (fun h => fault_eq_faultedBy .hook ?_ ?_) fun _ => rfl
  · rcases h with h | h <;> rw [h] <;> nofun
  · rcases h with h | h <;> rw [h] <;> nofun

theorem drivePowered_iff (x : LineState) :
    x.drivePowered = true ↔ x ∈ [LineState.deploying, .hauling, .recovering, .slacking, .rewinding] := by
  cases x <;> decide

theorem fault_drivePowered {a : Line} (c : FaultCause) (h : a.control.state.drivePowered = true) :
    a.fault c = a.faultedBy c c.flag :=
  fault_eq_faultedBy c (fun hx => by rw [hx] at h; cases h) fun hx => by rw [hx] at h; cases h

theorem stallExpire_eq (a : Line) :
    a.stallExpire
      = if a.control.state ∈ [LineState.deploying, .hauling, .recovering, .slacking, .rewinding] then
          a.faultedBy .stall .stall
        else a := by
  simp only [Line.stallExpire, ← drivePowered_iff]
  exact ite_congr rfl (fun h => fault_drivePowered .stall h) fun _ => rfl

/-! ### Events handed over -/

/-- An event that was handed over is taken (log 5). -/
theorem takeHanded_due {e : DueEvent} {s : State} (h : e ∈ s.due) (f : State → State) :
    s.takeHanded e f = f { s with due := s.due.erase e } :=
  if_pos (List.contains_iff_mem.mpr h)

theorem State.oneLine_refl (s : State) (n : LineNo) : s.oneLine s n :=
  ⟨fun _ _ => rfl, ⟨rfl, rfl, rfl, rfl, rfl, rfl⟩, rfl, fun _ => rfl,
    fun _ _ => ⟨.inl, fun h => h.resolve_right fun h => noticeDue_self _ h.2⟩, fun _ => ⟨rfl, rfl, fun _ => rfl⟩⟩

/-! The states that an event takes its line to, at rest. -/

theorem enter_opened (l : Line) : l.enter .opened {} = l.idleIn .opened := enter_eq_idleIn l rfl rfl rfl
theorem enter_held (l : Line) : l.enter .held {} = l.idleIn .held := enter_eq_idleIn l rfl rfl rfl
theorem enter_locked (l : Line) : l.enter .locked {} = l.idleIn .locked := enter_eq_idleIn l rfl rfl rfl

theorem halt_eq (l : Line) :
    l.halt
      = match l.control.state with
        | .deploying | .rewinding => l.idleIn .opened
        | .hauling | .slacking => l.idleIn .held
        | .engaging =>
          { l with control := { l.control with record := { l.control.record with restOnCompletion := true } } }
        | .opening =>
          { l with
            control :=
              { l.control with record := { l.control.record with restOnCompletion := true, thenRewind := false } } }
        | _ => l := by
  rw [Line.halt, enter_opened, enter_held] <;> rfl

theorem stopOnset_eq (l : Line) :
    l.stopOnset
      = match l.control.state with
        | .deploying | .rewinding => l.idleIn .opened
        | .hauling | .slacking => l.idleIn .held
        | .recovering => l.idleIn .locked
        | _ => l := by
  rw [Line.stopOnset, enter_opened, enter_held, enter_locked] <;> rfl

theorem inhibitOnset_eq (l : Line) :
    l.inhibitOnset
      = match l.control.state with
        | .hauling => l.idleIn .held
        | .recovering => l.idleIn .locked
        | _ => l := by
  rw [Line.inhibitOnset, enter_held, enter_locked] <;> rfl

/-- An event that was handed over to line `n` does its effect on that line alone. -/
theorem whileRunning_takeHanded {s : State} {e : DueEvent} {f : Line → Line} (running : s.running = true) (n : LineNo)
    (due : e ∈ s.due) :
    ∃ t, whileRunning (State.takeHanded e (State.onLine n f)) s = .next t
      ∧ State.oneLine { s with due := s.due.erase e } t n ∧ t.line n = f (s.line n) :=
  ⟨_, (whileRunning_running _ running).trans (congrArg _ (takeHanded_due due _)), onLine_oneLine n f _,
    onLine_line_self n f _⟩

end Sys2Proof.Machine

namespace Sys2Proof

open Machine

/-- Settles O22: an expiry is a fault in the states that have it (`hookExpire_eq`, `stallExpire_eq`). -/
theorem expiriesAndDerivation : Obligations.ExpiriesAndDerivation := by
  unfold Obligations.ExpiriesAndDerivation
  intro n s running
  refine ⟨fun timer => ⟨_, whileRunning_running _ running, onLine_oneLine n _ s, ?_⟩,
    ⟨_, whileRunning_running _ running, onLine_oneLine n _ s, ?_⟩,
    fun starting => ⟨_, whileRunning_running _ running, onLine_oneLine n _ s, ?_⟩⟩
  · rw [onLine_line_self, hookExpire_eq timer]
  · rw [onLine_line_self, stallExpire_eq]
  · rw [onLine_line_self, Line.deriveStarting, if_pos starting, derive_eq_derivedAs]

/-- Settles O23: each event is taken from those handed over, with its effect on its line (`whileRunning_takeHanded`). -/
theorem handedEventsHaltLine : Obligations.HandedEventsHaltLine := by
  unfold Obligations.HandedEventsHaltLine
  intro n s l running
  rw [List.forall_mem_cons, List.forall_mem_cons, List.forall_mem_cons, List.forall_mem_singleton]
  refine ⟨?_, ?_, ?_, ?_⟩
  · intro due
    obtain ⟨t, ran, one, line⟩ := whileRunning_takeHanded (f := Line.halt) running n due
    exact ⟨t, ran, one, line.trans (halt_eq l)⟩
  · intro due
    obtain ⟨t, ran, one, line⟩ := whileRunning_takeHanded (f := Line.stopOnset) running n due
    exact ⟨t, ran, one, line.trans (stopOnset_eq l)⟩
  · intro due
    obtain ⟨t, ran, one, line⟩ := whileRunning_takeHanded (f := Line.inhibitOnset) running n due
    exact ⟨t, ran, one, line.trans (inhibitOnset_eq l)⟩
  · intro due
    exact ⟨_, (whileRunning_running _ running).trans (congrArg _ (takeHanded_due due id)), State.oneLine_refl _ n, rfl⟩

end Sys2Proof

/-! PROOFS. A count event and its report: settles O20, O21. -/

namespace Sys2Proof.Machine

/-! ### The count event as one change of its line -/

/-- A count of direction `d` (R10, R11, R12): P moves, and the line takes the count's report. -/
theorem countEvent_counted {s : State} {n : LineNo} {step : EncoderStep} {d : Int} (fitted : s.fitted n = true)
    (direction : countDirection (s.setup n).hand step = some d) :
    s.countEvent n step
      = (s.putLine n { s.line n with sense := (s.line n).sense.count d }).onLine n
          (Line.countReport (s.setup n).capacity d ((s.line n).sense.atLimit d)) := by
  rw [State.countEvent, if_pos fitted]
  dsimp only
  rw [direction]

theorem countEvent_line {s : State} {n : LineNo} {step : EncoderStep} {d : Int} (fitted : s.fitted n = true)
    (direction : countDirection (s.setup n).hand step = some d) :
    (s.countEvent n step).line n
      = Line.countReport (s.setup n).capacity d ((s.line n).sense.atLimit d)
          { s.line n with sense := (s.line n).sense.count d } := by
  rw [countEvent_counted fitted direction, onLine_line_self, State.line_putLine_self]

theorem countEvent_skip {s : State} {n : LineNo} (fitted : s.fitted n = true) :
    s.countEvent n .bothChanged = s.putLine n { s.line n with sense := (s.line n).sense.skip } := by
  have skip : countDirection (s.setup n).hand .bothChanged = none := by cases (s.setup n).hand <;> rfl
  rw [State.countEvent, if_pos fitted]
  dsimp only
  rw [skip]

theorem countEvent_unfitted {s : State} {n : LineNo} (h : s.fitted n = false) (step : EncoderStep) :
    s.countEvent n step = s := by
  rw [State.countEvent, if_neg (by rw [h]; nofun)]

/-- A change of a line's sense items alone marks no notice (R65), so that what comes of the line after it is compared
with the line before. -/
theorem oneLine_of_putLine {s t : State} {n : LineNo} {l : Line} (control : l.control = (s.line n).control)
    (h : (s.putLine n l).oneLine t n) : s.oneLine t n := by
  obtain ⟨lines, core, berth, links, marks, authority⟩ := h
  refine ⟨fun m hm => (lines m hm).trans (State.line_putLine_ne s l hm), core, berth, links, fun x m => ?_, authority⟩
  refine (marks x m).trans (or_congr Iff.rfl (and_congr Iff.rfl ?_))
  rw [State.line_putLine]
  split
  next hm =>
    subst hm
    unfold Line.noticeDue Line.has
    rw [control]
  next => exact Iff.rfl

/-- A count event is one change of its line (R10, R19). -/
theorem countEvent_oneLine (s : State) (n : LineNo) (step : EncoderStep) : s.oneLine (s.countEvent n step) n := by
  cases fitted : s.fitted n with
  | false =>
    rw [countEvent_unfitted fitted step]
    exact State.oneLine_refl s n
  | true =>
    cases direction : countDirection (s.setup n).hand step with
    | none =>
      have both : step = .bothChanged := by
        generalize (s.setup n).hand = hand at direction
        cases hand <;> cases step <;> simp_all [countDirection]
      rw [both, countEvent_skip fitted]
      exact oneLine_of_putLine (l := { s.line n with sense := (s.line n).sense.skip }) rfl (State.oneLine_refl _ n)
    | some d =>
      rw [countEvent_counted fitted direction]
      exact oneLine_of_putLine (l := { s.line n with sense := (s.line n).sense.count d }) rfl (onLine_oneLine n _ _)

/-! ### What the report leaves -/

@[simp] theorem Line.enter_payout (x : LineState) (r : CommandRecord) (l : Line) :
    (l.enter x r).sense.payout = l.sense.payout := by
  unfold Line.enter; split <;> rfl

@[simp] theorem Line.enter_referenced (x : LineState) (r : CommandRecord) (l : Line) :
    (l.enter x r).sense.referenced = l.sense.referenced := by
  unfold Line.enter; split <;> rfl

@[simp] theorem Line.enter_flags (x : LineState) (r : CommandRecord) (l : Line) :
    (l.enter x r).control.flags = l.control.flags := by
  unfold Line.enter; split <;> rfl

@[simp] theorem Line.enter_has (x : LineState) (r : CommandRecord) (f : Flag) (l : Line) : (l.enter x r).has f = l.has f := by
  rw [Line.has, Line.has, Line.enter_flags]

@[simp] theorem Line.fault_payout (c : FaultCause) (l : Line) : (l.fault c).sense.payout = l.sense.payout := by
  unfold Line.fault Line.enterFaulted Line.latch
  split_ifs <;> simp

@[simp] theorem Line.fault_referenced (c : FaultCause) (l : Line) :
    (l.fault c).sense.referenced = l.sense.referenced := by
  unfold Line.fault Line.enterFaulted Line.latch
  split_ifs <;> simp

/-- A fault latches its flag in every state (R57). -/
@[simp] theorem Line.fault_flags (c : FaultCause) (l : Line) :
    (l.fault c).control.flags = l.control.flags ||| c.flag.mask := by
  unfold Line.fault Line.enterFaulted Line.latch
  split_ifs <;> simp

theorem Line.fault_has (c : FaultCause) (f : Flag) (l : Line) : (l.fault c).has f = (l.has f || decide (c.flag = f)) := by
  rw [← Line.has_latch]
  exact congrArg (flagSet · f) (Line.fault_flags c l)

/-- A count's report moves neither P nor the reference flag, which the count has set already (R11, R12). -/
theorem countReport_sense (capacity : Nat) (d : Int) (limit : Bool) (l : Line) :
    (l.countReport capacity d limit).sense.payout = l.sense.payout
      ∧ (l.countReport capacity d limit).sense.referenced = l.sense.referenced := by
  unfold Line.countReport
  extract_lets l1 c l2 l3
  have same1 : l1.sense = l.sense := by unfold l1; split <;> rfl
  have same2 : l2.sense = l.sense := by unfold l2; split <;> exact same1
  have same3 : l3.sense = l.sense := by unfold l3; split <;> exact same2
  split_ifs <;> simp [Line.latch, same2, same3]

/-- A count latches LIMIT where it is a limit count, and at no other (R12). -/
theorem countReport_limit (capacity : Nat) (d : Int) (limit : Bool) (l : Line) :
    (l.countReport capacity d limit).has .limit = (l.has .limit || limit) := by
  unfold Line.countReport
  extract_lets l1 c l2 l3
  have has1 : l1.has .limit = (l.has .limit || limit) := by
    unfold l1; cases limit <;> simp [Line.has_latch]
  have has2 : l2.has .limit = (l.has .limit || limit) := by unfold l2; split <;> exact has1
  have has3 : l3.has .limit = (l.has .limit || limit) := by
    unfold l3; split <;> simp [Line.has_latch, has2]
  split_ifs <;> simp [Line.fault_has, Line.has_latch, FaultCause.flag, has2, has3]

/-! ### A count within the range of P and a limit count -/

theorem Sense.count_within {d : Int} {u : Sense} (low : -65535 ≤ u.payout + d) (high : u.payout + d ≤ 65535) :
    u.atLimit d = false ∧ u.count d = { u with payout := u.payout + d } := by
  have within : u.atLimit d = false := by
    rw [← Bool.not_eq_true, Sense.atLimit_iff]
    omega
  exact ⟨within, by simp [Sense.count, within]⟩

theorem Sense.count_beyond {d : Int} {u : Sense} (h : u.payout + d < -65535 ∨ 65535 < u.payout + d) :
    u.atLimit d = true ∧ u.count d = { u with referenced := false } := by
  have beyond : u.atLimit d = true := (Sense.atLimit_iff d u).2 h.symm
  exact ⟨beyond, by simp [Sense.count, beyond]⟩

end Sys2Proof.Machine

namespace Sys2Proof

open Machine

/-- Settles O20: the count event is one change of its line (`countEvent_oneLine`), whose report moves neither P nor the
reference flag (`countReport_sense`). -/
theorem countMovesPayout : Obligations.CountMovesPayout := by
  unfold Obligations.CountMovesPayout
  intro n step s running l d
  have counted (fitted : s.fitted n = true) (counts : step ≠ .bothChanged) :
      (s.countEvent n step).line n
        = Line.countReport (s.setup n).capacity d (l.sense.atLimit d) { l with sense := l.sense.count d } := by
    refine countEvent_line fitted ?_
    unfold d
    generalize (s.setup n).hand = hand
    cases step with
    | bothChanged => exact absurd rfl counts
    | aLeads | bLeads => cases hand <;> rfl
  refine ⟨_, whileRunning_running _ running, countEvent_oneLine s n step, fun unfitted => countEvent_unfitted unfitted step,
    fun fitted both => ?_, fun fitted counts low high => ?_, fun fitted counts beyond => ?_⟩
  · rw [both, countEvent_skip fitted, State.line_putLine_self]
    rfl
  · obtain ⟨limit, count⟩ := Sense.count_within low high
    rw [counted fitted counts, limit, count]
    exact ⟨(countReport_sense ..).1, (countReport_sense ..).2, by rw [countReport_limit, Bool.or_false]; rfl⟩
  · obtain ⟨limit, count⟩ := Sense.count_beyond beyond
    rw [counted fitted counts, limit, count]
    exact ⟨(countReport_sense ..).1, (countReport_sense ..).2, by rw [countReport_limit, Bool.or_true]⟩

end Sys2Proof

/-! PROOFS. What a count does to its line: settles O21. -/

namespace Sys2Proof.Machine

/-- A line at a count: LIMIT latched where the count is a limit count (R12). -/
def Line.limited (limit : Bool) (l : Line) : Line := if limit then l.latch .limit else l

@[simp] theorem Line.limited_false (l : Line) : l.limited false = l := rfl

/-- A count that leaves its line drive-powered clears the stall counter (R56). -/
def Line.unstalled (l : Line) : Line := { l with control := { l.control with stallCounter := 0 } }

section
variable {capacity : Nat} {d : Int} {limit : Bool} {l : Line}

theorem limited_state : (l.limited limit).control.state = l.control.state := by cases limit <;> rfl
theorem limited_sense : (l.limited limit).sense = l.sense := by cases limit <;> rfl
theorem limited_record : (l.limited limit).control.record = l.control.record := by cases limit <;> rfl
theorem limited_renderLimit : (l.limited limit).renderLimit = l.renderLimit := by cases limit <;> rfl
theorem limited_recoverLimit : (l.limited limit).recoverLimit = l.recoverLimit := by cases limit <;> rfl

/-- The report of a count at a line whose drive is off: END, the allowance of RENDERING, or nothing (R59, R77, R78). -/
theorem countReport_undriven (h : l.control.state.drivePowered = false) :
    l.countReport capacity d limit
      = if l.control.state.payout = true ∧ d = 1 ∧ ((capacity : Int) ≤ l.sense.payout ∨ limit = true) then
          Line.fault .payoutEnd
            (if l.control.state = .rendering ∧ !l.renderLimit then (l.limited limit).latch .allow else l.limited limit)
        else if l.control.state = .rendering ∧ !l.renderLimit then ((l.limited limit).latch .allow).idleIn .locked
        else l.limited limit := by
  have off : ¬(l.limited limit).control.state.drivePowered = true := by rw [limited_state, h]; nofun
  have recovering : l.control.state ≠ .recovering := fun hx => by rw [hx] at h; cases h
  change (let l1 := l.limited limit
    let l2 := if l1.control.state.drivePowered then l1.unstalled else l1
    let l3 := if l2.control.state = .rendering ∧ !l2.renderLimit then l2.latch .allow else l2
    if l2.control.state.payout ∧ d = 1 ∧ ((capacity : Int) ≤ l2.sense.payout ∨ limit) then l3.fault .payoutEnd
    else if l2.control.state = .rendering ∧ !l2.renderLimit then (l2.latch .allow).enter .locked {}
    else if l2.control.state = .recovering ∧ !l2.recoverLimit then (l2.latch .allow).enter .locked {}
    else l2) = _
  dsimp only
  simp only [if_neg off]
  simp only [limited_state, limited_sense, limited_renderLimit, recovering, false_and, if_false, enter_locked]

/-- The report of a count at a line that is drive-powered: END, the allowance of RECOVERING, or the stall counter cleared
(R56, R59, R79). -/
theorem countReport_driven (h : l.control.state.drivePowered = true) :
    l.countReport capacity d limit
      = if l.control.state.payout = true ∧ d = 1 ∧ ((capacity : Int) ≤ l.sense.payout ∨ limit = true) then
          (l.limited limit).faultedBy .payoutEnd .payoutEnd
        else if l.control.state = .recovering ∧ !l.recoverLimit then ((l.limited limit).latch .allow).idleIn .locked
        else (l.limited limit).unstalled := by
  have on : (l.limited limit).control.state.drivePowered = true := by rw [limited_state, h]
  have rendering : l.control.state ≠ .rendering := fun hx => by rw [hx] at h; cases h
  have faulted : (l.limited limit).unstalled.fault .payoutEnd = (l.limited limit).faultedBy .payoutEnd .payoutEnd :=
    fault_drivePowered .payoutEnd on
  change (let l1 := l.limited limit
    let l2 := if l1.control.state.drivePowered then l1.unstalled else l1
    let l3 := if l2.control.state = .rendering ∧ !l2.renderLimit then l2.latch .allow else l2
    if l2.control.state.payout ∧ d = 1 ∧ ((capacity : Int) ≤ l2.sense.payout ∨ limit) then l3.fault .payoutEnd
    else if l2.control.state = .rendering ∧ !l2.renderLimit then (l2.latch .allow).enter .locked {}
    else if l2.control.state = .recovering ∧ !l2.recoverLimit then (l2.latch .allow).enter .locked {}
    else l2) = _
  dsimp only
  simp only [if_pos on]
  have state : (l.limited limit).unstalled.control.state = l.control.state := limited_state
  have sense : (l.limited limit).unstalled.sense = l.sense := limited_sense
  have bound : (l.limited limit).unstalled.recoverLimit = l.recoverLimit := limited_recoverLimit
  simp only [state, sense, bound, rendering, false_and, if_false, faulted, enter_locked]
  rfl

end

theorem renderLimit_of_mark {l : Line} {mark : Int} (h : l.control.lockMark = some mark) :
    (!l.renderLimit) = true ↔ (l.applied.allowance : Int) ≤ l.sense.payout - mark := by
  simp [Line.renderLimit, Line.excursion, h]

theorem recoverLimit_of_mark {l : Line} {mark : Int} (h : l.control.lockMark = some mark) :
    (!l.recoverLimit) = true ↔ l.sense.payout - mark ≤ -(l.applied.allowance : Int) := by
  simp [Line.recoverLimit, Line.excursion, h]

theorem faultedBy_has (a : Line) (c : FaultCause) (f g : Flag) :
    (a.faultedBy c f).has g = (a.has g || decide (f = g)) :=
  Line.has_latch f g a

/-- The encoder step of a count that pays out, or heaves in, after the line's hand (R10, R14). -/
theorem countDirection_of_hand (hand : Hand) (out : Bool) :
    countDirection hand (if out = (hand == .right) then .aLeads else .bLeads) = some (if out then 1 else -1) := by
  cases hand <;> cases out <;> rfl

section
variable {capacity : Nat} {d : Int} {limit : Bool} {l : Line}

/-- A count that ends a payout faults a DEPLOYING or SLACKING line END (R59). -/
theorem countReport_end_driven (h : l.control.state ∈ [LineState.deploying, .slacking])
    (ends : d = 1 ∧ ((capacity : Int) ≤ l.sense.payout ∨ limit = true)) :
    l.countReport capacity d limit = (l.limited limit).faultedBy .payoutEnd .payoutEnd := by
  simp only [List.mem_cons, List.not_mem_nil, or_false] at h
  have driven : l.control.state.drivePowered = true := by rcases h with h | h <;> rw [h] <;> rfl
  have payout : l.control.state.payout = true := by rcases h with h | h <;> rw [h] <;> rfl
  rw [countReport_driven driven, if_pos ⟨payout, ends⟩]

/-- A count that ends a payout faults a SLIPPING line END, with the cause that it carries (R57, R59). -/
theorem countReport_end_slipping (h : l.control.state = .slipping)
    (ends : d = 1 ∧ ((capacity : Int) ≤ l.sense.payout ∨ limit = true)) :
    l.countReport capacity d limit
      = (l.limited limit).faultedBy (l.control.record.returnTo.getD .payoutEnd) .payoutEnd := by
  rw [countReport_undriven (by rw [h]; rfl), if_pos ⟨by rw [h]; rfl, ends⟩, if_neg (by rw [h]; nofun),
    fault_slipping _ (limited_state.trans h), limited_record]
  rfl

/-- A count that ends a payout faults a RENDERING line END, and latches ALLOW beside it where the allowance is met (R59,
R78). -/
theorem countReport_end_rendering (h : l.control.state = .rendering)
    (ends : d = 1 ∧ ((capacity : Int) ≤ l.sense.payout ∨ limit = true)) :
    l.countReport capacity d limit
      = Line.faultedBy (if !l.renderLimit then (l.limited limit).latch .allow else l.limited limit) .payoutEnd
          .payoutEnd := by
  rw [countReport_undriven (by rw [h]; rfl), if_pos ⟨by rw [h]; rfl, ends⟩]
  simp only [h, true_and]
  have state : (l.limited limit).control.state = .rendering := limited_state.trans h
  split
  · exact fault_eq_faultedBy (a := (l.limited limit).latch .allow) _ (state.trans_ne nofun) (state.trans_ne nofun)
  · exact fault_eq_faultedBy _ (state.trans_ne nofun) (state.trans_ne nofun)

/-- A count short of the end of a RENDERING line's payout: the allowance alone ends the render (R77). -/
theorem countReport_rendering (h : l.control.state = .rendering)
    (short : ¬(d = 1 ∧ ((capacity : Int) ≤ l.sense.payout ∨ limit = true))) :
    l.countReport capacity d limit
      = if !l.renderLimit then ((l.limited limit).latch .allow).idleIn .locked else l.limited limit := by
  rw [countReport_undriven (by rw [h]; rfl), if_neg fun hp => short hp.2]
  simp only [h, true_and]

/-- A count at a RECOVERING line: the allowance alone ends the recovery (R79). -/
theorem countReport_recovering (h : l.control.state = .recovering) :
    l.countReport capacity d limit
      = if !l.recoverLimit then ((l.limited limit).latch .allow).idleIn .locked else (l.limited limit).unstalled := by
  rw [countReport_driven (by rw [h]; rfl), if_neg (by rw [h]; nofun)]
  simp only [h, true_and]

/-- A count that ends nothing clears the stall counter of a line that stays drive-powered (R56). -/
theorem countReport_goes_on
    (h : l.control.state = .hauling ∨ l.control.state = .rewinding
      ∨ ((l.control.state = .deploying ∨ l.control.state = .slacking)
        ∧ ¬(d = 1 ∧ ((capacity : Int) ≤ l.sense.payout ∨ limit = true)))) :
    l.countReport capacity d limit = (l.limited limit).unstalled := by
  have driven : l.control.state.drivePowered = true := by rcases h with h | h | ⟨h | h, -⟩ <;> rw [h] <;> rfl
  have recovering : l.control.state ≠ .recovering := by rcases h with h | h | ⟨h | h, -⟩ <;> rw [h] <;> nofun
  rw [countReport_driven driven, if_neg, if_neg fun hr => recovering hr.1]
  rintro ⟨payout, ends⟩
  rcases h with h | h | ⟨-, short⟩
  · rw [h] at payout; cases payout
  · rw [h] at payout; cases payout
  · exact short ends

/-- A count leaves the record of a line whose drive is off and that has no payout to end (R75, R88). -/
theorem countReport_stands
    (h : l.control.state ∈ [LineState.locked, .held, .starting, .stowed, .opened, .engaging, .opening, .faulted]
      ∨ (l.control.state = .slipping ∧ ¬(d = 1 ∧ ((capacity : Int) ≤ l.sense.payout ∨ limit = true)))) :
    l.countReport capacity d limit = l.limited limit := by
  simp only [List.mem_cons, List.not_mem_nil, or_false] at h
  have undriven : l.control.state.drivePowered = false := by
    rcases h with (h | h | h | h | h | h | h | h) | ⟨h, -⟩ <;> rw [h] <;> rfl
  have rendering : l.control.state ≠ .rendering := by
    rcases h with (h | h | h | h | h | h | h | h) | ⟨h, -⟩ <;> rw [h] <;> nofun
  rw [countReport_undriven undriven, if_neg, if_neg fun hr => rendering hr.1]
  rintro ⟨payout, ends⟩
  rcases h with h | ⟨-, short⟩
  · rcases h with h | h | h | h | h | h | h | h <;> rw [h] at payout <;> cases payout
  · exact short ends

end

end Sys2Proof.Machine

namespace Sys2Proof

open Machine

/-- Settles O21, from the report of a count in each state. -/
theorem countReportEffects : Obligations.CountReportEffects := by
  unfold Obligations.CountReportEffects
  intro n s out l step p' moved full running fitted
  have direction : countDirection (s.setup n).hand step = some (if out then 1 else -1) :=
    countDirection_of_hand (s.setup n).hand out
  have pays : (if out then 1 else -1 : Int) = 1 ↔ out = true := by cases out <;> decide
  have after : l.sense.payout + (if out then 1 else -1) = p' := by
    unfold p'; cases out <;> rfl
  refine ⟨fun low high => ?_, fun extreme => ?_⟩
  · rw [← after] at low high
    obtain ⟨within, count⟩ := Sense.count_within low high
    have line := countEvent_line (s := s) fitted direction
    rw [within, count, after] at line
    change _ = moved.countReport _ _ _ at line
    have ends : ((if out then 1 else -1 : Int) = 1
        ∧ (((s.setup n).capacity : Int) ≤ moved.sense.payout ∨ false = true)) ↔ full := by
      simp only [pays, Bool.false_eq_true, or_false]; exact Iff.rfl
    refine ⟨_, whileRunning_running _ running, ?_⟩
    rw [line]
    refine ⟨fun hf hx => countReport_end_driven hx (ends.2 hf), fun hf hx => countReport_end_slipping hx (ends.2 hf),
      fun mark hf hx hm => ?_, fun mark hf hx hm => ?_, fun mark hx hm => ?_, fun h => ?_, fun h => ?_⟩
    · rw [countReport_end_rendering (l := moved) hx (ends.2 hf)]
      simp only [renderLimit_of_mark (l := moved) hm]
      split <;> rfl
    · rw [countReport_rendering (l := moved) hx (fun h => hf (ends.1 h))]
      simp only [renderLimit_of_mark (l := moved) hm]
      split <;> rfl
    · rw [countReport_recovering (l := moved) hx]
      simp only [recoverLimit_of_mark (l := moved) hm]
      split <;> rfl
    · exact countReport_goes_on (l := moved) (by rwa [ends])
    · exact countReport_stands (l := moved) (by rwa [ends])
  · intro limit
    let counted : Line := { l with sense := { l.sense with referenced := false } }
    have beyond : l.sense.payout + (if out then 1 else -1) < -65535 ∨ 65535 < l.sense.payout + (if out then 1 else -1) := by
      cases out
      · exact .inl (by rw [show l.sense.payout = -65535 from extreme]; decide)
      · exact .inr (by rw [show l.sense.payout = 65535 from extreme]; decide)
    obtain ⟨atLimit, count⟩ := Sense.count_beyond beyond
    have line := countEvent_line (s := s) fitted direction
    rw [atLimit, count] at line
    change _ = counted.countReport _ _ _ at line
    have ends : ((if out then 1 else -1 : Int) = 1
        ∧ (((s.setup n).capacity : Int) ≤ counted.sense.payout ∨ true = true)) ↔ out = true := by
      simp only [pays, or_true, and_true]
    have inward (h : out = false) : ¬(out = true) := by rw [h]; nofun
    refine ⟨_, whileRunning_running _ running, ?_⟩
    rw [line]
    refine ⟨fun hf hx => countReport_end_driven hx (ends.2 hf), fun hf hx => countReport_end_slipping hx (ends.2 hf),
      fun hf hx => ?_, fun h => ?_, fun mark hx hm hr => ?_, fun mark hf hx hm hr => ?_, fun h => ?_⟩
    · rw [countReport_end_rendering (l := counted) hx (ends.2 hf)]
      refine ⟨rfl, rfl, by rw [faultedBy_has, decide_eq_true rfl, Bool.or_true], ?_⟩
      have latched : (counted.limited true).has .limit = true := by
        rw [Line.limited, if_pos rfl, Line.has_latch, decide_eq_true rfl, Bool.or_true]
      split <;> simp only [faultedBy_has, Line.has_latch, latched, Bool.true_or]
    · refine countReport_goes_on (l := counted) ?_
      rw [ends]
      simp only [List.mem_cons, List.not_mem_nil, or_false] at h
      rcases h with (hx | hx) | ⟨hf, hx⟩
      · exact .inl hx
      · exact .inr (.inl hx)
      · exact .inr (.inr ⟨hx, inward hf⟩)
    · rw [countReport_recovering (l := counted) hx]
      simp only [recoverLimit_of_mark (l := counted) hm]
      exact if_neg (not_le.mpr hr)
    · rw [countReport_rendering (l := counted) hx (fun h => inward hf (ends.1 h))]
      simp only [renderLimit_of_mark (l := counted) hm]
      exact if_neg (not_le.mpr hr)
    · refine countReport_stands (l := counted) ?_
      rw [ends]
      exact h.imp id fun ⟨hf, hx⟩ => ⟨hx, inward hf⟩

end Sys2Proof

/-! PROOFS. A frame event of a PRESENT station at a good slot, stage by stage: the stance code, the byte received, the
message completed, the send lane, and the next slot composed (R147 to R157). -/

namespace Sys2Proof.Machine

/-! ### One station's items written twice -/

@[simp] theorem putLink_putLink (s : State) (st : Station) (k k' : Link) :
    (s.putLink st k).putLink st k' = s.putLink st k' := by
  simp [State.putLink]

theorem onLink_onLink (s : State) (st : Station) (f g : Link → Link) :
    (s.onLink st f).onLink st g = s.onLink st fun k => g (f k) := by
  simp [State.onLink]

/-! ### The stance code -/

/-- The validated stance of a station once a good slot's code has been read (R152). -/
def Link.stanceAfter (code : BitVec 4) (k : Link) : Stance :=
  match stanceOf code with
  | some x => if k.candidate = some code then x else k.stance
  | none => k.stance

/-- A station's items once a good slot has been counted and its stance code read (R149, R152). -/
def Link.stanced (code : BitVec 4) (k : Link) : Link :=
  { k with
    badCount := 0, candidate := some code, stance := k.stanceAfter code
    linkError := k.linkError || (stanceOf code).isNone }

/-- The stance change that the code makes, to be handed over (R133, R152). -/
def Link.stanceChange (st : Station) (code : BitVec 4) (k : Link) : List DueEvent :=
  if k.stanceAfter code = k.stance then [] else [.stance st k.stance (k.stanceAfter code)]

/-- The part once a good slot of station `st` has been counted and its stance code read. -/
def State.stanced (st : Station) (code : BitVec 4) (s : State) : State :=
  { s.onLink st (Link.stanced code) with due := s.due ++ (s.link st).stanceChange st code }

theorem stanceStep_eq_stanced (st : Station) (code : BitVec 4) (s : State) :
    (s.onLink st fun k => { k with badCount := 0 }).stanceStep st code = s.stanced st code := by
  have link : (s.onLink st fun k => { k with badCount := 0 }).link st = { s.link st with badCount := 0 } :=
    State.link_onLink_self ..
  unfold State.stanceStep
  rw [link]
  dsimp only
  rw [onLink_onLink]
  unfold State.stanced Link.stanceChange State.latchLinkError State.handOver
  cases code? : stanceOf code with
  | none =>
    dsimp only
    simp only [onLink_onLink, Link.stanceAfter, code?, if_true, List.append_nil]
    simp only [State.onLink, Link.stanced, Link.stanceAfter, code?, Option.isNone_none, Bool.or_true]
    rfl
  | some x =>
    dsimp only
    by_cases change : (s.link st).candidate = some code ∧ x ≠ (s.link st).stance
    · rw [if_pos change]
      simp only [onLink_onLink, Link.stanceAfter, code?, change.1, if_true, if_neg change.2]
      simp only [State.onLink, Link.stanced, Link.stanceAfter, code?, change.1, if_true, Option.isNone_some, Bool.or_false]
      rfl
    · have same : (s.link st).stanceAfter code = (s.link st).stance := by
        simp only [Link.stanceAfter, code?]
        split
        next seen => exact not_not.mp fun other => change ⟨seen, other⟩
        next => rfl
      simp only [if_neg change, same, if_true, List.append_nil]
      simp only [State.onLink, Link.stanced, same, code?, Option.isNone_some, Bool.or_false]
      rfl

@[simp] theorem stanced_link_self (st : Station) (code : BitVec 4) (s : State) :
    (s.stanced st code).link st = (s.link st).stanced code := State.link_onLink_self ..

/-! ### The byte received -/

/-- A station's items once a slot has latched a byte: take stands, the gap count is 0, `next` is expected, and link error
latches where the message is discarded (R153, R154). -/
def Link.byteTaken (next : Incoming) (discarded : Bool) (k : Link) : Link :=
  { k with recv := .taken, gap := 0, incoming := next, linkError := k.linkError || discarded }

theorem receiveStep_latched {s : State} {st : Station} {b : Byte} (h : (s.link st).recv = .oneLook b) :
    s.receiveStep st true b = (s.onLink st fun k => { k with recv := .taken }).takeByte st b := by
  have step : recvStep true b (s.link st).recv = (.taken, some b) := by rw [h]; simp [recvStep]
  rw [State.receiveStep, step]

theorem receiveStep_unlatched {s : State} {st : Station} {offer : Bool} {b : Byte}
    (h : (s.link st).recv ≠ .oneLook b ∨ offer = false) :
    s.receiveStep st offer b
      = (s.onLink st fun k => { k with recv := (recvStep offer b (s.link st).recv).1 }).gapStep st := by
  have step : (recvStep offer b (s.link st).recv).2 = none := by
    rw [Option.eq_none_iff_forall_ne_some]
    intro c hc
    obtain ⟨offers, looked, -⟩ := (recvStep_latched_iff _ _ _ _).mp hc
    rcases h with h | h
    · exact h looked
    · rw [h] at offers; cases offers
  rw [State.receiveStep, step]

section
variable {s : State} {st : Station} {b : Byte} (looked : (s.link st).recv = .oneLook b)
include looked

/-- The kind byte (R154). -/
theorem receiveStep_kind (h : (s.link st).incoming = .kind) :
    s.receiveStep st true b = s.onLink st (Link.byteTaken (.length b) false) := by
  rw [receiveStep_latched looked, State.takeByte, State.link_onLink_self]
  dsimp only
  rw [h]
  dsimp only
  simp only [State.setIncoming, onLink_onLink]
  simp only [State.onLink, Link.byteTaken, Bool.or_false]

/-- A length above 40 discards the message (R154). -/
theorem receiveStep_tooLong {kind : Byte} (h : (s.link st).incoming = .length kind) (long : 40 < b.toNat) :
    s.receiveStep st true b = s.onLink st (Link.byteTaken .kind true) := by
  rw [receiveStep_latched looked, State.takeByte, State.link_onLink_self]
  dsimp only
  rw [h]
  dsimp only
  rw [if_pos long]
  simp only [State.setIncoming, State.latchLinkError, onLink_onLink]
  simp only [State.onLink, Link.byteTaken, Bool.or_true]

/-- The length byte (R154). -/
theorem receiveStep_length {kind : Byte} (h : (s.link st).incoming = .length kind) (some' : b ≠ 0#8)
    (short : b.toNat ≤ 40) :
    s.receiveStep st true b = s.onLink st (Link.byteTaken (.body kind b.toNat b.toNat []) false) := by
  rw [receiveStep_latched looked, State.takeByte, State.link_onLink_self]
  dsimp only
  rw [h]
  dsimp only
  rw [if_neg (Nat.not_lt.mpr short), if_neg some']
  simp only [State.setIncoming, onLink_onLink]
  simp only [State.onLink, Link.byteTaken, Bool.or_false]

/-- A body byte that is not the last (R154). -/
theorem receiveStep_inner {kind : Byte} {length remaining : Nat} {bytes : List Byte}
    (h : (s.link st).incoming = .body kind length remaining bytes) (inner : 2 ≤ remaining) :
    s.receiveStep st true b
      = s.onLink st (Link.byteTaken (.body kind length (remaining - 1) (bytes ++ [b])) false) := by
  rw [receiveStep_latched looked, State.takeByte, State.link_onLink_self]
  dsimp only
  rw [h]
  dsimp only
  rw [if_neg (by omega)]
  simp only [State.setIncoming, onLink_onLink]
  simp only [State.onLink, Link.byteTaken, Bool.or_false]

/-- A length of 0 completes the message (R154). -/
theorem receiveStep_empty {kind : Byte} (h : (s.link st).incoming = .length kind) (zero : b = 0#8) :
    s.receiveStep st true b = (s.onLink st (Link.byteTaken .kind false)).messageComplete st kind 0 [] := by
  rw [receiveStep_latched looked, State.takeByte, State.link_onLink_self]
  dsimp only
  rw [h]
  dsimp only
  rw [if_neg (by rw [zero]; decide), if_pos zero]
  simp only [State.setIncoming, onLink_onLink]
  simp only [State.onLink, Link.byteTaken, Bool.or_false]

/-- The last body byte completes the message (R154). -/
theorem receiveStep_last {kind : Byte} {length remaining : Nat} {bytes : List Byte}
    (h : (s.link st).incoming = .body kind length remaining bytes) (last : remaining ≤ 1) :
    s.receiveStep st true b
      = (s.onLink st (Link.byteTaken .kind false)).messageComplete st kind length (bytes ++ [b]) := by
  rw [receiveStep_latched looked, State.takeByte, State.link_onLink_self]
  dsimp only
  rw [h]
  dsimp only
  rw [if_pos last]
  simp only [State.setIncoming, onLink_onLink]
  simp only [State.onLink, Link.byteTaken, Bool.or_false]

end

/-- Where no byte is latched the gap count of a part-received message advances, and at 32 the message is aborted (R154). -/
def Link.gapped (k : Link) : Link :=
  if k.incoming = .kind then k
  else if 32 ≤ k.gap + 1 then { k with incoming := .kind, gap := 0, linkError := true }
  else { k with gap := k.gap + 1 }

theorem putLink_link_self (s : State) (st : Station) : s.putLink st (s.link st) = s := by
  unfold State.putLink State.link
  rw [show s.links.set (Station.index st) s.links[Station.index st] = s.links from Vector.set_getElem_self _]

theorem gapStep_eq (s : State) (st : Station) : s.gapStep st = s.onLink st Link.gapped := by
  unfold State.gapStep State.onLink Link.gapped
  dsimp only
  split_ifs
  · exact (putLink_link_self s st).symm
  · rfl
  · rfl

/-! ### The send lane, and the next slot -/

/-- The send lane takes a good slot's take bit, or a transfer begins; `before` is the reply slot as it stood before the byte
received (R156, R157, log 14). -/
def State.transferred (st : Station) (slot : BitVec 32) (before : Option Reply) (u : State) : State :=
  if (u.link st).send = .idle then
    if before.isNone && (u.link st).replySlot.isSome then u else u.beginTransfer st
  else u.sendStep st (slotTake slot)

/-- A good slot of a PRESENT station (R147 to R157). -/
theorem frameEvent_good {s : State} {st : Station} {slot : BitVec 32} (present : (s.link st).presence = .present)
    (good : slotGood slot = true) :
    s.frameEvent st slot
      = (((s.stanced st (slotStance slot)).receiveStep st (slotOffer slot) (slotByte slot)).transferred st slot
          (s.link st).replySlot).composeSlot st := by
  have counted : s.presenceStep st true = s.onLink st fun k => { k with badCount := 0 } := by
    unfold State.presenceStep
    dsimp only
    rw [present]
  have there : (s.onLink st fun k => { k with badCount := 0 }).present st = true := by
    rw [State.present, State.link_onLink_self]
    exact beq_iff_eq.mpr present
  unfold State.frameEvent
  dsimp only
  rw [good, counted, if_pos there, if_pos rfl]
  unfold State.contentStep
  dsimp only
  rw [stanceStep_eq_stanced, stanced_link_self]
  rfl

end Sys2Proof.Machine

/-! PROOFS. The layout of the slots in both directions, and the leads that carry the frame: settles O46. -/

namespace Sys2Proof.Machine

/-! ### Fields of a word that is put together -/

theorem oneBit_getLsbD (b : Bool) : (oneBit b).getLsbD 0 = b := by cases b <;> rfl

theorem extract_append_above {m n w : Nat} (x : BitVec m) (y : BitVec n) (k : Nat) (h : n ≤ k) :
    (x ++ y).extractLsb' k w = x.extractLsb' (k - n) w := by
  ext i hi
  rw [BitVec.getElem_extractLsb', BitVec.getElem_extractLsb', BitVec.getLsbD_append, if_neg (by omega)]
  congr 1
  omega

theorem getLsbD_append_above {m n : Nat} (x : BitVec m) (y : BitVec n) (k : Nat) (h : n ≤ k) :
    (x ++ y).getLsbD k = x.getLsbD (k - n) := by
  rw [BitVec.getLsbD_append, if_neg (by omega)]

theorem extract_append_here {m n : Nat} (x : BitVec m) (y : BitVec n) : (x ++ y).extractLsb' 0 n = y := by
  ext i hi
  rw [BitVec.getElem_extractLsb', BitVec.getLsbD_append, if_pos (by omega), Nat.zero_add, BitVec.getLsbD_eq_getElem hi]

theorem getLsbD_append_here {m : Nat} (x : BitVec m) (b : Bool) : (x ++ oneBit b).getLsbD 0 = b := by
  rw [BitVec.getLsbD_append, if_pos Nat.one_pos, oneBit_getLsbD]

/-! ### Parity -/

theorem foldl_xor_start (slot : Nat → Bool) (is : List Nat) (p : Bool) :
    is.foldl (fun p i => p ^^ slot i) p = (p ^^ is.foldl (fun p i => p ^^ slot i) false) := by
  induction is generalizing p with
  | nil => simp
  | cons i is ih => rw [List.foldl_cons, List.foldl_cons, ih, ih (false ^^ slot i)]; simp

/-- An odd number of bits is set exactly where their parity is odd. -/
theorem foldl_xor_countP (slot : Nat → Bool) (is : List Nat) :
    is.foldl (fun p i => p ^^ slot i) false = decide (is.countP slot % 2 = 1) := by
  induction is with
  | nil => rfl
  | cons i is ih =>
    rw [List.foldl_cons, foldl_xor_start, ih, List.countP_cons]
    cases slot i
    · simp
    · rw [if_pos rfl, Bool.false_xor, Bool.true_xor, ← decide_not]
      exact decide_eq_decide.mpr (by omega)

theorem oddParity_eq (slot : BitVec 32) :
    oddParity slot = decide (((List.range 32).countP fun i => slot.getLsbD i) % 2 = 1) :=
  foldl_xor_countP _ _

/-- The last bit of a slot turns its parity. -/
theorem oddParity_append (bits : BitVec 31) (last : Bool) :
    oddParity (bits ++ oneBit last) = (last ^^ oddParity (bits ++ oneBit false)) := by
  have split (c : Bool) : oddParity (bits ++ oneBit c)
      = (c ^^ (List.range 31).foldl (fun p i => p ^^ bits.getLsbD i) false) := by
    rw [oddParity, List.range_succ_eq_map, List.foldl_cons, List.foldl_map, foldl_xor_start]
    rw [getLsbD_append_here, Bool.false_xor]
    simp only [getLsbD_append_above, Nat.succ_eq_add_one, Nat.le_add_left, Nat.add_sub_cancel]
  rw [split last, split false]
  simp

/-! ### The downstream slot -/

/-- The 31 bits of a downstream slot above its parity (R172). -/
def slotBits (standing : BitVec 4) (stopped releasing alarm restart : Bool) (byte : Byte) (offer take : Bool) : BitVec 31 :=
  slotMarker ++ standing ++ oneBit stopped ++ oneBit releasing ++ oneBit alarm ++ oneBit restart ++ byte
    ++ oneBit offer ++ oneBit take ++ 0#7

theorem compose_eq (s : State) (st : Station) :
    ∃ last, s.compose st
        = slotBits (s.standing st) s.berth.stopped s.releasing s.alarm (s.link st).restartInd (s.link st).send.byte
            (s.link st).send.offers (s.link st).recv.takes ++ oneBit last
      ∧ oddParity (s.compose st) = false := by
  unfold State.compose
  extract_lets k bits even
  cases odd : oddParity even with
  | false => exact ⟨false, rfl, odd⟩
  | true =>
    refine ⟨true, rfl, ?_⟩
    rw [if_pos rfl]
    exact (oddParity_append bits true).trans (congrArg (true ^^ ·) odd)

/-- Each field of a downstream slot lies where R172 puts it. -/
theorem slotBits_fields (standing : BitVec 4) (stopped releasing alarm restart : Bool) (byte : Byte)
    (offer take last : Bool) :
    let d : BitVec 32 := slotBits standing stopped releasing alarm restart byte offer take ++ oneBit last
    d.extractLsb' 26 6 = slotMarker ∧ d.extractLsb' 22 4 = standing ∧ d.getLsbD 21 = stopped ∧ d.getLsbD 20 = releasing
      ∧ d.getLsbD 19 = alarm ∧ d.getLsbD 18 = restart ∧ d.extractLsb' 10 8 = byte ∧ d.getLsbD 9 = offer
      ∧ d.getLsbD 8 = take ∧ d.extractLsb' 1 7 = 0#7 := by
  intro d
  refine ⟨?_, ?_, ?_, ?_, ?_, ?_, ?_, ?_, ?_, ?_⟩
  all_goals
    simp only [d, slotBits, extract_append_above, getLsbD_append_above, Nat.reduceLeDiff, Nat.reduceSub,
      extract_append_here, getLsbD_append_here]
  rfl

theorem entryOf_isSome (st : Station) (es : List Entry) : (entryOf st es).isSome = es.any fun e => e.station == st :=
  List.isSome_find?

/-- What a composed slot carries (R147, R172). -/
structure Composed (s : State) (st : Station) (d : BitVec 32) : Prop where
  good : slotGood d = true
  standing : d.extractLsb' 22 4 = s.standing st
  stopped : d.getLsbD 21 = s.berth.stopped
  releasing : d.getLsbD 20 = s.releasing
  alarm : d.getLsbD 19 = s.alarm
  restart : d.getLsbD 18 = (s.link st).restartInd
  byte : d.extractLsb' 10 8 = (s.link st).send.byte
  offer : d.getLsbD 9 = (s.link st).send.offers
  take : d.getLsbD 8 = (s.link st).recv.takes
  spare : d.extractLsb' 1 7 = 0#7

theorem compose_composed (s : State) (st : Station) : Composed s st (s.compose st) := by
  obtain ⟨last, bits, even⟩ := compose_eq s st
  obtain ⟨marker, standing, stopped, releasing, alarm, restart, byte, offer, take, spare⟩ :=
    slotBits_fields (s.standing st) s.berth.stopped s.releasing s.alarm (s.link st).restartInd (s.link st).send.byte
      (s.link st).send.offers (s.link st).recv.takes last
  rw [← bits] at marker standing stopped releasing alarm restart byte offer take spare
  refine ⟨?_, standing, stopped, releasing, alarm, restart, byte, offer, take, spare⟩
  rw [slotGood, marker, even]
  rfl

/-- The next slot of a station is composed from the part as it then stands, which the composing leaves (R147). -/
theorem composeSlot_composed (s : State) (st : Station) :
    Composed (s.composeSlot st) st ((s.composeSlot st).link st).downstream := by
  have composed := compose_composed s st
  have link : (s.composeSlot st).link st = { s.link st with downstream := s.compose st } := State.link_onLink_self ..
  rw [link]
  obtain ⟨good, standing, stopped, releasing, alarm, restart, byte, offer, take, spare⟩ := composed
  exact ⟨good, standing, stopped, releasing, alarm, by rw [link]; exact restart, by rw [link]; exact byte,
    by rw [link]; exact offer, by rw [link]; exact take, spare⟩

/-! ### The upstream slot -/

theorem slots_laidOut : slotsAsLaidOut := by
  refine ⟨fun slot => ⟨?_, fun i hi => ?_, fun i hi => ?_, rfl, rfl⟩, fun code x => ?_⟩
  · rw [slotGood, oddParity_eq, Bool.and_eq_true, beq_iff_eq]
    refine and_congr Iff.rfl ?_
    rw [Bool.not_eq_true', decide_eq_false_iff_not]
    omega
  · rw [slotStance, BitVec.getLsbD_extractLsb', decide_eq_true hi, Bool.true_and]
  · rw [slotByte, BitVec.getLsbD_extractLsb', decide_eq_true hi, Bool.true_and]
  · simp only [List.mem_cons, Prod.mk.injEq, List.not_mem_nil, or_false]
    unfold stanceOf
    split_ifs with idle stop release
    · subst idle; cases x <;> decide
    · subst stop; cases x <;> decide
    · subst release; cases x <;> decide
    · simp [idle, stop, release]

/-! ### The leads -/

/-- The 32 clocks of a station's slot carry it from bit 31 down (R147). -/
theorem bitAt_frame (slots : Vector (BitVec 32) 4) (j i : Nat) (hj : j < 4) (hi : i < 32) :
    (DownstreamLead.frame slots).bitAt (Fin.ofNat 512 (128 * j + i)) = some (slots[j].getLsbD (31 - i)) := by
  have clock : (Fin.ofNat 512 (128 * j + i)).val = 128 * j + i := Nat.mod_eq_of_lt (by omega)
  have place : (128 * j + i) / 128 = j := by omega
  have within : (128 * j + i) % 128 = i := by omega
  unfold DownstreamLead.bitAt
  simp only [clock, place, within, if_pos hi]

theorem PartMoves.running {s t : State} (m : PartMoves s t) (h : s.running = true) : t.running = true := by
  induction m with
  | refl => exact h
  | tail _ m ih => exact m.running ih

end Sys2Proof.Machine

namespace Sys2Proof

open Machine

/-- Settles O46: the slot is composed last (`composeSlot_composed`). -/
theorem downstreamSlotComposed : Obligations.DownstreamSlotComposed := by
  unfold Obligations.DownstreamSlotComposed
  refine ⟨slots_laidOut, fun st slot s running => ⟨_, whileRunning_running _ running, ?_⟩⟩
  have runs : (s.frameEvent st slot).running = true := (frameEvent_partMoves st slot s).running running
  have composed : Composed (s.frameEvent st slot) st ((s.frameEvent st slot).link st).downstream :=
    composeSlot_composed _ st
  generalize s.frameEvent st slot = t at *
  have leads : t.linkLeads
      = { linkClock := .running, frameStart := .running
          downstream := .frame #v[(t.link .quay).downstream, (t.link .vessel).downstream, (t.link .panel).downstream,
            (t.link .service).downstream] } := if_pos runs
  refine ⟨composed.good, composed.standing.trans ?_, composed.stopped, composed.releasing, composed.alarm.trans ?_,
    composed.restart, fun b offering => ?_, fun silent => ?_, ?_, composed.spare, by rw [leads], by rw [leads],
    fun x i hi => ?_⟩
  · simp only [State.standing, entryOf_isSome]
    rfl
  · simp only [State.alarm, State.anyLine, Line.overloaded, Bool.or_assoc]
  · rw [composed.byte, composed.offer, offering]
    exact ⟨rfl, rfl⟩
  · rw [composed.byte, composed.offer]
    generalize (t.link st).send = lane at silent
    cases lane with
    | offering b => exact absurd rfl (silent b)
    | idle | awaitingClear => exact ⟨rfl, rfl⟩
  · rw [composed.take]
    generalize (t.link st).recv = lane
    cases lane <;> simp [RecvLane.takes]
  · rw [leads]
    cases x with
    | quay => exact bitAt_frame _ 0 i (by decide) hi
    | vessel => exact bitAt_frame _ 1 i (by decide) hi
    | panel => exact bitAt_frame _ 2 i (by decide) hi
    | service => exact bitAt_frame _ 3 i (by decide) hi

end Sys2Proof

/-! PROOFS. A good slot that completes no message: its stance code, its byte, and the gap count: settles O42. -/

namespace Sys2Proof.Machine

/-- The incoming message once a byte that does not complete it has been latched, and whether it is discarded (R154). -/
def Incoming.after (b : Byte) : Incoming → Incoming × Bool
  | .kind => (.length b, false)
  | .length k => if 40 < b.toNat then (.kind, true) else (.body k b.toNat b.toNat [], false)
  | .body k size remaining bytes => (.body k size (remaining - 1) (bytes ++ [b]), false)

theorem receiveStep_incomplete {s : State} {st : Station} {slot : BitVec 32} (offers : slotOffer slot = true)
    (looked : (s.link st).recv = .oneLook (slotByte slot)) (incomplete : (s.link st).completes slot = false) :
    s.receiveStep st (slotOffer slot) (slotByte slot)
      = s.onLink st (Link.byteTaken ((s.link st).incoming.after (slotByte slot)).1
          ((s.link st).incoming.after (slotByte slot)).2) := by
  rw [offers]
  cases incoming : (s.link st).incoming with
  | kind => exact receiveStep_kind looked incoming
  | length kind =>
    have nonzero : slotByte slot ≠ 0#8 := by simpa [Link.completes, offers, looked, incoming] using incomplete
    by_cases long : 40 < (slotByte slot).toNat
    · rw [Incoming.after, if_pos long]
      exact receiveStep_tooLong looked incoming long
    · rw [Incoming.after, if_neg long]
      exact receiveStep_length looked incoming nonzero (Nat.le_of_not_lt long)
  | body kind length remaining bytes =>
    have inner : ¬remaining ≤ 1 := by simpa [Link.completes, offers, looked, incoming] using incomplete
    exact receiveStep_inner looked incoming (by omega)

/-- A station's items after a good slot that latches no byte (R153, R154). -/
theorem receiveStep_unlatched_link {s : State} {st : Station} {offer : Bool} {b : Byte}
    (h : (s.link st).recv ≠ .oneLook b ∨ offer = false) :
    s.receiveStep st offer b
      = s.onLink st fun k => Link.gapped { k with recv := (recvStep offer b (s.link st).recv).1 } := by
  rw [receiveStep_unlatched h, gapStep_eq, onLink_onLink]

theorem Link.gapped_recv (k : Link) : k.gapped.recv = k.recv := by
  unfold Link.gapped
  split_ifs <;> rfl

/-- The receive lane takes its step at every good slot that completes no message (R153). -/
theorem receiveStep_recv {s : State} {st : Station} {slot : BitVec 32} (incomplete : (s.link st).completes slot = false) :
    ((s.receiveStep st (slotOffer slot) (slotByte slot)).link st).recv
      = (recvStep (slotOffer slot) (slotByte slot) (s.link st).recv).1 := by
  by_cases latched : slotOffer slot = true ∧ (s.link st).recv = .oneLook (slotByte slot)
  · obtain ⟨offers, looked⟩ := latched
    rw [receiveStep_incomplete offers looked incomplete, State.link_onLink_self, offers, looked]
    simp [Link.byteTaken, recvStep]
  · rw [receiveStep_unlatched_link, State.link_onLink_self, Link.gapped_recv]
    rw [not_and_or, Bool.not_eq_true] at latched
    exact latched.symm

/-! ### The send lane leaves what the byte received works on -/

theorem transferred_sendOnly {u : State} {st : Station} {slot : BitVec 32} (before : Option Reply)
    (restarts : st ∈ u.pendingRestart → ¬(u.link st).endsReply slot) :
    SendOnly st u (u.transferred st slot before) := by
  unfold State.transferred
  split
  · split
    · exact .refl st u
    · exact beginTransfer_sendOnly st u
  · exact sendStep_sendOnly st slot u restarts

/-- What follows the byte received works the send lane and the next slot alone, where the part does not restart. -/
theorem frameEvent_good_sendOnly {s u : State} {st : Station} {slot : BitVec 32}
    (present : (s.link st).presence = .present) (good : slotGood slot = true)
    (received : (s.stanced st (slotStance slot)).receiveStep st (slotOffer slot) (slotByte slot) = u)
    (restarts : st ∈ u.pendingRestart → ¬(u.link st).endsReply slot) : SendOnly st u (s.frameEvent st slot) := by
  rw [frameEvent_good present good, received]
  exact (transferred_sendOnly _ restarts).trans (composeSlot_sendOnly st _)

/-- The items of a station that the send lane leaves. -/
theorem Link.sentTo.same {k k' : Link} (h : k.sentTo k') :
    k'.presence = k.presence ∧ k'.goodCount = k.goodCount ∧ k'.badCount = k.badCount ∧ k'.candidate = k.candidate
      ∧ k'.stance = k.stance ∧ k'.recv = k.recv ∧ k'.incoming = k.incoming ∧ k'.gap = k.gap
      ∧ k'.linkError = k.linkError ∧ k'.restartInd = k.restartInd := by
  unfold Link.sentTo at h
  rw [h]
  exact ⟨rfl, rfl, rfl, rfl, rfl, rfl, rfl, rfl, rfl, rfl⟩

/-- The items of a station that a byte received leaves. -/
theorem Link.receivedTo.same {k k' : Link} (h : k.receivedTo k') :
    k'.presence = k.presence ∧ k'.badCount = k.badCount ∧ k'.candidate = k.candidate ∧ k'.stance = k.stance
      ∧ k'.send = k.send ∧ k'.outgoing = k.outgoing ∧ k'.replySlot = k.replySlot ∧ k'.groupMarks = k.groupMarks
      ∧ k'.lineMarks = k.lineMarks ∧ k'.restartInd = k.restartInd := by
  unfold Link.receivedTo at h
  rw [h]
  exact ⟨rfl, rfl, rfl, rfl, rfl, rfl, rfl, rfl, rfl, rfl⟩

theorem Link.endsReply_congr {k k' : Link} {slot : BitVec 32} (send : k'.send = k.send) (outgoing : k'.outgoing = k.outgoing) :
    k'.endsReply slot ↔ k.endsReply slot := by
  unfold Link.endsReply
  rw [send, outgoing]

/-- A good slot that completes no message, in two parts: the byte received, then the send lane. -/
theorem frameEvent_incomplete {s : State} {st : Station} {slot : BitVec 32}
    (present : (s.link st).presence = .present) (good : slotGood slot = true)
    (incomplete : (s.link st).completes slot = false) (restarts : st ∈ s.pendingRestart → ¬(s.link st).endsReply slot) :
    ∃ u, (s.stanced st (slotStance slot)).receiveStep st (slotOffer slot) (slotByte slot) = u
      ∧ ReceiveOnly st (s.stanced st (slotStance slot)) u ∧ SendOnly st u (s.frameEvent st slot) := by
  have link := stanced_link_self st (slotStance slot) s
  have received := receiveStep_receiveOnly st slot (s.stanced st (slotStance slot)) (by rw [link]; exact incomplete)
  refine ⟨_, rfl, received, frameEvent_good_sendOnly present good rfl ?_⟩
  rw [received.1.1]
  obtain ⟨-, -, -, -, send, outgoing, -⟩ := received.2.same
  rw [link] at send outgoing
  intro pending
  exact fun ends => restarts pending ((Link.endsReply_congr send outgoing).1 ends)

end Sys2Proof.Machine

namespace Sys2Proof

open Machine

/-- Settles O42. -/
theorem goodSlotTaken : Obligations.GoodSlotTaken := by
  unfold Obligations.GoodSlotTaken
  intro st slot s k code b running present good incomplete restarts
  refine ⟨_, whileRunning_running _ running, ?_⟩
  obtain ⟨u, hu, received, sent⟩ := frameEvent_incomplete present good incomplete restarts
  have composed : Composed (s.frameEvent st slot) st ((s.frameEvent st slot).link st).downstream :=
    composeSlot_composed _ st
  have due : (s.frameEvent st slot).due = (s.stanced st code).due := sent.1.due.trans received.1.due
  generalize s.frameEvent st slot = t at *
  obtain ⟨-, -, badCount, candidate, stance, recv, incoming, gap, linkError, -⟩ := sent.2.same
  obtain ⟨-, badCount', candidate', stance', -⟩ := received.2.same
  have link : (s.stanced st code).link st = k.stanced code := stanced_link_self st code s
  rw [link] at badCount' candidate' stance'
  refine ⟨candidate.trans candidate', stance.trans stance', due.trans ?_, badCount.trans badCount', recv.trans ?_,
    fun looked offers => ?_, fun unlatched => ?_, ?_, sent.1.1 ▸ received.1.1 ▸ rfl, sent.1.1 ▸ received.1.1 ▸ rfl,
    sent.1.1 ▸ received.1.1 ▸ rfl⟩
  · change s.due ++ k.stanceChange st code = _
    unfold Link.stanceChange Link.stanceAfter
    cases stanceOf code with
    | none => simp
    | some x =>
      by_cases seen : k.candidate = some code
      · by_cases same : x = k.stance <;> simp [seen, same]
      · simp [seen]
  · rw [← hu, receiveStep_recv (by rw [link]; exact incomplete), link]
    change (recvStep (slotOffer slot) b k.recv).1 = _
    generalize k.recv = lane, slotOffer slot = offer
    cases lane with
    | idle => cases offer <;> rfl
    | taken => cases offer <;> rfl
    | oneLook c =>
      cases offer with
      | false => rfl
      | true =>
        by_cases again : b = c
        · subst again
          simp [recvStep]
        · simp [recvStep, again, Ne.symm again]
  · rw [receiveStep_incomplete offers (by rw [link]; exact looked) (by rw [link]; exact incomplete), link] at hu
    have ulink : u.link st = (k.stanced code).byteTaken (k.incoming.after b).1 (k.incoming.after b).2 := by
      rw [← hu, State.link_onLink_self, link]
      rfl
    rw [gap, incoming, linkError, ulink]
    refine ⟨rfl, fun h => ?_, fun kind h => ?_, fun kind length remaining bytes h => ?_, ?_⟩
    · rw [h]; rfl
    · rw [h]; simp only [Incoming.after, Link.byteTaken]; split <;> rfl
    · rw [h]; rfl
    · simp only [Link.byteTaken, Link.stanced, Bool.or_eq_true, Option.isNone_iff_eq_none, or_assoc]
      refine or_congr Iff.rfl (or_congr Iff.rfl ?_)
      cases k.incoming with
      | kind => simp [Incoming.after]
      | length kind => by_cases long : 40 < b.toNat <;> simp [Incoming.after, long]
      | body => simp [Incoming.after]
  · intro aborts
    rw [receiveStep_unlatched_link (by rw [link]; exact unlatched), link] at hu
    have ulink : u.link st
        = Link.gapped { k.stanced code with recv := (recvStep (slotOffer slot) b k.recv).1 } := by
      rw [← hu, State.link_onLink_self, link]
      rfl
    rw [gap, incoming, linkError, ulink]
    unfold Link.gapped aborts
    by_cases between : k.incoming = .kind
    · simp [Link.stanced, between]
    · by_cases full : 31 ≤ k.gap <;> simp [Link.stanced, between, full]
  · rw [composed.take]
    generalize (t.link st).recv = lane
    cases lane <;> simp [RecvLane.takes]

end Sys2Proof

/-! PROOFS. Power-on, the reset input, the load of the line setups and a loss of power: settles O47 and O48. -/

namespace Sys2Proof.Machine

/-- Every block holds its power-on values, but for the sign kept for each direction lead (R15, R18, R35, R66, R98, R111,
R132, R146, R160, R169). -/
structure AtPowerOn (t : State) : Prop where
  line : ∀ n, ∃ heaving, t.line n = { lineAtPowerOn with sense := { senseAtPowerOn with heaving := heaving } }
  profiles : t.table.profiles = defaultProfiles
  settings : t.table.settings = defaultSettings
  records : t.records = Vector.replicate 4 emptyRecord
  berth : t.berth = berthAtReset
  due : t.due = []
  links : t.links = Vector.replicate 4 linkAtPowerOn
  pendingRestart : t.pendingRestart = []

theorem powerOn_atPowerOn (s : State) : AtPowerOn s.powerOn where
  line n := ⟨false, by simp [State.powerOn, State.load, State.powerOnValues, State.line]; rfl⟩
  profiles := (by
    change (GroupTable.load s.abandonSave.table.defaults).profiles = _
    unfold GroupTable.load
    split <;> rfl)
  settings := (by
    change (GroupTable.load s.abandonSave.table.defaults).settings = _
    unfold GroupTable.load
    split <;> rfl)
  records := rfl
  berth := rfl
  due := rfl
  links := rfl
  pendingRestart := rfl

theorem assertReset_eq {s : State} (h : s.powered = true) :
    s.assertReset = { s.abandonSave.powerOnValues with lines := s.linesAtAssertion, resetAsserted := true } := by
  unfold State.assertReset
  rw [if_pos h]

theorem assertReset_line {s : State} (h : s.powered = true) (n : LineNo) : s.assertReset.line n = (s.line n).atAssertion := by
  rw [assertReset_eq h]
  exact State.linesAtAssertion_get s n

theorem assertReset_atPowerOn {s : State} (h : s.powered = true) : AtPowerOn s.assertReset where
  line n := ⟨(s.line n).sense.heaving, assertReset_line h n⟩
  profiles := by rw [assertReset_eq h]; rfl
  settings := by rw [assertReset_eq h]; rfl
  records := by rw [assertReset_eq h]; rfl
  berth := by rw [assertReset_eq h]; rfl
  due := by rw [assertReset_eq h]; rfl
  links := by rw [assertReset_eq h]; rfl
  pendingRestart := by rw [assertReset_eq h]; rfl

theorem abandonSave_pending (s : State) : s.abandonSave.pending = s.pending ∧ s.abandonSave.resetAsserted = s.resetAsserted := by
  unfold State.abandonSave
  split <;> exact ⟨rfl, rfl⟩

theorem AtPowerOn.link {t : State} (h : AtPowerOn t) (x : Station) : t.link x = linkAtPowerOn := link_of_reset h.links x

theorem AtPowerOn.record {t : State} (h : AtPowerOn t) (g : GroupNo) : t.record g = emptyRecord := by
  unfold State.record
  rw [h.records, Fin.getElem_fin, Vector.getElem_replicate]

theorem AtPowerOn.profile {t : State} (h : AtPowerOn t) (g : GroupNo) : t.profile g = printedProfile := by
  unfold State.profile
  rw [h.profiles, defaultProfiles, Fin.getElem_fin, Vector.getElem_replicate]
  rfl

theorem replicate_marks (k : Nat) (b : Bool) (i : Fin k) : (Vector.replicate k b)[i] = b := by
  rw [Fin.getElem_fin, Vector.getElem_replicate]

/-- The default setups are those of the default columns (R99, R103). -/
theorem defaultSetups_printed (n : LineNo) : setupPrinted n defaultSetups[n] := by
  revert n
  unfold setupPrinted
  decide

/-- The setups in force after a load from a store (R110). -/
theorem GroupTable.load_setups (t : GroupTable) :
    (∀ us, setupsOfImage t.store = some us → t.store.check = Config.checkWord t.store.setups →
        t.load.setups = us ∧ t.load.storeState = .current ∧ t.load.source = .store)
      ∧ (setupsOfImage t.store = none ∨ t.store.check ≠ Config.checkWord t.store.setups →
        (∀ n : LineNo, setupPrinted n t.load.setups[n]) ∧ t.load.storeState = .stale ∧ t.load.source = .default) := by
  constructor
  · intro us image check
    rw [GroupTable.load_some ((checkedSetups_eq_some _ us).2 ⟨check, image⟩)]
    exact ⟨rfl, rfl, rfl⟩
  · intro fails
    rw [GroupTable.load_none ((checkedSetups_eq_none _).2 fails)]
    exact ⟨defaultSetups_printed, rfl, rfl⟩

theorem releaseReset_eq {s : State} (powered : s.powered = true) (asserted : s.resetAsserted = true) :
    s.releaseReset = { s.load with resetAsserted := false } := by
  unfold State.releaseReset
  rw [if_pos asserted, if_pos powered]

theorem abandonSave_eq {s : State} {img : StoreImage} (h : s.table.saveCopy = some img) :
    ∃ store, s.abandonSave
      = { s with
          freeIndex := s.freeIndex + 1
          table := { s.table with store := store, saveCopy := none, storeState := .stale } } := by
  unfold State.abandonSave
  simp only [h]
  exact ⟨_, rfl⟩

/-- Each of the three events that abandon a save leaves the store that the abandonment leaves (R111). -/
theorem exec_abandons {s : State} {c : Instr} (h : c ∈ [Instr.powerLoss, .resetInputAssert, .powerOn])
    (powered : c = .resetInputAssert → s.powered = true) :
    ∃ t, exec c s = .next t ∧ t.table.saveCopy = none ∧ t.table.store = s.abandonSave.table.store := by
  simp only [List.mem_cons, List.not_mem_nil, or_false] at h
  obtain rfl | rfl | rfl := h
  · exact ⟨_, rfl, State.abandonSave_saveCopy s, rfl⟩
  · refine ⟨_, rfl, ?_⟩
    rw [assertReset_eq (powered rfl)]
    exact ⟨State.abandonSave_saveCopy s, rfl⟩
  · exact ⟨_, rfl, (GroupTable.load_saveCopy _).trans (State.abandonSave_saveCopy s), GroupTable.load_store _⟩

end Sys2Proof.Machine

namespace Sys2Proof

open Machine

/-- Settles O47. -/
theorem powerOnValues : Obligations.PowerOnValues := by
  unfold Obligations.PowerOnValues
  intro s c hc powered
  obtain ⟨t, next, on, asserted, values, pending⟩ : ∃ t, exec c s = .next t
      ∧ (c = .powerOn → t.powered = true ∧ t.resetAsserted = s.resetAsserted)
      ∧ (c = .resetInputAssert → t = s.assertReset) ∧ AtPowerOn t ∧ t.pending = s.pending := by
    simp only [List.mem_cons, List.not_mem_nil, or_false] at hc
    obtain rfl | rfl := hc
    · exact ⟨_, rfl, fun _ => ⟨rfl, (abandonSave_pending s).2⟩, nofun, powerOn_atPowerOn s, (abandonSave_pending s).1⟩
    · refine ⟨_, rfl, nofun, fun _ => rfl, assertReset_atPowerOn (powered rfl), ?_⟩
      rw [assertReset_eq (powered rfl)]
      exact (abandonSave_pending s).1
  refine ⟨t, next, on, fun assert => ?_, fun n => ?_, values.profile, values.settings, fun n => ?_, fun n => ?_, fun g => ?_,
    values.berth, values.due, fun x => ?_, values.pendingRestart, pending⟩
  · rw [asserted assert]
    have stopped : s.assertReset.running = false := by
      rw [assertReset_eq (powered assert), State.running]
      exact Bool.and_false _
    refine ⟨stopped, ?_, fun n => ?_⟩
    · rw [State.linkLeads, stopped]
      rfl
    · have hand : s.assertReset.setup n = s.setup n := by
        rw [assertReset_eq (powered assert)]
        change s.abandonSave.table.setups[n] = s.table.setups[n]
        rw [(abandonSave_figures s).2.1]
      rw [State.pins, State.pins, hand, assertReset_line (powered assert)]
      rfl
  · obtain ⟨heaving, line⟩ := values.line n
    rw [State.pins, line]
    exact ⟨rfl, rfl, rfl, rfl, rfl, rfl⟩
  · obtain ⟨heaving, line⟩ := values.line n
    rw [line]
    exact ⟨rfl, rfl, rfl⟩
  · obtain ⟨heaving, line⟩ := values.line n
    rw [line]
    refine ⟨rfl, rfl, rfl, rfl, rfl, rfl, rfl, rfl, fun w hw => ?_⟩
    simp only [List.mem_cons, List.not_mem_nil, or_false] at hw
    obtain rfl | rfl | rfl | rfl := hw <;> rfl
  · rw [values.record]
    rfl
  · rw [values.link x]
    exact ⟨rfl, rfl, rfl, rfl, rfl, rfl, rfl, rfl, rfl, rfl, rfl, rfl, rfl, replicate_marks 4 false, replicate_marks 8 false⟩

/-- Settles O48. -/
theorem setupsLoadedAndPowerLoss : Obligations.SetupsLoadedAndPowerLoss := by
  unfold Obligations.SetupsLoadedAndPowerLoss
  refine fun s => ⟨⟨s.losePower, rfl, rfl, fun none => ?_, fun saving => ?_⟩, fun img saving c hc powered => ?_,
    fun c hc released => ?_⟩
  · rw [State.losePower, State.abandonSave_none none]
  · obtain ⟨img, saving⟩ := Option.ne_none_iff_exists'.1 saving
    obtain ⟨store, abandoned⟩ := abandonSave_eq saving
    rw [State.losePower, abandoned]
    exact ⟨rfl, rfl, rfl, rfl, rfl⟩
  · obtain ⟨t, next, none, store⟩ := exec_abandons hc powered
    refine ⟨t, next, none, ?_⟩
    rw [store, ← checkedSetups_eq_none]
    exact State.abandonSave_store saving
  · simp only [List.mem_cons, List.not_mem_nil, or_false] at hc
    obtain rfl | rfl := hc
    · have store : s.powerOn.table.store = s.abandonSave.table.store := GroupTable.load_store _
      have loaded := GroupTable.load_setups s.abandonSave.table.defaults
      refine ⟨s.powerOn, rfl, fun stands => ?_, store ▸ loaded.1, store ▸ loaded.2, nofun⟩
      rw [store, State.abandonSave_none (stands.resolve_right nofun)]
    · obtain ⟨on, asserted⟩ := released rfl
      have store : s.load.table.store = s.table.store := GroupTable.load_store _
      have loaded := GroupTable.load_setups s.table
      refine ⟨{ s.load with resetAsserted := false }, congrArg _ (releaseReset_eq on asserted), fun _ => store,
        store ▸ loaded.1, store ▸ loaded.2, fun _ => ⟨?_, rfl, rfl, rfl⟩⟩
      simp [State.running, State.load, on]

end Sys2Proof

/-! PROOFS. Groups whose records change one after another, with the halts and the notices that follow (R120, R130);
CLAIM and YIELD: settles O24 and O25. -/

namespace Sys2Proof.Machine

/-! ### Records revised group by group -/

/-- The records of the groups `gs` become what `f` makes of each, one group after another. -/
def State.revise (f : GroupNo → GroupRecord → GroupRecord) (gs : List GroupNo) (s : State) : State :=
  gs.foldl (fun s g => s.setRecord g (f g (s.record g))) s

/-- What a revision of the records of the groups `gs` does: the records, a halt for each fitted line of a group whose
active holder changes (R120), and the notices of the groups whose change marks one (R130). -/
structure Revised (f : GroupNo → GroupRecord → GroupRecord) (gs : List GroupNo) (s t : State) : Prop where
  only : AuthorityOnly s t
  record : ∀ g, t.record g = if g ∈ gs then f g (s.record g) else s.record g
  due : t.due = s.due ++ gs.flatMap fun g => if t.holder g = s.holder g then [] else (s.groupLines g).map DueEvent.halt
  marks : s.groupNoticesMarked t

theorem GroupRecord.noticeDue_self (r : GroupRecord) : ¬r.noticeDue r := by
  simp [GroupRecord.noticeDue]

theorem AuthorityOnly.groupLines {s t : State} (h : AuthorityOnly s t) (g : GroupNo) : t.groupLines g = s.groupLines g := by
  unfold State.groupLines State.fitted State.setup
  rw [h.table]

theorem revise_revised (f : GroupNo → GroupRecord → GroupRecord) : ∀ (gs : List GroupNo) (s : State), gs.Nodup →
    Revised f gs s (s.revise f gs)
  | [], s, _ =>
    { only := .refl s
      record := fun g => by simp [State.revise]
      due := by simp [State.revise]
      marks := fun x g => by simp [State.revise, GroupRecord.noticeDue_self] }
  | g :: gs, s, nodup => by
    obtain ⟨fresh, nodup⟩ := List.nodup_cons.1 nodup
    have first := setRecord_authorityOnly g (f g (s.record g)) s
    have record := setRecord_record g (r := f g (s.record g)) (s := s)
    have due := setRecord_due g (f g (s.record g)) s
    have marks := setRecord_groupMarks g (r := f g (s.record g)) (s := s)
    have rest := revise_revised f gs (s.setRecord g (f g (s.record g))) nodup
    change Revised f (g :: gs) s ((s.setRecord g (f g (s.record g))).revise f gs)
    generalize s.setRecord g (f g (s.record g)) = u at *
    generalize u.revise f gs = t at *
    have final (x : GroupNo) : t.record x = if x ∈ g :: gs then f x (s.record x) else s.record x := by
      rw [rest.record, record]
      by_cases same : x = g
      · subst same
        simp [fresh]
      · simp [same]
    refine ⟨first.trans rest.only, final, ?_, fun st x => ?_⟩
    · have tail : (gs.flatMap fun x => if t.holder x = u.holder x then [] else (u.groupLines x).map DueEvent.halt)
          = gs.flatMap fun x => if t.holder x = s.holder x then [] else (s.groupLines x).map DueEvent.halt := by
        refine List.flatMap_congr fun x hx => ?_
        have other : x ≠ g := fun same => fresh (same ▸ hx)
        rw [first.groupLines, State.holder, State.holder, record, if_neg other]
        rfl
      have head : t.holder g = (f g (s.record g)).holder := by
        rw [State.holder, final, if_pos List.mem_cons_self]
      rw [rest.due, due, tail, List.flatMap_cons, head, State.holder]
      by_cases stays : (f g (s.record g)).holder = (s.record g).holder
      · rw [if_pos stays, if_pos stays.symm, List.nil_append]
      · rw [if_neg stays, if_neg (Ne.symm stays), List.append_assoc]
    · rw [rest.marks, marks, first.present, final, record]
      by_cases same : x = g
      · subst same
        simp [fresh, GroupRecord.noticeDue_self]
      · simp [same]

theorem State.setRecord_self (g : GroupNo) (s : State) : s.setRecord g (s.record g) = s := by
  have same : s.putRecord g (s.record g) = s := by
    unfold State.putRecord State.record
    rw [Fin.getElem_fin, Vector.set_getElem_self]
  have unchanged : recordChanged (s.record g) (s.record g) = false := by
    rw [Bool.eq_false_iff, Ne, recordChanged_iff]
    exact GroupRecord.noticeDue_self _
  unfold State.setRecord
  rw [same, unchanged]
  simp

/-- A removal of an entry is one change of its group's record. -/
theorem removeEntry_eq_setRecord (st : Station) (g : GroupNo) (s : State) :
    s.removeEntry st g = s.setRecord g ((s.record g).removed s.table.settings.vesselLead st) := by
  unfold State.removeEntry GroupRecord.removed
  split
  · rfl
  · rw [State.setRecord_self]

/-- Groups taken one after another are revised one after another, each with the outcome of its record before. -/
theorem takeGroups_eq_revise {f : GroupNo → State → State × ReplyCode} {F : GroupRecord → GroupRecord}
    {C : GroupRecord → ReplyCode} {s : State}
    (one : ∀ g u, u.table = s.table → f g u = (u.setRecord g (F (u.record g)), C (u.record g))) :
    ∀ (gs : List GroupNo) (u : State), gs.Nodup → u.table = s.table →
      takeGroups f gs u = (u.revise (fun _ => F) gs, gs.map fun g => C (u.record g))
  | [], u, _, _ => rfl
  | g :: gs, u, nodup, table => by
    obtain ⟨fresh, nodup⟩ := List.nodup_cons.1 nodup
    have only := setRecord_authorityOnly g (F (u.record g)) u
    rw [takeGroups, one g u table, takeGroups_eq_revise one gs _ nodup (only.table.trans table)]
    refine congrArg (Prod.mk _) (congrArg _ (List.map_congr_left fun x hx => ?_))
    have other : x ≠ g := fun same => fresh (same ▸ hx)
    rw [setRecord_record, if_neg other]

/-! ### What the two requests make of a record -/

theorem outranks_iff (lead : Bool) (a b : Station) : outranks lead a b = decide (rank lead a < rank lead b) := rfl

/-- Where a claim puts the station (R115, R116). -/
theorem claimed_eq {lead : Bool} {here : Station → Bool} {r : GroupRecord} (h : r.Sound lead here) (st : Station)
    (single : Bool) :
    let e : Entry := { station := st, single := single, watched := none }
    let serving := r.inService.any fun m => m.station == st
    let waiting := r.waiting.any fun m => m.station == st
    let outranksAll := r.inService.all fun m => decide (rank lead st < rank lead m.station)
    ((claimed lead st single r).2.code
        = if serving = true then 0x05#8 else if waiting = true then 0x04#8 else if outranksAll = true then 0x03#8 else 0x04#8)
      ∧ if serving = false ∧ waiting = false then
          if outranksAll = true then (claimed lead st single r).1 = { r with inService := e :: r.inService }
          else
            (claimed lead st single r).1.inService = r.inService ∧ ranked lead (claimed lead st single r).1.waiting
              ∧ ∀ x, x ∈ (claimed lead st single r).1.waiting ↔ x = e ∨ x ∈ r.waiting
        else (claimed lead st single r).1 = r := by
  intro e serving waiting outranksAll
  have cases : claimed lead st single r
      = if serving = true then (r, .held)
        else if waiting = true then (r, .queued)
        else if outranksAll = true then ({ r with inService := inRankOrder lead (e :: r.inService) }, .granted)
        else ({ r with waiting := inRankOrder lead (e :: r.waiting) }, .queued) := by
    unfold claimed
    rw [entryOf_isSome, entryOf_isSome]
    rfl
  rw [cases]
  by_cases inService : serving = true
  · simp only [inService, if_true, false_and, if_false, Bool.true_eq_false, and_true]
    rfl
  · by_cases pending : waiting = true
    · simp only [inService, pending, if_true, and_false, if_false, Bool.true_eq_false, Bool.false_eq_true, and_true]
      rfl
    · have fresh : serving = false ∧ waiting = false := ⟨Bool.eq_false_iff.2 inService, Bool.eq_false_iff.2 pending⟩
      rw [if_neg inService, if_neg inService, if_neg pending, if_neg pending, if_pos fresh]
      by_cases above : outranksAll = true
      · have order : ranked lead (e :: r.inService) :=
          List.pairwise_cons.2 ⟨fun m hm => of_decide_eq_true (List.all_eq_true.1 above m hm), h.servingRanked⟩
        rw [if_pos above, if_pos above, if_pos above, inRankOrder_eq_self order]
        exact ⟨rfl, rfl⟩
      · have new : ∀ m ∈ r.waiting, m.station ≠ e.station := by
          simpa [waiting] using pending
        rw [if_neg above, if_neg above, if_neg above]
        exact ⟨rfl, rfl, inRankOrder_ranked .., mem_inRankOrder_cons h.waitingRanked new⟩

theorem GroupRecord.lacking_eq_without (r : GroupRecord) (st : Station) : r.lacking st = r.without st := by
  unfold GroupRecord.lacking GroupRecord.without withoutStation
  have same (e : Entry) : decide (e.station ≠ st) = (e.station != st) := by
    rw [Bool.eq_iff_iff, decide_eq_true_iff, bne_iff_ne]
  simp only [same]

/-- What a removal makes of a sound record (R117, R119, R122). -/
theorem GroupRecord.Sound.removed_cases {lead : Bool} {here : Station → Bool} {r : GroupRecord} (h : r.Sound lead here)
    (st : Station) :
    ((∃ e ∈ r.entries, e.station = st) → (r.lacking st).reevaluatedTo lead (r.removed lead st))
      ∧ ((∀ e ∈ r.entries, e.station ≠ st) → r.removed lead st = r) := by
  unfold GroupRecord.removed
  rw [GroupRecord.lacking_eq_without]
  constructor
  · intro entered
    rw [if_pos ((entry_isSome_iff r st).2 entered)]
    exact reevaluated_reevaluatedTo lead _ (h.attended.without st).once
  · intro none
    rw [if_neg]
    rw [entry_isSome_iff]
    exact fun ⟨e, he, same⟩ => none e he same

theorem entry_isSome (r : GroupRecord) (st : Station) : (r.entry st).isSome = r.entries.any fun m => m.station == st :=
  entryOf_isSome st r.entries

theorem yieldGroup_eq (st : Station) (g : GroupNo) (s : State) :
    yieldGroup st g s
      = (s.setRecord g ((s.record g).removed s.table.settings.vesselLead st),
        if ((s.record g).entry st).isSome then .done else .noChange) := by
  rw [← removeEntry_eq_setRecord]
  unfold yieldGroup State.removeEntry
  split <;> rfl

/-- A mask has the bits of the groups it names (R172). -/
theorem groupsMask_getLsbD (gs : List GroupNo) (g : GroupNo) : (groupsMask gs).getLsbD g.val = decide (g ∈ gs) := by
  have one : ∀ h g : GroupNo, (1#8 <<< h.val).getLsbD g.val = decide (g = h) := by decide
  have fold (b : Byte) : (gs.foldl (fun b h => b ||| (1#8 <<< h.val)) b).getLsbD g.val
      = (b.getLsbD g.val || decide (g ∈ gs)) := by
    induction gs generalizing b with
    | nil => simp
    | cons h gs ih =>
      rw [List.foldl_cons, ih, BitVec.getLsbD_or, one]
      simp [Bool.or_assoc]
  rw [groupsMask, fold, BitVec.getLsbD_zero, Bool.false_or]

theorem maskGroups_nodup (mask : Byte) : (maskGroups mask).Nodup := List.Nodup.filter _ (by decide)

theorem mem_maskGroups (mask : Byte) (g : GroupNo) : g ∈ maskGroups mask ↔ mask.getLsbD g.val = true := by
  simp [maskGroups, mem_allGroups]

/-- A revision of the records, then a reply to the sender. -/
theorem Revised.placeReply {f : GroupNo → GroupRecord → GroupRecord} {gs : List GroupNo} {s t : State} (h : Revised f gs s t)
    (st : Station) (kind : Byte) (body : List Byte) :
    let u := t.placeReply st kind body
    u.due = s.due ++ (gs.flatMap fun g => if u.holder g = s.holder g then [] else (s.groupLines g).map DueEvent.halt)
      ∧ s.sameCore u ∧ u.lines = s.lines ∧ u.berth = s.berth ∧ s.linksButReply u st ∧ s.groupNoticesMarked u
      ∧ ∀ x, (u.link x).lineMarks = (s.link x).lineMarks :=
  ⟨h.due, ⟨h.only.powered, h.only.resetAsserted, h.only.table, h.only.pendingRestart, h.only.freeIndex, h.only.pending⟩,
    h.only.lines, h.only.berth, placeReply_linksButReply h.only.links st kind body,
    fun x g => by rw [(placeReply_marks st kind body t x).2]; exact h.marks x g,
    fun x => (placeReply_marks st kind body t x).1.trans (h.only.lineMarks x)⟩

end Sys2Proof.Machine

namespace Sys2Proof

open Machine

/-- Settles O24. -/
theorem claimPlacesStation : Obligations.ClaimPlacesStation := by
  unfold Obligations.ClaimPlacesStation
  refine ⟨ranks_asListed, ?_⟩
  intro st mask option s accepted maskOk choiceOk sound e lead outranksAll serving waiting
  rw [State.authoritySound_iff] at sound
  have taken : exec (.claim st mask option) s = .next (takeClaim st mask option s) :=
    request_taken accepted (by simp [Instr.bodyOk, maskOk, choiceOk])
  refine ⟨_, taken, ?_⟩
  have groups : takeGroups (claimGroup st (option == 1#8)) (maskGroups mask) s
      = (s.revise (fun _ r => (claimed lead st (option == 1#8) r).1) (maskGroups mask),
        (maskGroups mask).map fun g => (claimed lead st (option == 1#8) (s.record g)).2) :=
    takeGroups_eq_revise (s := s) (F := fun r => (claimed lead st (option == 1#8) r).1)
      (C := fun r => (claimed lead st (option == 1#8) r).2)
      (fun g u table => by unfold claimGroup; rw [table]) _ s (maskGroups_nodup mask) rfl
  unfold takeClaim
  rw [groups]
  have revised := revise_revised (fun _ r => (claimed lead st (option == 1#8) r).1) (maskGroups mask) s (maskGroups_nodup mask)
  obtain ⟨due, rest⟩ := revised.placeReply st 0x10#8
    ([ReplyCode.done.code, mask]
      ++ ((maskGroups mask).map fun g => (claimed lead st (option == 1#8) (s.record g)).2).map ReplyCode.code)
  refine ⟨fun g => ?_, due, ?_, rest⟩
  · have record := revised.record g
    simp only [mem_maskGroups] at record
    obtain ⟨-, place⟩ := claimed_eq (sound g) st (option == 1#8)
    rw [State.placeReply, State.record_onLink, record]
    by_cases named : mask.getLsbD g.val = true
    · simpa only [named, if_true, true_and] using place
    · simp only [named, if_false, false_and, Bool.false_eq_true]
  · rw [State.placeReply, State.link_onLink_self, List.map_map]
    refine congrArg some (congrArg (Reply.mk _) (congrArg (0x01#8 :: mask :: ·) (List.map_congr_left fun g _ => ?_)))
    exact (claimed_eq (sound g) st (option == 1#8)).1

/-- Settles O25. -/
theorem yieldRemovesEntry : Obligations.YieldRemovesEntry := by
  unfold Obligations.YieldRemovesEntry
  refine ⟨ranks_asListed, ?_⟩
  intro st mask s accepted maskOk sound named entered
  rw [State.authoritySound_iff] at sound
  have taken : exec (.yieldGroups st mask) s = .next (takeYield st mask s) :=
    request_taken accepted (by simp [Instr.bodyOk, maskOk])
  refine ⟨_, taken, ?_⟩
  have names : yieldNames s st mask = named := rfl
  have nodup : named.Nodup := by
    unfold named
    split <;> exact List.Nodup.filter _ (by decide)
  clear_value named
  have groups : takeGroups (yieldGroup st) named s
      = (s.revise (fun _ => GroupRecord.removed s.table.settings.vesselLead st) named,
        named.map fun g => if ((s.record g).entry st).isSome then .done else .noChange) :=
    takeGroups_eq_revise (s := s) (F := GroupRecord.removed s.table.settings.vesselLead st)
      (C := fun r => if (r.entry st).isSome then .done else .noChange)
      (fun g u table => by rw [yieldGroup_eq, table]) _ s nodup rfl
  unfold takeYield
  simp only [names, groups]
  have revised := revise_revised (fun _ => GroupRecord.removed s.table.settings.vesselLead st) named s nodup
  obtain ⟨due, rest⟩ := revised.placeReply st 0x11#8
    ([ReplyCode.done.code, groupsMask named]
      ++ (named.map fun g => if ((s.record g).entry st).isSome then ReplyCode.done else .noChange).map ReplyCode.code)
  refine ⟨fun g => ?_, due, ⟨groupsMask named, ?_, groupsMask_getLsbD named⟩, rest⟩
  · obtain ⟨entry, none⟩ := (sound g).removed_cases st
    rw [State.placeReply, State.record_onLink, revised.record]
    by_cases mem : g ∈ named
    · by_cases has : entered g = true
      · rw [if_pos ⟨mem, has⟩, if_pos mem]
        exact entry (by simpa [entered] using has)
      · rw [if_neg fun h => has h.2, if_pos mem]
        exact none (by simpa [entered] using has)
    · rw [if_neg fun h => mem h.1, if_neg mem]
  · rw [State.placeReply, State.link_onLink_self, List.map_map]
    refine congrArg some (congrArg (Reply.mk _) (congrArg (0x01#8 :: groupsMask named :: ·) (List.map_congr_left fun g _ => ?_)))
    simp only [Function.comp_apply, entry_isSome]
    change ReplyCode.code (if entered g = true then _ else _) = _
    split <;> rfl

end Sys2Proof

/-! PROOFS. Presence gained and lost, bad slots and the gap abort: settles O39, O40 and O41. -/

namespace Sys2Proof.Machine

/-- What an event that works one station's items alone leaves. -/
theorem LinkOnly.beside {st : Station} {s t : State} (h : LinkOnly st s t) :
    (∀ x, x ≠ st → t.link x = s.link x) ∧ t.lines = s.lines ∧ s.sameCore t ∧ t.records = s.records ∧ t.berth = s.berth
      ∧ t.due = s.due := by
  obtain ⟨rest, other⟩ := h
  rw [rest]
  exact ⟨rest ▸ other, rfl, ⟨rfl, rfl, rfl, rfl, rfl, rfl⟩, rfl, rfl, rfl⟩

theorem composeSlot_link (st : Station) (s : State) :
    (s.composeSlot st).link st = { s.link st with downstream := ((s.composeSlot st).link st).downstream } := by
  unfold State.composeSlot
  rw [State.link_onLink_self]

/-- The frame event of a station whose slot received is not to be read (R147, R149). -/
theorem frameEvent_unread {s : State} {st : Station} {slot : BitVec 32}
    (absent : (s.presenceStep st (slotGood slot)).present st = false) :
    s.frameEvent st slot = (s.presenceStep st (slotGood slot)).composeSlot st := by
  unfold State.frameEvent
  simp only [absent, Bool.false_eq_true, if_false]

theorem onLink_congr {s : State} {st : Station} {f g : Link → Link} (h : f (s.link st) = g (s.link st)) :
    s.onLink st f = s.onLink st g := by
  unfold State.onLink
  rw [h]

/-- The content of the first good slot of a station just PRESENT (R151 to R156). -/
theorem contentStep_gained {u : State} {st : Station} {slot : BitVec 32} {k : Link} (h : u.link st = k.gained) :
    u.contentStep st slot
      = u.onLink st fun k' =>
          { k' with
            candidate := some (slotStance slot)
            linkError := k'.linkError || (stanceOf (slotStance slot)).isNone
            recv := if slotOffer slot = true then .oneLook (slotByte slot) else .idle
            send := if slotTake slot = true then .awaitingClear else .idle } := by
  have stance : u.stanceStep st (slotStance slot)
      = u.onLink st fun k' =>
          { k' with
            candidate := some (slotStance slot)
            linkError := k'.linkError || (stanceOf (slotStance slot)).isNone } := by
    unfold State.stanceStep State.latchLinkError
    rw [h]
    cases code : stanceOf (slotStance slot) with
    | none => simp [onLink_onLink]
    | some x => simp [Link.gained]
  have received : (u.stanceStep st (slotStance slot)).receiveStep st (slotOffer slot) (slotByte slot)
      = u.onLink st fun k' =>
          { k' with
            candidate := some (slotStance slot)
            linkError := k'.linkError || (stanceOf (slotStance slot)).isNone
            recv := if slotOffer slot = true then .oneLook (slotByte slot) else .idle } := by
    rw [stance, receiveStep_unlatched_link (by simp [h, Link.gained]), onLink_onLink]
    unfold State.onLink
    rw [State.link_putLink_self, h]
    unfold Link.gapped recvStep
    cases slotOffer slot <;> simp [Link.gained]
  unfold State.contentStep
  simp only [received, State.link_onLink_self, h]
  simp only [Link.gained, reduceCtorEq, if_false]
  unfold State.sendStep
  simp only [State.link_onLink_self, h, Link.gained]
  cases slotTake slot
  · simp [onLink_onLink]
  · rw [if_pos rfl, if_pos rfl]
    refine onLink_congr ?_
    rw [h]
    rfl

theorem LinkOnly.link_eq {st : Station} {s t : State} {k : Link} (composed : t = (s.putLink st k).composeSlot st) :
    LinkOnly st s t ∧ t.link st = { k with downstream := (t.link st).downstream } := by
  subst composed
  refine ⟨(onLink_linkOnly st (fun _ => k) s).trans (composeSlot_linkOnly st _), ?_⟩
  have link := composeSlot_link st (s.putLink st k)
  rw [State.link_putLink_self] at link
  exact link

/-- The frame event of an ABSENT station whose slot is bad or too early (R149). -/
theorem frameEvent_counting {s : State} {st : Station} {slot : BitVec 32} (absent : (s.link st).presence = .absent)
    (early : slotGood slot = false ∨ (s.link st).goodCount < 3) :
    s.frameEvent st slot
      = (s.putLink st
          { s.link st with goodCount := if slotGood slot = true then (s.link st).goodCount + 1 else 0 }).composeSlot st := by
  have step : s.presenceStep st (slotGood slot)
      = s.putLink st { s.link st with goodCount := if slotGood slot = true then (s.link st).goodCount + 1 else 0 } := by
    unfold State.presenceStep State.onLink
    cases good : slotGood slot with
    | false => simp [absent]
    | true =>
      have short : ¬4 ≤ (s.link st).goodCount + 1 := by simpa [good] using early
      simp [absent, short]
  rw [frameEvent_unread, step]
  rw [step, State.present, State.link_putLink_self]
  simp [absent]

/-- The frame event at which an ABSENT station becomes PRESENT (R149, R151). -/
theorem frameEvent_gaining {s : State} {st : Station} {slot : BitVec 32} (absent : (s.link st).presence = .absent)
    (good : slotGood slot = true) (fourth : 3 ≤ (s.link st).goodCount) :
    s.frameEvent st slot
      = (s.putLink st
          { (s.link st).gained with
            candidate := some (slotStance slot)
            linkError := (s.link st).linkError || (stanceOf (slotStance slot)).isNone
            recv := if slotOffer slot = true then .oneLook (slotByte slot) else .idle
            send := if slotTake slot = true then .awaitingClear else .idle }).composeSlot st := by
  have step : s.presenceStep st true = s.putLink st (s.link st).gained := by
    unfold State.presenceStep State.onLink
    have due : 4 ≤ (s.link st).goodCount + 1 := by omega
    simp [absent, due]
  have link : (s.putLink st (s.link st).gained).link st = (s.link st).gained := State.link_putLink_self ..
  have present : (s.putLink st (s.link st).gained).present st = true := by
    rw [State.present, link]
    rfl
  unfold State.frameEvent
  simp only [good, step, present, if_true, contentStep_gained link]
  rw [State.onLink, link, putLink_putLink]
  rfl

/-- The frame event of a bad slot of a PRESENT station below the 64th (R148, R149, R154). -/
theorem frameEvent_bad {s : State} {st : Station} {slot : BitVec 32} (present : (s.link st).presence = .present)
    (bad : slotGood slot = false) (few : (s.link st).badCount < 63) :
    s.frameEvent st slot
      = (s.putLink st (Link.gapped { s.link st with badCount := (s.link st).badCount + 1 })).composeSlot st := by
  have step : s.presenceStep st false = s.putLink st { s.link st with badCount := (s.link st).badCount + 1 } := by
    unfold State.presenceStep State.onLink
    have short : ¬64 ≤ (s.link st).badCount + 1 := by omega
    simp [present, short]
  have still : (s.putLink st { s.link st with badCount := (s.link st).badCount + 1 }).present st = true := by
    rw [State.present, State.link_putLink_self]
    exact beq_iff_eq.2 present
  unfold State.frameEvent
  simp only [bad, step, still, if_true, Bool.false_eq_true, if_false, gapStep_eq]
  rw [State.onLink, State.link_putLink_self, putLink_putLink]

/-! ### Loss of presence -/

/-- A station's loss of presence before its entries leave the groups (R133, R150, R169). -/
def State.departed (st : Station) (s : State) : State :=
  { s.putLink st (s.link st).lost with
    due := s.due ++ if (s.link st).stance = .idle then [] else [.stance st (s.link st).stance .idle]
    pendingRestart := s.pendingRestart.filter (· != st) }

theorem losePresence_eq (st : Station) (s : State) :
    s.losePresence st
      = (s.departed st).revise (fun _ => GroupRecord.removed s.table.settings.vesselLead st) allGroups := by
  have departed : s.departed st
      = { (if (s.link st).stance = .idle then s.onLink st Link.lost
          else (s.onLink st Link.lost).handOver (.stance st (s.link st).stance .idle)) with
        pendingRestart := s.pendingRestart.filter (· != st) } := by
    unfold State.departed
    split
    · rw [List.append_nil]
      rfl
    · rfl
  have groups : ∀ (gs : List GroupNo) (u : State), u.table = s.table →
      gs.foldl (fun s g => s.removeEntry st g) u = u.revise (fun _ => GroupRecord.removed s.table.settings.vesselLead st) gs := by
    intro gs
    induction gs with
    | nil => exact fun _ _ => rfl
    | cons g gs ih =>
      intro u table
      rw [List.foldl_cons, removeEntry_eq_setRecord, table]
      exact ih _ ((setRecord_authorityOnly g _ u).table.trans table)
  rw [departed]
  unfold State.losePresence
  have pending : (if (s.link st).stance = .idle then s.onLink st Link.lost
      else (s.onLink st Link.lost).handOver (.stance st (s.link st).stance .idle)).pendingRestart = s.pendingRestart := by
    split <;> rfl
  simp only [pending]
  refine groups _ _ ?_
  change (if (s.link st).stance = .idle then s.onLink st Link.lost
      else (s.onLink st Link.lost).handOver (.stance st (s.link st).stance .idle)).table = s.table
  split <;> rfl

/-- The removal of a station that is not active holder leaves the active holder (R114, R119). -/
theorem GroupRecord.Sound.holder_removed {lead : Bool} {here : Station → Bool} {r : GroupRecord} (h : r.Sound lead here)
    (st : Station) : (r.removed lead st).holder = r.holder ↔ r.holder ≠ some st := by
  constructor
  · intro same holds
    rw [← same] at holds
    obtain ⟨e, he, station⟩ := GroupRecord.mem_of_holder holds
    have gone := (h.removed st).present e (List.mem_append_left _ he)
    simp [station] at gone
  · intro other
    unfold GroupRecord.removed
    split
    · cases serving : r.inService with
      | nil =>
        have alone : r.waiting = [] := List.eq_nil_iff_forall_not_mem.2 fun b hb => by
          obtain ⟨x, hx, -⟩ := h.outranked b hb
          simp [GroupRecord.holder, serving] at hx
        simp [GroupRecord.holder, GroupRecord.without, withoutStation, serving, alone, reevaluated, inRankOrder, entryOf]
      | cons a es =>
        have stays : (a.station != st) = true := by
          rw [bne_iff_ne]
          exact fun same => other (by simp [GroupRecord.holder, serving, same])
        have holder : (r.without st).holder = r.holder := by
          simp [GroupRecord.holder, GroupRecord.without, withoutStation, serving, stays]
        have serves : ranked lead (r.without st).inService := List.Pairwise.filter _ h.servingRanked
        have waits : ranked lead (r.without st).waiting := List.Pairwise.filter _ h.waitingRanked
        rw [reevaluated_eq_self serves waits, holder]
        intro b hb
        rw [holder]
        exact h.outranked b (List.mem_filter.1 hb).1
    · rfl

theorem departed_link (st x : Station) (s : State) :
    (s.departed st).link x = if x = st then (s.link st).lost else s.link x := State.link_putLink ..

/-- What a loss of presence makes of the rest of the part, the groups being revised last. -/
theorem losePresence_revised (st : Station) (s : State) :
    Revised (fun _ => GroupRecord.removed s.table.settings.vesselLead st) allGroups (s.departed st) (s.losePresence st) := by
  rw [losePresence_eq]
  exact revise_revised _ _ _ (by decide)

/-- The items of the station lost (R149, R150). -/
theorem losePresence_link (st : Station) (s : State) : (s.losePresence st).link st = (s.link st).lost := by
  have revised := losePresence_revised st s
  have link := departed_link st st s
  rw [if_pos rfl] at link
  have same := revised.only.links st
  have lineMarks := revised.only.lineMarks st
  have groupMarks : ((s.losePresence st).link st).groupMarks = (s.link st).lost.groupMarks := by
    refine Vector.ext fun i hi => Bool.eq_iff_iff.2 ((revised.marks st ⟨i, hi⟩).trans ?_)
    rw [State.present, link]
    simp [Link.lost]
  rw [link] at same lineMarks
  rw [same, lineMarks, groupMarks]

/-- Both forms of a loss of presence: the command, and the 64th bad slot (R149, R150). -/
theorem exec_loses {s : State} {st : Station} {slot : BitVec 32} {c : Instr} (running : s.running = true)
    (present : (s.link st).presence = .present) (hc : c ∈ [Instr.presenceLoss st, .frameEvent st slot])
    (lost : c = .frameEvent st slot → slotGood slot = false ∧ (s.link st).badCount = 63) :
    ∃ t, exec c s = .next t ∧ LinkOnly st (s.losePresence st) t
      ∧ t.link st = { (s.link st).lost with downstream := (t.link st).downstream } := by
  simp only [List.mem_cons, List.not_mem_nil, or_false] at hc
  obtain rfl | rfl := hc
  · refine ⟨s.losePresence st, (whileRunning_running _ running).trans (congrArg _ (if_pos (beq_iff_eq.2 present))),
      .refl _ _, ?_⟩
    rw [losePresence_link]
  · obtain ⟨bad, last⟩ := lost rfl
    have step : s.presenceStep st (slotGood slot) = s.losePresence st := by
      unfold State.presenceStep
      simp [present, bad, last]
    have absent : (s.presenceStep st (slotGood slot)).present st = false := by
      rw [step, State.present, losePresence_link]
      rfl
    refine ⟨s.frameEvent st slot, whileRunning_running _ running, ?_⟩
    rw [frameEvent_unread absent, step]
    refine ⟨composeSlot_linkOnly st _, ?_⟩
    rw [composeSlot_link, losePresence_link]

end Sys2Proof.Machine

namespace Sys2Proof

open Machine

/-- Settles O39. -/
theorem presenceGain : Obligations.PresenceGain := by
  unfold Obligations.PresenceGain
  intro st slot s k running absent
  by_cases fourth : slotGood slot = true ∧ 3 ≤ k.goodCount
  · obtain ⟨only, link⟩ := LinkOnly.link_eq (frameEvent_gaining absent fourth.1 fourth.2)
    exact ⟨_, whileRunning_running _ running, by simp [fourth.1], fun _ early => absurd fourth.2 (by omega),
      fun _ _ => link, only.beside⟩
  · have early : slotGood slot = false ∨ k.goodCount < 3 := by
      rw [not_and_or, Bool.not_eq_true, Nat.not_le] at fourth
      exact fourth
    obtain ⟨only, link⟩ := LinkOnly.link_eq (frameEvent_counting absent early)
    refine ⟨_, whileRunning_running _ running, fun bad => ?_, fun good _ => ?_, fun good late => absurd ⟨good, late⟩ fourth,
      only.beside⟩
    · simpa [bad] using link
    · simpa [good] using link

/-- Settles O40. -/
theorem badSlotAndGapAbort : Obligations.BadSlotAndGapAbort := by
  unfold Obligations.BadSlotAndGapAbort
  intro st slot s k running present
  refine ⟨fun bad few => ?_, fun between => ?_⟩
  · obtain ⟨only, link⟩ := LinkOnly.link_eq (frameEvent_bad present bad few)
    refine ⟨_, whileRunning_running _ running, link.trans ?_, only.beside⟩
    unfold Link.gapped
    by_cases idle : k.incoming = .kind
    · simp [k, idle]
    · by_cases full : 31 ≤ k.gap
      · simp [k, idle, full, Nat.not_lt.2 full]
      · simp [k, idle, full, Nat.lt_of_not_le full]
  · refine (whileRunning_running _ running).trans (congrArg _ ?_)
    have here : s.present st = true := beq_iff_eq.2 present
    have waits : ((s.link st).incoming != .kind) = true := bne_iff_ne.2 between
    simp only [here, waits, Bool.and_self, if_true]
    rfl

/-- Settles O41. -/
theorem presenceLossEffects : Obligations.PresenceLossEffects := by
  unfold Obligations.PresenceLossEffects
  intro st slot s k running present sound c hc lost
  rw [State.authoritySound_iff] at sound
  obtain ⟨t, next, only, link⟩ := exec_loses running present hc lost
  have revised := losePresence_revised st s
  obtain ⟨others, lines, -, records, berth, due⟩ := only.beside
  have core := only.beside.2.2.1
  generalize s.losePresence st = u at *
  have record (g : GroupNo) : t.record g = (s.record g).removed s.table.settings.vesselLead st := by
    rw [only.record, revised.record, if_pos (mem_allGroups g)]
    rfl
  have holder (g : GroupNo) : u.holder g = s.holder g ↔ s.holder g ≠ some st := by
    rw [State.holder, ← only.record, record]
    exact (sound g).holder_removed st
  refine ⟨t, _, next, link, due.trans revised.due, fun e => ?_, core.2.2.2.1.trans ?_, fun g e he => ?_, fun g none => ?_,
    fun g entered => ?_, fun x other => ?_, lines.trans revised.only.lines, core.2.2.1.trans revised.only.table,
    berth.trans revised.only.berth⟩
  · simp only [List.mem_flatMap, mem_allGroups, true_and]
    constructor
    · rintro ⟨g, hg⟩
      split_ifs at hg with stays
      · simp at hg
      obtain ⟨n, hn, rfl⟩ := List.mem_map.1 hg
      obtain ⟨fitted, rfl⟩ := (mem_groupLines ..).1 hn
      exact ⟨n, rfl, fitted, not_not.1 (mt (holder _).2 stays)⟩
    · rintro ⟨n, rfl, fitted, holds⟩
      refine ⟨(s.setup n).group, ?_⟩
      have moves : ¬u.holder (s.setup n).group = (s.departed st).holder (s.setup n).group :=
        fun stays => (holder _).1 stays holds
      rw [if_neg moves]
      exact List.mem_map_of_mem ((mem_groupLines ..).2 ⟨fitted, rfl⟩)
  · rw [revised.only.pendingRestart]
    exact List.filter_congr fun x _ => by rw [Bool.eq_iff_iff, decide_eq_true_iff, bne_iff_ne]
  · rw [record] at he
    have gone := ((sound g).removed st).present e he
    simp only [Bool.and_eq_true, bne_iff_ne] at gone
    exact gone.2
  · rw [record, ((sound g).removed_cases st).2 none]
  · rw [record]
    exact ((sound g).removed_cases st).1 entered
  · have same := departed_link st x s
    rw [if_neg other] at same
    rw [others x other, ← same]
    refine ⟨revised.only.links x, fun g => ?_, revised.only.lineMarks x⟩
    rw [others x other, only.record, revised.marks x g, State.present, same]
    rfl

end Sys2Proof

/-! PROOFS. The stance change with the release-all, the queue take and the stagger expiry: settles O37 and O38. -/

namespace Sys2Proof.Machine

/-- The lines that a release-all selects, in the order in which it queues them (R138). -/
def State.releaseSelection (s : State) : List LineNo :=
  s.byRank (allLines.filter fun n => (s.line n).hookClosed && !s.berth.queue.contains n)

theorem mem_releaseSelection (s : State) (n : LineNo) :
    n ∈ s.releaseSelection ↔ (s.line n).hookClosed = true ∧ n ∉ s.berth.queue := by
  simp [State.releaseSelection, mem_byRank, mem_allLines]

theorem releaseSelection_nodup (s : State) : s.releaseSelection.Nodup := byRank_nodup s _ (allLines_filter_pairwise _)

/-- A release-all (R138): the lines selected join the tail of the queue, and it is in progress where the queue is then
non-empty. -/
theorem startReleaseAll_eq (s : State) :
    s.startReleaseAll
      = { s with
          berth :=
            { s.berth with
              queue := s.berth.queue ++ s.releaseSelection
              releaseAll := s.berth.releaseAll || !(s.berth.queue ++ s.releaseSelection).isEmpty }
          due :=
            s.due
              ++ if s.releaseSelection ≠ [] ∧ s.berth.stagger = none ∧ DueEvent.queueTake ∉ s.due then [.queueTake]
                else [] } := by
  have fresh : newEntries s.berth.queue s.releaseSelection = s.releaseSelection :=
    newEntries_eq_self (releaseSelection_nodup s) fun n hn => ((mem_releaseSelection s n).1 hn).2
  unfold State.startReleaseAll
  change (if (s.appendQueue s.releaseSelection).berth.queue.isEmpty = true then s.appendQueue s.releaseSelection
    else { s.appendQueue s.releaseSelection with
      berth := { (s.appendQueue s.releaseSelection).berth with releaseAll := true } }) = _
  rw [appendQueue_spec, fresh]
  generalize s.releaseSelection = selected
  by_cases empty : s.berth.queue ++ selected = []
  · obtain ⟨none, rfl⟩ := List.append_eq_nil_iff.1 empty
    rw [if_pos (by simp [none])]
    simp [none]
  · have some : (s.berth.queue ++ selected).isEmpty = false := by rw [List.isEmpty_eq_false_iff]; exact empty
    rw [if_neg (by simp [some])]
    simp only [some, Bool.not_false, Bool.or_true]
    split_ifs <;> simp

/-- What becomes of the part at the head `n` of a queue, the timer and the next take apart (R64, R142). -/
theorem popQueue_onLine (n : LineNo) (rest : List LineNo) {s : State} (unmarked : s.noSingle = true) :
    let u := (s.popQueue rest).onLine n Line.queueHead
    u.line n = (s.line n).queueHead ∧ (∀ m, m ≠ n → u.line m = s.line m) ∧ u.due = s.due
      ∧ u.berth = { s.berth with queue := rest, releaseAll := s.berth.releaseAll && !rest.isEmpty }
      ∧ s.sameCore u ∧ u.records = s.records ∧ s.linksButMarks u ∧ s.lineNoticesMarked u
      ∧ ∀ x, (u.link x).groupMarks = (s.link x).groupMarks := by
  intro u
  obtain ⟨lines, core, berth, links, notices, authority⟩ := onLine_oneLine n Line.queueHead (s.popQueue rest)
  obtain ⟨records, due, marks⟩ := authority unmarked
  exact ⟨onLine_line_self .., lines, due, berth, core, records, links, notices, marks⟩

/-- A hook-closed line at the head of the queue opens its hook (R64). -/
theorem queueHead_closed {l : Line} (h : l.hookClosed = true) :
    l.queueHead = l.placed .opening { current := some .queue } 0 .apply .openHook l.freshTimer := by
  rw [Line.queueHead, if_pos h]
  exact enter_eq_placed l .opening _ rfl rfl rfl rfl

/-- The timer and the next take after a queue take (R142, R143). -/
theorem queueTake_eq {n : LineNo} {rest : List LineNo} {s : State} (queue : s.berth.queue = n :: rest) (closed : Prop)
    [Decidable closed] (opened : (s.line n).hookClosed = true ↔ closed) :
    let u := (s.popQueue rest).onLine n Line.queueHead
    let starts := closed ∧ s.table.settings.stagger ≠ 0
    s.queueTake
      = { u with
          berth :=
            { u.berth with
              stagger :=
                if starts then some { interval := s.table.settings.stagger, elapsed := 0 } else u.berth.stagger }
          due :=
            if starts ∨ rest = [] ∨ DueEvent.queueTake ∈ u.due then u.due else u.due ++ [.queueTake] } := by
  intro u starts
  have timed : ((s.line n).hookClosed && s.table.settings.stagger != 0) = true ↔ starts := by
    rw [Bool.and_eq_true, opened, bne_iff_ne]
  unfold State.queueTake
  simp only [queue]
  by_cases start : starts
  · rw [if_pos (timed.2 start), if_pos start, if_pos (.inl start)]
  · rw [if_neg (mt timed.1 start), if_neg start]
    by_cases last : rest = []
    · rw [if_pos (by simp [last]), if_pos (.inr (.inl last))]
    · have next : ¬rest.isEmpty = true := by simpa using last
      rw [if_neg next]
      change u.dueTake = _
      unfold State.dueTake State.handOver
      by_cases waits : DueEvent.queueTake ∈ u.due <;> simp [waits, start, last]

end Sys2Proof.Machine

namespace Sys2Proof

open Machine

/-- Settles O37. -/
theorem stanceChangeEffects : Obligations.StanceChangeEffects := by
  unfold Obligations.StanceChangeEffects
  intro st before after rest s running due wanted starts foreign closed
  have waiting : stanceDue st s.due = some (before, after) := by
    rw [due, stanceDue, if_pos rfl]
  have taken : s.takeDue (.stance st before after) = { s with due := rest } := by
    rw [State.takeDue, due, List.erase_cons_head]
  have exec : exec (.stanceChange st) s = .next (State.takeStance st before after { s with due := rest }) := by
    refine (whileRunning_running _ running).trans (congrArg _ ?_)
    unfold State.takeStanceDue
    rw [waiting, ← taken]
  have selectionOf (u : State) (h : u.lines = s.lines ∧ u.table = s.table ∧ u.berth.queue = s.berth.queue) :
      u.releaseSelection = s.releaseSelection := by
    obtain ⟨lines, table, queue⟩ := h
    simp only [State.releaseSelection, State.byRank, State.setup, State.line, lines, table, queue]
  have recomputed := recomputeStopped_spec { s with due := rest }
  change State.recomputeStopped { s with due := rest } = { s with
    berth := { s.berth with stopped := wanted }
    due := if wanted = true ∧ s.berth.stopped = false then rest ++ allLines.map .stopOnset else rest } at recomputed
  have onsets : (if wanted = true ∧ s.berth.stopped = false then rest ++ allLines.map DueEvent.stopOnset else rest)
      = rest ++ if wanted = true ∧ s.berth.stopped = false then allLines.map .stopOnset else [] := by
    split_ifs <;> simp
  have onsetsOnly : DueEvent.queueTake ∉ if wanted = true ∧ s.berth.stopped = false then allLines.map DueEvent.stopOnset else [] := by
    split_ifs <;> simp
  rw [onsets] at recomputed
  refine ⟨_, s.releaseSelection, exec, ?_⟩
  clear onsets
  generalize (if wanted = true ∧ s.berth.stopped = false then allLines.map DueEvent.stopOnset else []) = handed at *
  have selected : (∀ n, n ∈ s.releaseSelection ↔ closed n ∧ n ∉ s.berth.queue) := fun n => by
    rw [mem_releaseSelection, hookClosed_iff]
  have ordered := byRank_pairwise s _ (allLines_filter_pairwise fun n => (s.line n).hookClosed && !s.berth.queue.contains n)
  have distinct := releaseSelection_nodup s
  unfold State.takeStance
  rw [recomputed]
  by_cases releases : after = .releaseAll ∧ before ≠ .releaseAll
  · by_cases panel : st = .panel
    · have starting : starts = true := by simp [starts, releases, panel]
      have home : foreign = false := by simp [foreign, panel]
      have chosen := selectionOf { s with berth := { s.berth with stopped := wanted }, due := rest ++ handed } ⟨rfl, rfl, rfl⟩
      rw [if_pos releases, if_pos panel, startReleaseAll_eq, chosen, starting, home]
      refine ⟨rfl, rfl, rfl, selected, distinct, ordered, rfl, ?_, rfl, ⟨rfl, rfl, rfl, rfl, rfl, rfl⟩, rfl, fun x => ?_⟩
      · simp only [List.mem_append, onsetsOnly, or_false, true_and]
      · simp only [Bool.false_eq_true, and_false, if_false]
        rfl
    · have waits : starts = false := by simp [starts, panel]
      have abroad : foreign = true := by simp [foreign, panel, releases]
      rw [if_pos releases, if_neg panel, waits, abroad]
      simp only [Bool.false_eq_true, if_false, false_and, Bool.false_and, Bool.or_false, List.append_nil, and_true]
      refine ⟨rfl, rfl, rfl, selected, distinct, ordered, rfl, rfl, rfl, ⟨rfl, rfl, rfl, rfl, rfl, rfl⟩, rfl, fun x => ?_⟩
      exact State.link_onLink ..
  · have waits : starts = false := by
      simp only [starts, ← Bool.not_eq_true, Bool.and_eq_true, beq_iff_eq, bne_iff_ne]
      exact fun h => releases ⟨h.1.2, h.2⟩
    have home : foreign = false := by
      simp only [foreign, ← Bool.not_eq_true, Bool.and_eq_true, beq_iff_eq, bne_iff_ne]
      exact fun h => releases ⟨h.1.2, h.2⟩
    rw [if_neg releases, waits, home]
    refine ⟨rfl, rfl, rfl, selected, distinct, ordered, (Bool.or_false _).symm, (List.append_nil _).symm, rfl,
      ⟨rfl, rfl, rfl, rfl, rfl, rfl⟩, rfl, fun x => ?_⟩
    exact (if_neg fun h => Bool.false_ne_true h.2).symm

/-- Settles O38. -/
theorem queueTakeAndStagger : Obligations.QueueTakeAndStagger := by
  unfold Obligations.QueueTakeAndStagger
  refine fun s running => ⟨?_, fun timer runs => ?_⟩
  · intro n rest waits queue idle unmarked l closed due'
    classical
    have exec : exec .queueTake s = .next (State.queueTake { s with due := due' }) := by
      refine (whileRunning_running _ running).trans (congrArg _ ?_)
      exact takeHanded_due waits _
    obtain ⟨line, others, due, berth, core, records, links, notices, marks⟩ :=
      popQueue_onLine n rest (s := { s with due := due' }) unmarked
    have step := queueTake_eq (s := { s with due := due' }) queue closed (hookClosed_iff l)
    refine ⟨_, exec, ?_⟩
    rw [step]
    generalize (State.popQueue rest { s with due := due' }).onLine n Line.queueHead = u at *
    change u.line n = l.queueHead at line
    change u.due = due' at due
    rw [due, berth]
    refine ⟨rfl, rfl, rfl, fun opens => ⟨line.trans (queueHead_closed ((hookClosed_iff l).2 opens)), ?_⟩,
      fun stands => ⟨line.trans (if_neg (mt (hookClosed_iff l).1 stands)), ?_⟩, others, fun done => ?_,
      fun goesOn left free => ?_, core, records, links, notices, marks⟩
    · by_cases zero : s.table.settings.stagger = 0
      · exact (if_neg fun h => h.2 zero).trans (idle.trans (if_pos zero).symm)
      · exact (if_pos ⟨opens, zero⟩).trans (if_neg zero).symm
    · exact (if_neg fun h => stands h.1).trans idle
    · exact if_pos (done.imp_right .inl)
    · refine if_neg ?_
      rintro (start | last | waits)
      · exact goesOn start
      · exact left last
      · exact free waits
  · refine (whileRunning_running _ running).trans (congrArg _ ?_)
    simp only [runs, Option.isSome_some, if_true, staggerExpire_spec]

end Sys2Proof

/-! PROOFS. A request that is taken puts its reply in the sender's reply slot and leaves the send lane to its step: what the
framing of a message and the send lane share (R155, R156, R157, R161). -/

namespace Sys2Proof.Machine

/-- The presence and the send lane of station `st` are unchanged. -/
def SameLane (st : Station) (s t : State) : Prop :=
  (t.link st).presence = (s.link st).presence ∧ (t.link st).send = (s.link st).send
    ∧ (t.link st).outgoing = (s.link st).outgoing

/-- A request of station `st` has been answered: its reply slot holds a reply, and its send lane stands. -/
def Answered (st : Station) (s t : State) : Prop := (t.link st).replySlot ≠ none ∧ SameLane st s t

section
variable {st : Station} {s t : State}

theorem SameLane.refl (st : Station) (s : State) : SameLane st s s := ⟨rfl, rfl, rfl⟩

theorem SameLane.of_marks (h : ∀ x, Link.sameButMarks (s.link x) (t.link x)) : SameLane st s t := by
  have same := h st
  unfold Link.sameButMarks at same
  unfold SameLane
  rw [same]
  exact ⟨rfl, rfl, rfl⟩

theorem SameLane.placeReply (h : SameLane st s t) (kind : Byte) (body : List Byte) :
    Answered st s (t.placeReply st kind body) := by
  unfold Answered SameLane State.placeReply
  rw [State.link_onLink_self]
  exact ⟨Option.some_ne_none _, h⟩

theorem SameLane.answer (h : SameLane st s t) (kind : Byte) (c : ReplyCode) : Answered st s (t.answer st kind c) :=
  h.placeReply kind _

/-- A check that fails answers at once; the other checks follow (R162). -/
theorem answered_ite {c : Prop} [Decidable c] {kind : Byte} {code : ReplyCode} (h : Answered st s t) :
    Answered st s (if c then s.answer st kind code else t) := by
  split
  · exact (SameLane.refl st s).answer kind code
  · exact h

/-! ### The requests, one by one -/

theorem LineCommandResult.answered {kind mask : Byte} {out : LineNo → ReplyCode} {after : LineNo → Line}
    (h : LineCommandResult kind st mask s t out after) : Answered st s t := by
  obtain ⟨-, reply, -, -, links, -⟩ := h
  have same := links st
  unfold Answered SameLane
  rw [reply, same]
  exact ⟨Option.some_ne_none _, rfl, rfl, rfl⟩

theorem answered_of_onlyReply {r : Reply} (h : s.onlyReply t st r) : Answered st s t := by
  unfold State.onlyReply at h
  unfold Answered SameLane
  rw [h, State.link_putLink_self]
  exact ⟨Option.some_ne_none _, rfl, rfl, rfl⟩

theorem answered_of_quickRelease (h : s.linksButReply t st) (reply : (t.link st).replySlot ≠ none) : Answered st s t := by
  have same := h st
  unfold Answered SameLane
  refine ⟨reply, ?_⟩
  rw [same]
  exact ⟨rfl, rfl, rfl⟩

/-- A request command's outcome is that of its request event. -/
theorem dispatchRequest_of_exec {i : Instr} {s : State} {P : State → Prop} (running : s.running = true) (h : i.kind ≠ none)
    (result : ∃ t, exec i s = .next t ∧ P t) : P (dispatchRequest i s) := by
  obtain ⟨t, next, ht⟩ := result
  rw [exec_request i s h, whileRunning_running _ running] at next
  injection next with same
  rw [same]
  exact ht

/-- The nine line commands (R163). -/
theorem lineCommands_answered (accepted : s.accepts st = true) (mask option : Byte) (choice : optionOk option = true) :
    ∀ c ∈ [(Instr.deploy st mask, 0x20#8), (.engage st mask, 0x21#8), (.lock st mask, 0x22#8), (.hold st mask, 0x23#8),
        (.mark st mask, 0x24#8), (.release st mask option, 0x25#8), (.rewind st mask, 0x26#8),
        (.quickRelease st mask, 0x27#8), (.resetLine st mask, 0x28#8)],
      Answered st s (dispatchRequest c.1 s) := by
  have running := ((accepts_iff s st).1 accepted).1
  intro c hc
  have request : c.1.kind ≠ none := by
    simp only [List.mem_cons, List.not_mem_nil, or_false] at hc
    obtain rfl | rfl | rfl | rfl | rfl | rfl | rfl | rfl | rfl := hc <;> exact Option.some_ne_none _
  refine dispatchRequest_of_exec running request ?_
  cases restart : (s.link st).restartInd with
  | true =>
    obtain ⟨t, next, reply⟩ := lineCommandRestartPending st mask option s accepted restart choice c hc
    exact ⟨t, next, answered_of_onlyReply reply⟩
  | false =>
    have result {i : Instr} {kind : Byte} {out : LineNo → ReplyCode} {after : LineNo → Line}
        (h : ∃ t, exec i s = .next t ∧ LineCommandResult kind st mask s t out after) :
        ∃ t, exec i s = .next t ∧ Answered st s t := h.imp fun _ h => ⟨h.1, h.2.answered⟩
    obtain ⟨deploy, release, rewind⟩ := deployReleaseRewindResult st mask option s accepted restart
    obtain ⟨engage, lock⟩ := engageLockResult st mask s accepted restart
    obtain ⟨hold, mark, reset⟩ := holdMarkResetResult st mask s accepted restart
    obtain ⟨t, quick, -, -, -, reply, links, -⟩ := quickReleaseResult st mask s accepted restart
    simp only [List.mem_cons, List.not_mem_nil, or_false] at hc
    obtain rfl | rfl | rfl | rfl | rfl | rfl | rfl | rfl | rfl := hc
    · exact result deploy
    · exact result engage
    · exact result lock
    · exact result hold
    · exact result mark
    · exact result (release choice)
    · exact result rewind
    · exact ⟨t, quick, answered_of_quickRelease links (by rw [reply]; exact Option.some_ne_none _)⟩
    · exact result reset

theorem takeClaim_answered (groups option : Byte) : Answered st s (takeClaim st groups option s) :=
  (SameLane.of_marks (takeGroups_linesWorked (fun g u => setRecord_linesWorked g _ u) _ s).beside.links).placeReply _ _

theorem takeYield_answered (groups : Byte) : Answered st s (takeYield st groups s) := by
  have yields (g : GroupNo) (u : State) : LinesWorked u (yieldGroup st g u).1 := by
    rw [yieldGroup_eq]
    exact setRecord_linesWorked g _ u
  exact (SameLane.of_marks (takeGroups_linesWorked yields _ s).beside.links).placeReply _ _

theorem takeClearFlags_answered (mask : Byte) (flags : BitVec 16) : Answered st s (takeClearFlags st mask flags s) :=
  (SameLane.of_marks (clearLines_linesWorked st flags _ s).beside.links).placeReply _ _

theorem takeClearStation_answered (mask : Byte) : Answered st s (takeClearStation st mask s) := by
  rw [takeClearStation_eq]
  unfold Answered SameLane
  rw [State.link_putLink_self]
  exact ⟨Option.some_ne_none _, rfl, rfl, rfl⟩

theorem takeWriteProfile_answered (group : Byte) (p : Profile) : Answered st s (takeWriteProfile st group p s) := by
  rw [takeWriteProfile_eq]
  refine SameLane.answer ?_ _ _
  unfold SameLane
  rw [(writeProfileIf_profilesOnly ..).link]
  exact ⟨rfl, rfl, rfl⟩

theorem writeBerth_links (b : BerthSettings) (s : State) (x : Station) : Link.sameButMarks (s.link x) ((s.writeBerth b).link x) := by
  unfold State.writeBerth
  extract_lets old _ s1 s2
  have inhibits : s2.link x = s.link x := by
    unfold s2
    split
    · rfl
    · rw [State.link, (reevaluateInhibits_spec none s1).1.links]
      rfl
  rw [← inhibits]
  split
  · rfl
  · exact (reevaluateAll_authorityOnly s2).links x

theorem takeWriteBerth_answered (scope stagger lead : Byte) : Answered st s (takeWriteBerth st scope stagger lead s) := by
  refine answered_ite (answered_ite ?_)
  cases settingsOfBytes scope stagger lead with
  | none => exact (SameLane.refl st s).answer _ _
  | some b => exact (SameLane.of_marks (writeBerth_links b s)).answer _ _

theorem writeSetup_links (n : LineNo) (u : LineSetup) (s : State) (x : Station) :
    Link.sameButMarks (s.link x) ((s.writeSetup n u).link x) := by
  unfold State.writeSetup
  extract_lets old table s1 s2
  have line : Link.sameButMarks (s.link x) (s2.link x) := (onLine_besideLines n _ s1).links x
  split
  · exact line
  · have same : (s2.reevaluateInhibits none).link x = s2.link x := by
      simp only [State.link, (reevaluateInhibits_spec none s2).1.links]
    rw [same]
    exact line

theorem takeWriteLineSetup_answered (line : Byte) (f : SetupFields) : Answered st s (takeWriteLineSetup st line f s) := by
  refine answered_ite (answered_ite (answered_ite (answered_ite (answered_ite ?_))))
  cases setupOfFields f with
  | none => exact (SameLane.refl st s).answer _ _
  | some u => exact (SameLane.of_marks (writeSetup_links _ u s)).answer _ _

theorem takeSaveSetup_answered : Answered st s (takeSaveSetup st s) :=
  answered_ite (answered_ite (answered_ite (SameLane.answer ⟨rfl, rfl, rfl⟩ _ _)))

theorem takeRestart_answered : Answered st s (takeRestart st s) :=
  answered_ite (answered_ite (SameLane.answer ⟨rfl, rfl, rfl⟩ _ _))

theorem requestEvent_taken {take : State → State} (accepted : s.accepts st = true) : s.requestEvent st true take = take s := by
  obtain ⟨-, present, empty⟩ := (accepts_iff s st).1 accepted
  simp [State.requestEvent, present, empty]

/-- A well-formed request of a station whose reply slot is empty is answered (R161). -/
theorem dispatchRequest_answered {i : Instr} (sender : i.sender = some st) (accepted : s.accepts st = true)
    (ok : i.bodyOk = true) : Answered st s (dispatchRequest i s) := by
  have event {b : Bool} {take : State → State} (h : b = true) (answered : Answered st s (take s)) :
      Answered st s (s.requestEvent st b take) := by
    rw [h, requestEvent_taken accepted]
    exact answered
  have unit (kind : Byte) (body : List Byte) : Answered st s (s.placeReply st kind body) :=
    (SameLane.refl st s).placeReply kind body
  have lines (mask option : Byte) (choice : optionOk option = true) := lineCommands_answered accepted mask option choice
  cases i with
  | claim x groups option => obtain rfl := Option.some.inj sender; exact event ok (takeClaim_answered groups option)
  | yieldGroups x groups => obtain rfl := Option.some.inj sender; exact event ok (takeYield_answered groups)
  | query x => obtain rfl := Option.some.inj sender; exact event ok (unit _ _)
  | deploy x mask => obtain rfl := Option.some.inj sender; exact lines mask 0#8 rfl (_, 0x20#8) (by simp)
  | engage x mask => obtain rfl := Option.some.inj sender; exact lines mask 0#8 rfl (_, 0x21#8) (by simp)
  | lock x mask => obtain rfl := Option.some.inj sender; exact lines mask 0#8 rfl (_, 0x22#8) (by simp)
  | hold x mask => obtain rfl := Option.some.inj sender; exact lines mask 0#8 rfl (_, 0x23#8) (by simp)
  | mark x mask => obtain rfl := Option.some.inj sender; exact lines mask 0#8 rfl (_, 0x24#8) (by simp)
  | release x mask option => obtain rfl := Option.some.inj sender; exact lines mask option ok (_, 0x25#8) (by simp)
  | rewind x mask => obtain rfl := Option.some.inj sender; exact lines mask 0#8 rfl (_, 0x26#8) (by simp)
  | quickRelease x mask => obtain rfl := Option.some.inj sender; exact lines mask 0#8 rfl (_, 0x27#8) (by simp)
  | resetLine x mask => obtain rfl := Option.some.inj sender; exact lines mask 0#8 rfl (_, 0x28#8) (by simp)
  | readLines x first count => obtain rfl := Option.some.inj sender; exact event ok (unit _ _)
  | readGroup x group => obtain rfl := Option.some.inj sender; exact event ok (unit _ _)
  | readSetup x line => obtain rfl := Option.some.inj sender; exact event ok (unit _ _)
  | clearFlags x mask flags => obtain rfl := Option.some.inj sender; exact event ok (takeClearFlags_answered mask flags)
  | clearStation x mask => obtain rfl := Option.some.inj sender; exact event ok (takeClearStation_answered mask)
  | writeProfile x group p => obtain rfl := Option.some.inj sender; exact event ok (takeWriteProfile_answered group p)
  | writeBerth x scope stagger lead =>
    obtain rfl := Option.some.inj sender
    exact event ok (takeWriteBerth_answered scope stagger lead)
  | writeLineSetup x line f => obtain rfl := Option.some.inj sender; exact event ok (takeWriteLineSetup_answered line f)
  | saveSetup x => obtain rfl := Option.some.inj sender; exact event ok takeSaveSetup_answered
  | restart x => obtain rfl := Option.some.inj sender; exact event ok takeRestart_answered
  | _ => cases sender

/-- A request of a PRESENT station is discarded with link error, or answered (R155, R161). -/
theorem dispatchRequest_cases {i : Instr} (sender : i.sender = some st) (running : s.running = true)
    (present : s.present st = true) :
    dispatchRequest i s = s.latchLinkError st
      ∨ (s.link st).replySlot = none ∧ Answered st s (dispatchRequest i s) := by
  by_cases ready : i.bodyOk = true ∧ (s.link st).replySlot = none
  · exact .inr ⟨ready.2, dispatchRequest_answered sender ((accepts_iff s st).2 ⟨running, present, ready.2⟩) ready.1⟩
  · obtain ⟨take, event⟩ := dispatchRequest_eq_requestEvent sender
    left
    rw [event]
    refine requestEvent_discarded present ?_ take
    rwa [not_and_or, Bool.not_eq_true] at ready

end

theorem decodeRequest_sender {st : Station} {kind : Byte} {body : List Byte} {i : Instr}
    (h : decodeRequest st kind body = some i) : i.sender = some st := by
  unfold decodeRequest at h
  split at h
  · split at h <;> cases h <;> rfl
  · cases h

/-- A completed message is discarded with link error, or its request is answered (R155, R161). -/
theorem messageComplete_cases {s : State} {st : Station} (kind : Byte) (length : Nat) (bytes : List Byte)
    (running : s.running = true) (present : s.present st = true) :
    s.messageComplete st kind length bytes = s.latchLinkError st
      ∨ (s.link st).replySlot = none ∧ Answered st s (s.messageComplete st kind length bytes) := by
  unfold State.messageComplete
  dsimp only
  split
  · exact .inl rfl
  · split
    · exact .inl rfl
    next request => exact dispatchRequest_cases (decodeRequest_sender request) running present

end Sys2Proof.Machine

/-! PROOFS. The framing of a message and the steps of the send lane: settles O43 and O44. -/

namespace Sys2Proof.Machine

/-! ### The send lane at a good slot -/

/-- A station's items once its send lane has taken a good slot's take bit, a restart apart (R156). -/
def Link.laneStepped (take : Bool) (k : Link) : Link :=
  match k.send, take, k.outgoing with
  | .offering _, true, some o =>
    if o.next < o.bytes.length then { k with send := .awaitingClear }
    else { k with send := .awaitingClear, outgoing := none, replySlot := if o.isReply then none else k.replySlot }
  | .offering _, true, none => { k with send := .awaitingClear }
  | .awaitingClear, false, some o =>
    match o.bytes[o.next]? with
    | some b => { k with send := .offering b, outgoing := some { o with next := o.next + 1 } }
    | none => { k with send := .idle }
  | .awaitingClear, false, none => { k with send := .idle }
  | .idle, _, _ | .offering _, false, _ | .awaitingClear, true, _ => k

theorem onLink_self {s : State} {st : Station} {f : Link → Link} (h : f (s.link st) = s.link st) : s.onLink st f = s := by
  rw [State.onLink, h, putLink_link_self]

theorem Link.laneStepped_offering {k : Link} {b : Byte} (send : k.send = .offering b) :
    (k.outgoing = none → k.laneStepped true = { k with send := .awaitingClear })
      ∧ (∀ o, k.outgoing = some o → o.next < o.bytes.length → k.laneStepped true = { k with send := .awaitingClear })
      ∧ (∀ o, k.outgoing = some o → ¬o.next < o.bytes.length →
          k.laneStepped true
            = { k with send := .awaitingClear, outgoing := none, replySlot := if o.isReply then none else k.replySlot }) := by
  refine ⟨fun outgoing => ?_, fun o outgoing more => ?_, fun o outgoing last => ?_⟩
  · simp [Link.laneStepped, send, outgoing]
  · simp [Link.laneStepped, send, outgoing, more]
  · simp [Link.laneStepped, send, outgoing, last]

theorem Link.laneStepped_cleared {k : Link} (send : k.send = .awaitingClear) :
    (k.outgoing = none → k.laneStepped false = { k with send := .idle })
      ∧ (∀ o b, k.outgoing = some o → o.bytes[o.next]? = some b →
          k.laneStepped false = { k with send := .offering b, outgoing := some { o with next := o.next + 1 } })
      ∧ (∀ o, k.outgoing = some o → o.bytes[o.next]? = none → k.laneStepped false = { k with send := .idle }) := by
  refine ⟨fun outgoing => ?_, fun o b outgoing more => ?_, fun o outgoing last => ?_⟩
  · simp [Link.laneStepped, send, outgoing]
  · simp [Link.laneStepped, send, outgoing, more]
  · simp [Link.laneStepped, send, outgoing, last]

/-- A take that is not that of the last byte of the reply of a station in the pending restart steps the lane alone. -/
theorem sendStep_eq {u : State} {st : Station} {slot : BitVec 32}
    (restarts : st ∈ u.pendingRestart → ¬(u.link st).endsReply slot) :
    u.sendStep st (slotTake slot) = u.onLink st (Link.laneStepped (slotTake slot)) := by
  change _ = u.putLink st ((u.link st).laneStepped (slotTake slot))
  unfold State.sendStep
  dsimp only
  cases send : (u.link st).send with
  | idle => rw [show (u.link st).laneStepped (slotTake slot) = u.link st by simp [Link.laneStepped, send], putLink_link_self]
  | offering b =>
    obtain ⟨unsent, goesOn, ends⟩ := Link.laneStepped_offering (k := u.link st) send
    dsimp only
    cases take : slotTake slot with
    | false =>
      rw [show (u.link st).laneStepped false = u.link st by simp [Link.laneStepped, send], putLink_link_self]
      rfl
    | true =>
      cases outgoing : (u.link st).outgoing with
      | none =>
        rw [unsent outgoing]
        rfl
      | some o =>
        by_cases more : o.next < o.bytes.length
        · rw [goesOn o outgoing more]
          exact if_pos more
        · have stays : (o.isReply && u.pendingRestart.contains st) = false := by
            rw [Bool.and_eq_false_iff, or_iff_not_imp_left, Bool.not_eq_false, ← Bool.not_eq_true, List.contains_iff_mem]
            exact fun reply pending => restarts pending ⟨take, ⟨b, send⟩, o, outgoing, reply, Nat.le_of_not_lt more⟩
          rw [ends o outgoing more]
          refine (if_neg more).trans ?_
          unfold State.laneCompletion
          simp only [stays, Bool.false_eq_true, if_false]
          rfl
  | awaitingClear =>
    obtain ⟨unsent, goesOn, ends⟩ := Link.laneStepped_cleared (k := u.link st) send
    dsimp only
    cases take : slotTake slot with
    | true =>
      rw [show (u.link st).laneStepped true = u.link st by simp [Link.laneStepped, send], putLink_link_self]
      rfl
    | false =>
      simp only [Bool.false_eq_true, if_false]
      cases outgoing : (u.link st).outgoing with
      | none =>
        rw [unsent outgoing]
        rfl
      | some o =>
        cases byte : o.bytes[o.next]? with
        | none =>
          rw [ends o outgoing byte]
          simp only [byte]
          rfl
        | some b =>
          rw [goesOn o b outgoing byte]
          simp only [byte]
          rfl

/-- The take of the last byte of the reply of a station in the pending restart restarts the part (R156, R170). -/
theorem sendStep_restarts {u : State} {st : Station} {slot : BitVec 32} (pending : st ∈ u.pendingRestart)
    (ends : (u.link st).endsReply slot) :
    u.sendStep st (slotTake slot)
      = (u.onLink st fun k => { k with send := .awaitingClear, outgoing := none, replySlot := none }).restartPart st := by
  obtain ⟨take, ⟨b, send⟩, o, outgoing, reply, last⟩ := ends
  unfold State.sendStep
  simp only [send, take, if_true, outgoing, if_neg (Nat.not_lt.2 last)]
  unfold State.laneCompletion
  simp [reply, pending]

/-- The lane of a PRESENT station steps alike where the part restarts (R156, R170). -/
theorem sendStep_lane {u : State} {st : Station} {slot : BitVec 32} (present : (u.link st).presence = .present) :
    let k := (u.sendStep st (slotTake slot)).link st
    let k' := (u.link st).laneStepped (slotTake slot)
    k.send = k'.send ∧ k.outgoing = k'.outgoing ∧ k.replySlot = k'.replySlot := by
  by_cases restarts : st ∈ u.pendingRestart ∧ (u.link st).endsReply slot
  · obtain ⟨d, link⟩ := restartPart_link st
      (u.onLink st fun k => { k with send := .awaitingClear, outgoing := none, replySlot := none }) st
    rw [State.link_onLink_self] at link
    rw [sendStep_restarts restarts.1 restarts.2, link]
    obtain ⟨take, ⟨b, send⟩, o, outgoing, reply, last⟩ := restarts.2
    rw [take, (Link.laneStepped_offering send).2.2 o outgoing (Nat.not_lt.2 last), if_pos reply]
    simp [Link.atRestart, linkAtPowerOn, present]
  · rw [sendStep_eq (by simpa using restarts), State.link_onLink_self]
    exact ⟨rfl, rfl, rfl⟩

theorem Link.laneStepped_replySlot (k : Link) (slot : BitVec 32) :
    (k.endsReply slot → (k.laneStepped (slotTake slot)).replySlot = none)
      ∧ (¬k.endsReply slot → (k.laneStepped (slotTake slot)).replySlot = k.replySlot) := by
  constructor
  · rintro ⟨take, ⟨b, send⟩, o, outgoing, reply, last⟩
    simp [Link.laneStepped, send, take, outgoing, Nat.not_lt.2 last, reply]
  · intro goesOn
    unfold Link.laneStepped
    split
    next b o send take outgoing =>
      by_cases more : o.next < o.bytes.length
      · rw [if_pos more]
      · have notice : ¬o.isReply = true := fun reply =>
          goesOn ⟨take, ⟨b, send⟩, o, outgoing, reply, Nat.le_of_not_lt more⟩
        rw [if_neg more, if_neg notice]
    next => rfl
    next => split <;> rfl
    next => rfl
    next => rfl
    next => rfl
    next => rfl

theorem Link.laneStepped_marks (take : Bool) (k : Link) :
    (k.laneStepped take).groupMarks = k.groupMarks ∧ (k.laneStepped take).lineMarks = k.lineMarks := by
  unfold Link.laneStepped
  split
  next => split <;> exact ⟨rfl, rfl⟩
  next => exact ⟨rfl, rfl⟩
  next => split <;> exact ⟨rfl, rfl⟩
  next => exact ⟨rfl, rfl⟩
  next => exact ⟨rfl, rfl⟩
  next => exact ⟨rfl, rfl⟩
  next => exact ⟨rfl, rfl⟩

/-- A transfer that begins leaves the reply slot (R157). -/
theorem beginTransfer_replySlot (st : Station) (s : State) :
    ((s.beginTransfer st).link st).replySlot = (s.link st).replySlot := by
  unfold State.beginTransfer State.offerMessage
  dsimp only
  split
  · rw [State.link_onLink_self]
  · split
    · rw [State.link_onLink_self, State.link_onLink_self]
    · split
      · rw [State.link_onLink_self, State.link_onLink_self]
      · rfl

theorem Link.endsReply.not_idle {k : Link} {slot : BitVec 32} (h : k.endsReply slot) : k.send ≠ .idle := by
  obtain ⟨-, ⟨b, send⟩, -⟩ := h
  rw [send]
  exact SendLane.noConfusion

/-- The send lane and the next slot after the byte received (R147, R156, R157). -/
theorem frameEvent_framed {s u : State} {st : Station} {slot : BitVec 32} (running : s.running = true)
    (present : (s.link st).presence = .present) (good : slotGood slot = true)
    (received : (s.stanced st (slotStance slot)).receiveStep st (slotOffer slot) (slotByte slot) = u)
    (lane : SameLane st s u) (restarts : st ∈ u.pendingRestart → ¬(s.link st).endsReply slot) :
    let k := s.link st
    ∃ t, exec (.frameEvent st slot) s = .next t ∧ u.sendLaneOnly t st
      ∧ (k.endsReply slot → (t.link st).replySlot = none)
      ∧ (¬k.endsReply slot → (t.link st).replySlot = (u.link st).replySlot)
      ∧ (k.send ≠ .idle ∨ k.replySlot = none ∧ (u.link st).replySlot ≠ none →
          (t.link st).groupMarks = (u.link st).groupMarks ∧ (t.link st).lineMarks = (u.link st).lineMarks)
      ∧ (k.send = .idle → k.replySlot = none → (u.link st).replySlot ≠ none →
          (t.link st).send = .idle ∧ (t.link st).outgoing = k.outgoing) := by
  intro k
  obtain ⟨-, send, outgoing⟩ := lane
  have ends : (u.link st).endsReply slot ↔ k.endsReply slot := Link.endsReply_congr send outgoing
  rw [← ends] at restarts
  refine ⟨_, whileRunning_running _ running, (frameEvent_good_sendOnly present good received restarts).sendLaneOnly, ?_⟩
  rw [frameEvent_good present good, received, composeSlot_link]
  change (_ → ((u.transferred st slot k.replySlot).link st).replySlot = none)
    ∧ (_ → ((u.transferred st slot k.replySlot).link st).replySlot = _)
    ∧ (_ → ((u.transferred st slot k.replySlot).link st).groupMarks = _
      ∧ ((u.transferred st slot k.replySlot).link st).lineMarks = _)
    ∧ (_ → _ → _ → ((u.transferred st slot k.replySlot).link st).send = _
      ∧ ((u.transferred st slot k.replySlot).link st).outgoing = _)
  unfold State.transferred
  rw [send]
  by_cases idle : k.send = .idle
  · rw [if_pos idle]
    have stands : ¬k.endsReply slot := fun h => h.not_idle idle
    by_cases placed : k.replySlot = none ∧ (u.link st).replySlot ≠ none
    · have skip : (k.replySlot.isNone && (u.link st).replySlot.isSome) = true := by
        simpa [Option.isSome_iff_ne_none] using placed
      rw [if_pos skip]
      exact ⟨fun h => absurd h stands, fun _ => rfl, fun _ => ⟨rfl, rfl⟩, fun _ _ _ => ⟨send.trans idle, outgoing⟩⟩
    · have begins : ¬(k.replySlot.isNone && (u.link st).replySlot.isSome) = true := by
        simpa [Option.isSome_iff_ne_none] using placed
      rw [if_neg begins]
      exact ⟨fun h => absurd h stands, fun _ => beginTransfer_replySlot st u,
        fun h => absurd (h.resolve_left (not_not.2 idle)) placed, fun _ empty filled => absurd ⟨empty, filled⟩ placed⟩
  · rw [if_neg idle, sendStep_eq restarts, State.link_onLink_self]
    obtain ⟨emptied, kept⟩ := (u.link st).laneStepped_replySlot slot
    exact ⟨fun h => emptied (ends.2 h), fun h => kept (mt ends.1 h), fun _ => Link.laneStepped_marks _ _,
      fun h => absurd h idle⟩

/-! ### The lane of the byte received -/

theorem stanced_sameLane (st : Station) (code : BitVec 4) (s : State) : SameLane st s (s.stanced st code) := by
  unfold SameLane
  rw [stanced_link_self]
  exact ⟨rfl, rfl, rfl⟩

theorem SameLane.trans {st : Station} {s t u : State} (h : SameLane st s t) (h' : SameLane st t u) : SameLane st s u :=
  ⟨h'.1.trans h.1, h'.2.1.trans h.2.1, h'.2.2.trans h.2.2⟩

theorem onLink_sameLane {st : Station} {f : Link → Link} {s : State}
    (h : (f (s.link st)).presence = (s.link st).presence ∧ (f (s.link st)).send = (s.link st).send
      ∧ (f (s.link st)).outgoing = (s.link st).outgoing) : SameLane st s (s.onLink st f) := by
  unfold SameLane
  rw [State.link_onLink_self]
  exact h

/-- The message that the byte received completes (R153, R154). -/
theorem receiveStep_complete {s : State} {st : Station} {slot : BitVec 32} (h : (s.link st).completes slot = true) :
    ∃ kind length bytes, s.receiveStep st (slotOffer slot) (slotByte slot)
      = (s.onLink st (Link.byteTaken .kind false)).messageComplete st kind length bytes := by
  unfold Link.completes at h
  simp only [Bool.and_eq_true, beq_iff_eq] at h
  obtain ⟨⟨offers, looked⟩, last⟩ := h
  rw [offers]
  cases incoming : (s.link st).incoming with
  | kind => simp [incoming] at last
  | length kind => exact ⟨kind, 0, [], receiveStep_empty looked incoming (by simpa [incoming] using last)⟩
  | body kind length remaining bytes =>
    exact ⟨kind, length, bytes ++ [slotByte slot], receiveStep_last looked incoming (by simpa [incoming] using last)⟩

/-- The byte received leaves the send lane to its step. -/
theorem receiveStep_sameLane {s : State} {st : Station} {slot : BitVec 32} (running : s.running = true)
    (present : (s.link st).presence = .present) : SameLane st s (s.receiveStep st (slotOffer slot) (slotByte slot)) := by
  cases completes : (s.link st).completes slot with
  | false =>
    obtain ⟨presence, -, -, -, send, outgoing, -⟩ := (receiveStep_receiveOnly st slot s completes).2.same
    exact ⟨presence, send, outgoing⟩
  | true =>
    obtain ⟨kind, length, bytes, received⟩ := receiveStep_complete completes
    have taken : SameLane st s (s.onLink st (Link.byteTaken .kind false)) := onLink_sameLane ⟨rfl, rfl, rfl⟩
    have here : (s.onLink st (Link.byteTaken .kind false)).present st = true := by
      rw [State.present, State.link_onLink_self]
      exact beq_iff_eq.2 present
    rw [received]
    obtain discarded | ⟨-, -, answered⟩ := messageComplete_cases (s := s.onLink st (Link.byteTaken .kind false)) kind length
      bytes running here
    · rw [discarded]
      exact taken.trans (onLink_sameLane ⟨rfl, rfl, rfl⟩)
    · exact taken.trans answered

/-- The send lane at a good slot at which it is not IDLE (R156). -/
theorem frameEvent_lane {s : State} {st : Station} {slot : BitVec 32} (running : s.running = true)
    (present : (s.link st).presence = .present) (good : slotGood slot = true) (busy : (s.link st).send ≠ .idle) :
    ∃ k : Link, k.send = (s.link st).send ∧ k.outgoing = (s.link st).outgoing
      ∧ ((s.link st).completes slot = false → k.replySlot = (s.link st).replySlot)
      ∧ let k' := ((s.frameEvent st slot).link st)
        k'.send = (k.laneStepped (slotTake slot)).send ∧ k'.outgoing = (k.laneStepped (slotTake slot)).outgoing
          ∧ k'.replySlot = (k.laneStepped (slotTake slot)).replySlot := by
  have running' : (s.stanced st (slotStance slot)).running = true := running
  have stanced := stanced_sameLane st (slotStance slot) s
  have received := receiveStep_sameLane (slot := slot) running' (stanced.1.trans present)
  obtain ⟨presence, send, outgoing⟩ := stanced.trans received
  refine ⟨_, send, outgoing, fun completes => ?_, ?_⟩
  · have incomplete : ((s.stanced st (slotStance slot)).link st).completes slot = false := by
      rw [stanced_link_self]
      exact completes
    have kept := (receiveStep_receiveOnly st slot _ incomplete).2.same.2.2.2.2.2.2.1
    rw [kept, stanced_link_self]
    rfl
  · rw [frameEvent_good present good, composeSlot_link]
    unfold State.transferred
    rw [if_neg (by rw [send]; exact busy)]
    exact sendStep_lane (presence.trans present)

end Sys2Proof.Machine

namespace Sys2Proof
open Machine

/-- Settles O44. -/
theorem sendLaneSteps : Obligations.SendLaneSteps := by
  unfold Obligations.SendLaneSteps
  intro st slot s k running present good _
  have lane (busy : k.send ≠ .idle) := frameEvent_lane running present good busy
  refine ⟨_, whileRunning_running _ running, fun b send take => ?_, fun b o send take out more => ?_,
    fun b o send take out last => ?_, fun incomplete busy goesOn => ?_, fun send take => ?_, fun b o send take out byte => ?_,
    fun send take out => ?_⟩
  · obtain ⟨k', send', out', -, offers, sent, -⟩ := lane (by rw [send]; nofun)
    rw [offers, sent, take]
    simp [Link.laneStepped, send', send, out', k]
  · obtain ⟨k', send', out', -, offers, sent, -⟩ := lane (by rw [send]; nofun)
    rw [offers, sent, take, (Link.laneStepped_offering (send'.trans send)).2.1 o (out'.trans out) more]
    exact ⟨rfl, out'.trans out⟩
  · obtain ⟨k', send', out', -, offers, sent, slot'⟩ := lane (by rw [send]; nofun)
    rw [offers, sent, slot', take,
      (Link.laneStepped_offering (send'.trans send)).2.2 o (out'.trans out) (Nat.not_lt.2 last)]
    exact ⟨rfl, rfl, fun reply => if_pos reply⟩
  · obtain ⟨k', send', out', kept, -, -, slot'⟩ := lane busy
    rw [slot', (k'.laneStepped_replySlot slot).2 (mt (Link.endsReply_congr send' out').1 goesOn), kept incomplete]
  · obtain ⟨k', send', -, -, offers, -⟩ := lane (by rw [send]; nofun)
    rw [offers, take]
    simp [Link.laneStepped, send', send, k]
  · obtain ⟨k', send', out', -, offers, sent, -⟩ := lane (by rw [send]; nofun)
    rw [offers, sent, take, (Link.laneStepped_cleared (send'.trans send)).2.1 o b (out'.trans out) byte]
    exact ⟨rfl, rfl⟩
  · obtain ⟨k', send', out', -, offers, -⟩ := lane (by rw [send]; nofun)
    rw [offers, take, (Link.laneStepped_cleared (send'.trans send)).1 (out'.trans out)]

end Sys2Proof

/-! PROOFS. The framing of a message: settles O43. -/

namespace Sys2Proof.Machine

/-- The kind codes of the requests and the lengths of their bodies, as R172 lists them. -/
def requestKinds : List (Byte × Nat) :=
  [(0x10#8, 2), (0x11#8, 1), (0x12#8, 0), (0x20#8, 1), (0x21#8, 1), (0x22#8, 1), (0x23#8, 1), (0x24#8, 1),
    (0x25#8, 2), (0x26#8, 1), (0x27#8, 1), (0x28#8, 1), (0x30#8, 2), (0x31#8, 1), (0x32#8, 1), (0x40#8, 3),
    (0x41#8, 1), (0x50#8, 39), (0x51#8, 3), (0x52#8, 9), (0x53#8, 0), (0x60#8, 0)]

theorem requestLength_listed {kind : Byte} {n : Nat} (h : requestLength kind = some n) : (kind, n) ∈ requestKinds := by
  have named {c : Nat} (small : c < 256) (code : kind.toNat = c) : kind = BitVec.ofNat 8 c :=
    BitVec.eq_of_toNat_eq (by rw [code, BitVec.toNat_ofNat, Nat.mod_eq_of_lt small])
  unfold requestLength at h
  split at h
  case h_23 => cases h
  all_goals
    next code =>
      obtain rfl := named (by norm_num) code
      cases h
      decide

/-- A message of a kind and length that R172 does not list is no request (R161). -/
theorem decodeRequest_unlisted {st : Station} {kind : Byte} {body : List Byte} (h : (kind, body.length) ∉ requestKinds) :
    decodeRequest st kind body = none := by
  unfold decodeRequest
  exact if_neg fun length => h (requestLength_listed length)

theorem Instr.kind_ne {i : Instr} {kind : Byte} (h : i.kind = some kind) : kind ≠ 0x00#8 ∧ kind ≠ 0xFF#8 := by
  cases i <;> cases h <;> decide

/-- The messages that are discarded with link error (R155, R161). -/
theorem messageComplete_discarded {s : State} {st : Station} {kind : Byte} {body : List Byte} (running : s.running = true)
    (present : s.present st = true)
    (h : (kind, body.length) ∉ requestKinds ∨ (∀ x ∈ kind :: BitVec.ofNat 8 body.length :: body, x = 0x00#8)
      ∨ (∀ x ∈ kind :: BitVec.ofNat 8 body.length :: body, x = 0xFF#8) ∨ (s.link st).replySlot ≠ none) :
    s.messageComplete st kind body.length body = s.latchLinkError st := by
  unfold State.messageComplete
  dsimp only
  rcases h with unlisted | zeros | ones | occupied
  · rw [decodeRequest_unlisted unlisted]
    exact ite_self _
  · exact if_pos (by rw [Bool.or_eq_true, List.all_eq_true]; exact .inl fun x hx => beq_iff_eq.2 (zeros x hx))
  · exact if_pos (by rw [Bool.or_eq_true, List.all_eq_true, List.all_eq_true]; exact .inr fun x hx => beq_iff_eq.2 (ones x hx))
  · exact (messageComplete_cases kind body.length body running present).resolve_right fun h => occupied h.1

/-- The message of a request makes its request event (R154, R172). -/
theorem messageComplete_request {s : State} {st : Station} {i : Instr} {kind : Byte} (sender : i.sender = some st)
    (code : i.kind = some kind) (fit : i.fieldsFit = true) :
    s.messageComplete st kind (encodeBody i).length (encodeBody i) = dispatchRequest i s := by
  obtain ⟨zero, ones⟩ := Instr.kind_ne code
  unfold State.messageComplete
  dsimp only
  rw [decodeRequest_encodeBody sender code fit]
  exact if_neg (by simp [zero, ones])

/-- The station's items once the slot's byte has been taken. -/
theorem stanced_byteTaken (s : State) (st : Station) (code : BitVec 4) (next : Incoming) (discarded : Bool) :
    (s.stanced st code).onLink st (Link.byteTaken next discarded)
      = { s.putLink st
            { s.link st with
              badCount := 0, candidate := some code, stance := (s.link st).stanceAfter code, recv := .taken, gap := 0
              incoming := next
              linkError := (s.link st).linkError || (stanceOf code).isNone || discarded } with
          due := s.due ++ (s.link st).stanceChange st code } := by
  unfold State.onLink
  rw [stanced_link_self]
  unfold State.stanced State.onLink
  exact congrArg (fun t : State => { t with due := s.due ++ (s.link st).stanceChange st code }) (putLink_putLink s st _ _)

theorem byteTaken_sameLane (s : State) (st : Station) (code : BitVec 4) (next : Incoming) (discarded : Bool) :
    SameLane st s ((s.stanced st code).onLink st (Link.byteTaken next discarded)) :=
  (stanced_sameLane st code s).trans (onLink_sameLane ⟨rfl, rfl, rfl⟩)

end Sys2Proof.Machine

namespace Sys2Proof
open Machine

/-- Settles O43. -/
theorem messageFraming : Obligations.MessageFraming := by
  unfold Obligations.MessageFraming
  intro st kind body slot s k b code requests stance latched framed running present good offers looked held restarts
  have received (next : Incoming) (discarded : Bool) :
      (s.stanced st code).onLink st (Link.byteTaken next discarded) = latched next discarded :=
    (stanced_byteTaken s st code next discarded).trans rfl
  have looked' : ((s.stanced st code).link st).recv = .oneLook b := by rw [stanced_link_self]; exact looked
  have incoming' : ((s.stanced st code).link st).incoming = k.incoming := by rw [stanced_link_self]; rfl
  have frame {u : State} (step : (s.stanced st code).receiveStep st true b = u) (lane : SameLane st s u)
      (restarts' : st ∈ u.pendingRestart → ¬k.endsReply slot) : framed u :=
    frameEvent_framed running present good (by rw [offers]; exact step) lane restarts'
  have taken {next : Incoming} {discarded : Bool}
      (step : (s.stanced st code).receiveStep st true b
        = (s.stanced st code).onLink st (Link.byteTaken next discarded)) : framed (latched next discarded) := by
    rw [received] at step
    exact frame step (received next discarded ▸ byteTaken_sameLane s st code next discarded) restarts
  refine ⟨fun h => taken (receiveStep_kind looked' (incoming'.trans h)),
    fun h long => taken (receiveStep_tooLong looked' (incoming'.trans h) long),
    fun h some' short => taken (receiveStep_length looked' (incoming'.trans h) (fun zero => by simp [zero] at some') short),
    fun length remaining bytes h inner => taken (receiveStep_inner looked' (incoming'.trans h) inner), fun last => ?_⟩
  have step : (s.stanced st code).receiveStep st true b = (latched .kind false).messageComplete st kind body.length body := by
    rw [← received]
    obtain ⟨h, zero, rfl⟩ | ⟨bytes, h, rfl⟩ := last
    · exact receiveStep_empty looked' (incoming'.trans h) zero
    · exact receiveStep_last looked' (incoming'.trans h) le_rfl
  have lane : SameLane st s (latched .kind false) := received .kind false ▸ byteTaken_sameLane s st code .kind false
  have here : (latched .kind false).present st = true := beq_iff_eq.2 (lane.1.trans present)
  have empty : ((latched .kind false).link st).replySlot = k.replySlot := by
    rw [← received, State.link_onLink_self, stanced_link_self]
    rfl
  refine ⟨fun discarded => ?_, fun i sender hkind fit encoded => ?_⟩
  · rw [← empty] at discarded
    rw [messageComplete_discarded (s := latched .kind false) running here discarded, ← received] at step
    refine taken (step.trans ?_)
    unfold State.latchLinkError
    rw [onLink_onLink]
    simp only [State.onLink, Link.byteTaken, Bool.or_true]
  · subst encoded
    refine ⟨dispatchRequest i (latched .kind false),
      (exec_request i _ (by rw [hkind]; nofun)).trans (whileRunning_running _ running), ?_⟩
    rw [messageComplete_request sender hkind fit] at step
    obtain discarded | ⟨slotEmpty, answered⟩ := dispatchRequest_cases (s := latched .kind false) sender running here
    · rw [discarded] at step ⊢
      exact frame step (lane.trans (onLink_sameLane ⟨rfl, rfl, rfl⟩)) restarts
    · refine frame step (lane.trans answered.2) fun _ ⟨_, _, o, outgoing, reply, _⟩ => ?_
      exact held st o outgoing reply (empty ▸ slotEmpty)

end Sys2Proof

/-! PROOFS. When a transfer begins, and which message it carries: settles O45. -/

namespace Sys2Proof.Machine

/-! ### The status header -/

theorem bit_getLsbD (b : Bool) {i j : Nat} (h : j < 8) : (bit b i).getLsbD j = (b && decide (i = j)) := by
  unfold bit
  cases b with
  | false => simp
  | true =>
    simp only [if_true, BitVec.getLsbD_shiftLeft, BitVec.getLsbD_one, Bool.true_and, decide_eq_true h]
    by_cases same : i = j
    · subst same; simp
    · simp [same]
      omega

/-- The bits of the status header (R168, R172). -/
theorem header_getLsbD (s : State) (st : Station) :
    let header := s.header st
    header.getLsbD 7 = (s.link st).restartInd ∧ header.getLsbD 6 = (s.link st).linkError
      ∧ header.getLsbD 5 = s.berth.stopped ∧ header.getLsbD 4 = s.releasing
      ∧ header.getLsbD 3 = (s.anyLine fun l => l.control.state == .faulted)
      ∧ header.getLsbD 2 = (s.anyLine fun l => l.has .trip) ∧ header.getLsbD 1 = (s.anyLine fun l => l.has .warn)
      ∧ header.getLsbD 0 = s.holds st := by
  unfold State.header
  simp only [BitVec.getLsbD_or, bit_getLsbD, Nat.reduceLT, Nat.reduceEqDiff, decide_true, decide_false, Bool.and_true,
    Bool.and_false, Bool.or_false, Bool.false_or, OfNat.ofNat_ne_zero, OfNat.ofNat_ne_one, OfNat.zero_ne_ofNat,
    OfNat.one_ne_ofNat, one_ne_zero, zero_ne_one, and_self]

/-! ### The message of a transfer -/

theorem lowest_iff {n : Nat} {p : Fin n → Bool} {i : Fin n} :
    (List.finRange n).find? p = some i ↔ p i = true ∧ ∀ j < i, p j = false := by
  rw [← Fin.find?_eq_find?_finRange]
  exact Fin.find?_eq_some_iff

theorem allGroups_find {p : GroupNo → Bool} {g : GroupNo} :
    allGroups.find? p = some g ↔ p g = true ∧ ∀ h < g, p h = false := lowest_iff (n := 4)

theorem allLines_find {p : LineNo → Bool} {n : LineNo} :
    allLines.find? p = some n ↔ p n = true ∧ ∀ m < n, p m = false := lowest_iff (n := 8)

/-- What a transfer that begins works on, and the message it carries. -/
structure Offered (st : Station) (u t : State) (bytes : List Byte) (isReply : Bool) : Prop where
  send : (t.link st).send = .offering (bytes.headD 0#8)
  outgoing : (t.link st).outgoing = some { bytes := bytes, next := 1, isReply := isReply }
  offer : (t.link st).downstream.getLsbD 9 = true
  linkError : (t.link st).linkError = (u.link st).linkError
  replySlot : (t.link st).replySlot = (u.link st).replySlot
  groupMarks : (t.link st).groupMarks = (u.link st).groupMarks
  lineMarks : (t.link st).lineMarks = (u.link st).lineMarks

theorem offerMessage_offered (st : Station) (bytes : List Byte) (isReply : Bool) (u : State) :
    Offered st u ((u.offerMessage st bytes isReply).composeSlot st) bytes isReply := by
  have offer := (composeSlot_composed (u.offerMessage st bytes isReply) st).offer
  have link : (u.offerMessage st bytes isReply).link st
      = { u.link st with
          send := .offering (bytes.headD 0#8), outgoing := some { bytes := bytes, next := 1, isReply := isReply } } :=
    State.link_onLink_self ..
  have composed := composeSlot_link st (u.offerMessage st bytes isReply)
  rw [link] at composed
  generalize (u.offerMessage st bytes isReply).composeSlot st = t at *
  have send : (t.link st).send = .offering (bytes.headD 0#8) := by rw [composed]
  exact ⟨send, by rw [composed], by rw [offer, send]; rfl, by rw [composed], by rw [composed], by rw [composed],
    by rw [composed]⟩

/-! ### The message that is due -/

section
variable {st : Station} {u : State}

theorem beginTransfer_reply {r : Reply} (reply : (u.link st).replySlot = some r) :
    u.beginTransfer st = u.offerMessage st (u.message st r.kind r.body) true := by
  unfold State.beginTransfer
  dsimp only
  rw [reply]

theorem beginTransfer_group {g : GroupNo} (empty : (u.link st).replySlot = none) (marked : (u.link st).groupMarks[g] = true)
    (lowest : ∀ h < g, (u.link st).groupMarks[h] = false) :
    u.beginTransfer st
      = (u.onLink st fun k => { k with groupMarks := k.groupMarks.set g false }).offerMessage st
          (u.message st authorityNoticeKind (u.groupNotice g)) false := by
  unfold State.beginTransfer
  dsimp only
  rw [empty, allGroups_find.2 ⟨marked, lowest⟩]

theorem beginTransfer_line {n : LineNo} (empty : (u.link st).replySlot = none)
    (unmarked : ∀ g : GroupNo, (u.link st).groupMarks[g] = false) (marked : (u.link st).lineMarks[n] = true)
    (lowest : ∀ m < n, (u.link st).lineMarks[m] = false) :
    u.beginTransfer st
      = (u.onLink st fun k => { k with lineMarks := k.lineMarks.set n false }).offerMessage st
          (u.message st lineNoticeKind (u.lineNotice n)) false := by
  unfold State.beginTransfer
  dsimp only
  rw [empty, List.find?_eq_none.2 fun g _ => by rw [unmarked g]; exact Bool.false_ne_true, allLines_find.2 ⟨marked, lowest⟩]

theorem beginTransfer_nothing (empty : (u.link st).replySlot = none)
    (unmarked : ∀ g : GroupNo, (u.link st).groupMarks[g] = false) (unmarked' : ∀ n : LineNo, (u.link st).lineMarks[n] = false) :
    u.beginTransfer st = u := by
  unfold State.beginTransfer
  dsimp only
  rw [empty, List.find?_eq_none.2 fun g _ => by rw [unmarked g]; exact Bool.false_ne_true,
    List.find?_eq_none.2 fun n _ => by rw [unmarked' n]; exact Bool.false_ne_true]

end

/-- The lowest marked of some numbered items, or none. -/
theorem lowest_cases {n : Nat} (p : Fin n → Bool) :
    (∃ i, p i = true ∧ ∀ j < i, p j = false) ∨ ∀ i, p i = false := by
  cases found : Fin.find? p with
  | none => exact .inr (Fin.find?_eq_none_iff.1 found)
  | some i => exact .inl ⟨i, Fin.find?_eq_some_iff.1 found⟩

theorem groupNotice_message (u : State) (st : Station) (g : GroupNo) :
    (u.message st authorityNoticeKind (u.groupNotice g)).drop 1
      = 0x70#8 :: 12#8 :: BitVec.ofNat 8 g.val :: recordBytes (u.record g) := by
  unfold State.message State.groupNotice
  rw [List.length_cons, recordBytes_length]
  rfl

theorem lineNotice_message (u : State) (st : Station) (n : LineNo) :
    (u.message st lineNoticeKind (u.lineNotice n)).drop 1
      = 0x71#8 :: 14#8 :: BitVec.ofNat 8 n.val :: lineRecordBytes (u.line n) := by
  unfold State.message State.lineNotice
  rw [List.length_cons, lineRecordBytes_length]
  rfl

/-! ### The state at which a transfer begins -/

/-- What of the part a good slot has left as it was when the transfer begins. -/
structure Passed (st : Station) (s u : State) : Prop where
  berth : u.berth = s.berth
  lines : u.lines = s.lines
  records : u.records = s.records
  send : (u.link st).send = (s.link st).send
  replySlot : (u.link st).replySlot = (s.link st).replySlot
  groupMarks : (u.link st).groupMarks = (s.link st).groupMarks
  lineMarks : (u.link st).lineMarks = (s.link st).lineMarks
  restartInd : (u.link st).restartInd = (s.link st).restartInd

/-- The byte received works the receive lane, the message and link error alone, unless it completes a request that places
its reply in the empty reply slot (R153, R154, R155, R161). -/
theorem receiveStep_cases {s : State} {st : Station} {slot : BitVec 32} (running : s.running = true)
    (present : (s.link st).presence = .present) :
    let u := s.receiveStep st (slotOffer slot) (slotByte slot)
    ReceiveOnly st s u
      ∨ (s.link st).completes slot = true ∧ (s.link st).replySlot = none ∧ (u.link st).replySlot ≠ none := by
  dsimp only
  cases completes : (s.link st).completes slot with
  | false => exact .inl (receiveStep_receiveOnly st slot s completes)
  | true =>
    obtain ⟨kind, length, bytes, received⟩ := receiveStep_complete completes
    have taken : ReceiveOnly st s (s.onLink st (Link.byteTaken .kind false)) := (ReceiveOnly.refl st s).onLink _ fun _ => rfl
    have link : (s.onLink st (Link.byteTaken .kind false)).link st = (s.link st).byteTaken .kind false :=
      State.link_onLink_self ..
    obtain discarded | ⟨empty, filled, -⟩ := messageComplete_cases (st := st) (s := s.onLink st (Link.byteTaken .kind false))
      kind length bytes running (by rw [State.present, link]; exact beq_iff_eq.2 present)
    · rw [received, discarded]
      exact .inl (taken.onLink _ fun _ => rfl)
    · rw [link] at empty
      rw [received]
      exact .inr ⟨rfl, empty, filled⟩

/-- A good slot at which the send lane is IDLE begins a transfer, unless it has placed a reply (R157). -/
theorem frameEvent_begins {s : State} {st : Station} {slot : BitVec 32} (running : s.running = true)
    (present : (s.link st).presence = .present) (good : slotGood slot = true) (idle : (s.link st).send = .idle)
    (free : (s.link st).completes slot = false ∨ (s.link st).replySlot ≠ none
      ∨ ((s.frameEvent st slot).link st).replySlot = none) :
    ∃ u, Passed st s u ∧ s.frameEvent st slot = (u.beginTransfer st).composeSlot st := by
  have frame := frameEvent_good present good
  have link := stanced_link_self st (slotStance slot) s
  have here : ((s.stanced st (slotStance slot)).link st).presence = .present := by rw [link]; exact present
  obtain ⟨only, link'⟩ | ⟨completes, empty, filled⟩ :=
    receiveStep_cases (s := s.stanced st (slotStance slot)) (slot := slot) running here
  · obtain ⟨-, -, -, -, send, -, reply, groups, lines, restart⟩ := link'.same
    rw [link] at send reply groups lines restart
    generalize (s.stanced st (slotStance slot)).receiveStep st (slotOffer slot) (slotByte slot) = u at *
    refine ⟨u, ⟨by rw [only.1]; rfl, by rw [only.1]; rfl, by rw [only.1]; rfl, send, reply, groups, lines, restart⟩, ?_⟩
    rw [frame, State.transferred, if_pos (send.trans idle), show (u.link st).replySlot = (s.link st).replySlot from reply]
    cases (s.link st).replySlot <;> rfl
  · obtain ⟨-, send, -⟩ := receiveStep_sameLane (s := s.stanced st (slotStance slot)) (slot := slot) running here
    rw [link] at completes empty send
    generalize (s.stanced st (slotStance slot)).receiveStep st (slotOffer slot) (slotByte slot) = u at *
    have placed : ((s.link st).replySlot.isNone && (u.link st).replySlot.isSome) = true := by
      rw [show (s.link st).replySlot = none from empty, Option.isSome_iff_ne_none.2 filled, Option.isNone_none, Bool.and_self]
    rw [State.transferred, if_pos (send.trans idle), if_pos placed] at frame
    rcases free with incomplete | occupied | empty'
    · cases (show (s.link st).completes slot = true from completes).symm.trans incomplete
    · exact absurd empty occupied
    · rw [frame, composeSlot_link] at empty'
      exact absurd empty' filled

/-- The status header at the start of a transfer (R168). -/
theorem Passed.header {st : Station} {s u : State} (h : Passed st s u) :
    let header := u.header st
    header.getLsbD 7 = (s.link st).restartInd ∧ header.getLsbD 6 = (u.link st).linkError
      ∧ header.getLsbD 5 = s.berth.stopped
      ∧ header.getLsbD 4 = (!s.berth.queue.isEmpty || allLines.any fun n => (s.line n).control.state == .opening)
      ∧ header.getLsbD 3 = (allLines.any fun n => (s.line n).control.state == .faulted)
      ∧ header.getLsbD 2 = (allLines.any fun n => (s.line n).has .trip)
      ∧ header.getLsbD 1 = (allLines.any fun n => (s.line n).has .warn)
      ∧ header.getLsbD 0 = (allGroups.any fun g => ((s.record g).inService.head?.map Entry.station) == some st) := by
  obtain ⟨b7, b6, b5, b4, b3, b2, b1, b0⟩ := header_getLsbD u st
  unfold State.releasing at b4
  unfold State.anyLine State.line at b4 b3 b2 b1
  unfold State.holds State.holder State.record at b0
  rw [h.berth] at b5 b4
  rw [h.lines] at b4 b3 b2 b1
  rw [h.records] at b0
  exact ⟨b7.trans h.restartInd, b6, b5, b4, b3, b2, b1, b0⟩

end Sys2Proof.Machine

namespace Sys2Proof
open Machine

/-- Settles O45. -/
theorem transferBegins : Obligations.TransferBegins := by
  unfold Obligations.TransferBegins
  intro st slot s k running present good idle
  refine ⟨_, whileRunning_running _ running, fun free => ?_⟩
  obtain ⟨u, passed, frame⟩ := frameEvent_begins running present good idle free
  clear free
  rw [frame]
  have record (g : GroupNo) : u.record g = s.record g := by rw [State.record, passed.records]; rfl
  have line (n : LineNo) : u.line n = s.line n := by rw [State.line, passed.lines]; rfl
  have marks (g : GroupNo) : (u.link st).groupMarks[g] = k.groupMarks[g] := by rw [passed.groupMarks]
  have marks' (n : LineNo) : (u.link st).lineMarks[n] = k.lineMarks[n] := by rw [passed.lineMarks]
  have header := passed.header
  cases reply : k.replySlot with
  | some r =>
    have offered := offerMessage_offered st (u.message st r.kind r.body) true u
    rw [beginTransfer_reply (passed.replySlot.trans reply)]
    generalize (u.offerMessage st (u.message st r.kind r.body) true).composeSlot st = t at *
    refine ⟨u.message st r.kind r.body, offered.send, fun _ => ⟨offered.outgoing, offered.offer, ?_⟩,
      offered.replySlot.trans (passed.replySlot.trans reply), fun r' same => ?_, nofun, nofun, nofun⟩
    · rw [offered.linkError]
      exact header
    · cases same
      rfl
  | none =>
    have empty := passed.replySlot.trans reply
    obtain ⟨g, marked, lowest⟩ | unmarked := lowest_cases fun g : GroupNo => k.groupMarks[g]
    · have offered := offerMessage_offered st (u.message st authorityNoticeKind (u.groupNotice g)) false
        (u.onLink st fun k => { k with groupMarks := k.groupMarks.set g false })
      rw [beginTransfer_group empty ((marks g).trans marked) fun h below => (marks h).trans (lowest h below)]
      generalize State.composeSlot st _ = t at *
      refine ⟨u.message st authorityNoticeKind (u.groupNotice g), offered.send, fun _ => ⟨offered.outgoing, offered.offer, ?_⟩,
        ?_, nofun, fun g' _ marked' lowest' => ?_, fun n _ unmarked => ?_, fun _ unmarked => ?_⟩
      · rw [offered.linkError, State.link_onLink_self]
        exact header
      · rw [offered.replySlot, State.link_onLink_self]
        exact empty
      · have same : g' = g := le_antisymm
          (le_of_not_gt fun above => by simp [lowest' g above] at marked)
          (le_of_not_gt fun below => by simp [lowest g' below] at marked')
        subst same
        refine ⟨(groupNotice_message u st g').trans (by rw [record]), ?_⟩
        rw [offered.groupMarks, State.link_onLink_self]
        exact Vector.getElem_set_self ..
      · cases (unmarked g).symm.trans marked
      · cases (unmarked g).symm.trans marked
    · obtain ⟨n, marked, lowest⟩ | unmarked' := lowest_cases fun n : LineNo => k.lineMarks[n]
      · have offered := offerMessage_offered st (u.message st lineNoticeKind (u.lineNotice n)) false
          (u.onLink st fun k => { k with lineMarks := k.lineMarks.set n false })
        rw [beginTransfer_line empty (fun g => (marks g).trans (unmarked g)) ((marks' n).trans marked)
          fun m below => (marks' m).trans (lowest m below)]
        generalize State.composeSlot st _ = t at *
        refine ⟨u.message st lineNoticeKind (u.lineNotice n), offered.send, fun _ => ⟨offered.outgoing, offered.offer, ?_⟩,
          ?_, nofun, fun g _ marked _ => ?_, fun n' _ _ marked' lowest' => ?_, fun _ _ unmarked' => ?_⟩
        · rw [offered.linkError, State.link_onLink_self]
          exact header
        · rw [offered.replySlot, State.link_onLink_self]
          exact empty
        · cases (unmarked g).symm.trans marked
        · have same : n' = n := le_antisymm
            (le_of_not_gt fun above => by simp [lowest' n above] at marked)
            (le_of_not_gt fun below => by simp [lowest n' below] at marked')
          subst same
          refine ⟨(lineNotice_message u st n').trans (by rw [line]), ?_⟩
          rw [offered.lineMarks, State.link_onLink_self]
          exact Vector.getElem_set_self ..
        · cases (unmarked' n).symm.trans marked
      · rw [beginTransfer_nothing empty (fun g => (marks g).trans (unmarked g)) fun n => (marks' n).trans (unmarked' n),
          composeSlot_link]
        refine ⟨[], passed.send.trans idle, fun some' => absurd rfl some', empty, nofun, fun g _ marked _ => ?_,
          fun n _ _ marked _ => ?_, fun _ _ _ => rfl⟩
        · cases (unmarked g).symm.trans marked
        · cases (unmarked' n).symm.trans marked

end Sys2Proof

/-! PROOFS. The values after a restart: settles O49. -/

namespace Sys2Proof.Machine

/-! ### The lines after a restart -/

theorem restartLines_line (ns : List LineNo) (nodup : ns.Nodup) (s : State) (n : LineNo) :
    (ns.foldl (fun s n => s.restartLine n) s).line n
      = if n ∈ ns then (s.line n).atRestart (s.fitted n) else s.line n := by
  induction ns generalizing s with
  | nil => rfl
  | cons m ns ih =>
    obtain ⟨fresh, nodup⟩ := List.nodup_cons.1 nodup
    have line : (s.restartLine m).line n = if n = m then (s.line m).atRestart (s.fitted m) else s.line n :=
      State.line_putLine ..
    have fitted : (s.restartLine m).fitted n = s.fitted n := rfl
    rw [List.foldl_cons, ih nodup, line, fitted]
    by_cases same : n = m
    · subst same
      simp [fresh]
    · simp [same]

/-- Each line after a restart, under the setup that the restart has loaded (R18, R35, R66, R98). -/
theorem restartPart_line (st : Station) (s : State) (n : LineNo) :
    (s.restartPart st).line n = (s.line n).atRestart ((s.restartPart st).fitted n) := by
  have fitted : (s.restartPart st).fitted n = (State.load { s with table := { s.table.defaults with saveCopy := none } }).fitted n := by
    rw [State.fitted, State.setup, (restartPart_rest st s).1]
    rfl
  rw [fitted]
  have linked (xs : List Station) (u : State) :
      (xs.foldl (fun s x => s.onLink x Link.atRestart) u).line n = u.line n := by
    induction xs generalizing u with
    | nil => rfl
    | cons a xs ih => exact ih _
  unfold State.restartPart
  extract_lets _ s1 s2 s3 s4
  obtain ⟨links, composed, -⟩ := composeSlots_spec (slotsUpTo st) s4
  rw [composed]
  change s3.line n = _
  rw [show s3.line n = s2.line n from linked _ _, show s2.line n = _ from restartLines_line allLines (by decide) s1 n,
    if_pos (mem_allLines n)]
  rfl

/-! ### The two events of a restart -/

/-- `t` is `v` restarted by station `st`, the downstream slots apart. -/
structure Restarted (st : Station) (v t : State) : Prop where
  whole : t = { v.restartPart st with links := t.links }
  link : ∀ x, ∃ d, t.link x = { (v.link x).atRestart with downstream := d }

theorem restartPart_restarted (st : Station) (v : State) : Restarted st v (v.restartPart st) :=
  ⟨rfl, restartPart_link st v⟩

theorem Restarted.composeSlot {st : Station} {v t : State} (h : Restarted st v t) : Restarted st v (t.composeSlot st) := by
  refine ⟨?_, fun x => ?_⟩
  · have whole := (composeSlot_linkOnly st t).1
    rw [h.whole] at whole ⊢
    exact whole
  · obtain ⟨d, link⟩ := h.link x
    by_cases here : x = st
    · subst here
      refine ⟨((t.composeSlot x).link x).downstream, ?_⟩
      rw [composeSlot_link, link]
    · exact ⟨d, ((composeSlot_linkOnly st t).2 x here).trans link⟩

/-- The part as a restart finds it: what the slot of the frame event has read stands at the station's items alone. -/
structure Found (c : Instr) (slot : BitVec 32) (s v : State) : Prop where
  lines : v.lines = s.lines
  table : v.table = s.table
  pending : v.pending = s.pending
  presence : ∀ x, (v.link x).presence = (s.link x).presence
  goodCount : ∀ x, (v.link x).goodCount = (s.link x).goodCount
  badCount : ∀ x, (v.link x).badCount = if c = .frameEvent x slot then 0 else (s.link x).badCount

/-- The frame event that takes the last byte of the RESTART reply restarts the part (R170). -/
theorem frameEvent_restarts {s : State} {st : Station} {slot : BitVec 32} (running : s.running = true)
    (pending : st ∈ s.pendingRestart) (present : (s.link st).presence = .present) (good : slotGood slot = true)
    (ends : (s.link st).endsReply slot) (unplaced : (s.link st).completes slot = false ∨ (s.link st).replySlot ≠ none) :
    ∃ v, Found (.frameEvent st slot) slot s v ∧ Restarted st v (s.frameEvent st slot) := by
  have frame := frameEvent_good present good
  have link := stanced_link_self st (slotStance slot) s
  have here : ((s.stanced st (slotStance slot)).link st).presence = .present := by rw [link]; exact present
  have received := (receiveStep_cases (s := s.stanced st (slotStance slot)) (slot := slot) running here).resolve_right
    fun ⟨completes, empty, _⟩ => by
      rw [link] at completes empty
      exact unplaced.elim (fun h => by cases h.symm.trans completes) (fun h => h empty)
  generalize (s.stanced st (slotStance slot)).receiveStep st (slotOffer slot) (slotByte slot) = u at *
  obtain ⟨⟨whole, others⟩, link'⟩ := received
  rw [link] at link'
  have ends' : (u.link st).endsReply slot := by
    obtain ⟨-, -, -, -, send, outgoing, -⟩ := link'.same
    exact (Link.endsReply_congr send outgoing).2 ends
  have pending' : st ∈ u.pendingRestart := by rw [whole]; exact pending
  rw [State.transferred, if_neg ends'.not_idle, sendStep_restarts pending' ends'] at frame
  rw [frame]
  refine ⟨_, ?_, (restartPart_restarted st _).composeSlot⟩
  have items (x : Station) : (u.link x).presence = (s.link x).presence ∧ (u.link x).goodCount = (s.link x).goodCount
      ∧ (u.link x).badCount = if x = st then 0 else (s.link x).badCount := by
    by_cases own : x = st
    · subst own
      rw [if_pos rfl, link']
      exact ⟨rfl, rfl, rfl⟩
    · rw [if_neg own, others x own, State.stanced]
      have other : ((s.onLink st (Link.stanced (slotStance slot))).link x) = s.link x := by
        rw [State.link_onLink, if_neg own]
      exact ⟨congrArg _ other, congrArg _ other, congrArg _ other⟩
  have kept (x : Station) {α : Type} (f : Link → α) (hf : ∀ k : Link, f { k with send := .awaitingClear, outgoing := none, replySlot := none } = f k) :
      f ((u.onLink st fun k => { k with send := .awaitingClear, outgoing := none, replySlot := none }).link x) = f (u.link x) := by
    rw [State.link_onLink]
    split
    · exact hf _
    · rfl
  refine ⟨by rw [whole]; rfl, by rw [whole]; rfl, by rw [whole]; rfl, fun x => (kept x _ fun _ => rfl).trans (items x).1,
    fun x => (kept x _ fun _ => rfl).trans (items x).2.1, fun x => (kept x _ fun _ => rfl).trans ((items x).2.2.trans ?_)⟩
  simp [eq_comm]

theorem exec_restarts {s : State} {st : Station} {slot : BitVec 32} {c : Instr} (running : s.running = true)
    (pending : st ∈ s.pendingRestart) (hc : c ∈ [Instr.deviceRestart st, .frameEvent st slot])
    (taken : c = .frameEvent st slot → (s.link st).presence = .present ∧ slotGood slot = true ∧ (s.link st).endsReply slot
      ∧ ((s.link st).completes slot = false ∨ (s.link st).replySlot ≠ none)) :
    ∃ v t, exec c s = .next t ∧ Found c slot s v ∧ Restarted st v t := by
  simp only [List.mem_cons, List.not_mem_nil, or_false] at hc
  obtain rfl | rfl := hc
  · refine ⟨s, s.restartPart st, (whileRunning_running _ running).trans ?_, ⟨rfl, rfl, rfl, fun _ => rfl, fun _ => rfl,
      fun _ => (if_neg nofun).symm⟩, restartPart_restarted st s⟩
    rw [if_pos (List.contains_iff_mem.2 pending)]
  · obtain ⟨present, good, ends, unplaced⟩ := taken rfl
    obtain ⟨v, found, restarted⟩ := frameEvent_restarts running pending present good ends unplaced
    exact ⟨v, _, whileRunning_running _ running, found, restarted⟩

/-- The table after a restart: the defaults, and the setups loaded from the store (R110, R111). -/
theorem Restarted.table {st : Station} {v t : State} (h : Restarted st v t) :
    t.table = GroupTable.load { v.table.defaults with saveCopy := none } := by
  rw [h.whole]
  exact (restartPart_rest st v).1

theorem Restarted.line {st : Station} {v t : State} (h : Restarted st v t) (n : LineNo) :
    t.line n = (v.line n).atRestart (t.fitted n) := by
  rw [h.whole]
  exact restartPart_line st v n

theorem GroupTable.load_figures (t : GroupTable) :
    t.load.profiles = t.profiles ∧ t.load.settings = t.settings ∧ t.load.store = t.store := by
  unfold GroupTable.load
  split <;> exact ⟨rfl, rfl, rfl⟩

end Sys2Proof.Machine

namespace Sys2Proof
open Machine

/-- Settles O49. -/
theorem restartValues : Obligations.RestartValues := by
  unfold Obligations.RestartValues
  intro st slot s running pending c hc taken
  obtain ⟨v, t, next, found, restarted⟩ := exec_restarts running pending hc taken
  have table := restarted.table
  obtain ⟨profiles, settings, store⟩ := GroupTable.load_figures { v.table.defaults with saveCopy := none }
  obtain ⟨loaded, failed⟩ := GroupTable.load_setups { v.table.defaults with saveCopy := none }
  have profile (g : GroupNo) : t.profile g = printedProfile := by
    rw [State.profile, table, profiles]
    change defaultProfiles[g] = _
    rw [defaultProfiles, Fin.getElem_fin, Vector.getElem_replicate]
    rfl
  have here (x : Station) : ((v.link x).presence == .present) = decide ((s.link x).presence = .present) := by
    rw [found.presence x]
    cases (s.link x).presence <;> rfl
  obtain ⟨-, records, berth, due, pendingRestart, -, pending', -⟩ := restartPart_rest st v
  rw [← table] at profiles settings store loaded failed
  refine ⟨t, next, fun n => ?_, fun g => ⟨?_, profile g⟩, settings, store.trans (by rw [← found.table]; rfl), ?_, ?_, ?_, ?_,
    fun x => ?_, ?_, ?_⟩
  · have line := restarted.line n
    have same : v.line n = s.line n := by rw [State.line, found.lines]; rfl
    rw [same] at line
    rw [line, profile]
    cases t.fitted n with
    | true =>
      refine ⟨rfl, rfl, rfl, rfl, rfl, rfl, rfl, rfl, rfl, ?_, fun _ => ⟨rfl, rfl⟩, nofun⟩
      simp [Line.atRestart, Sense.atRestart, senseAtPowerOn, unknownSwitch]
    | false =>
      refine ⟨rfl, rfl, rfl, rfl, rfl, rfl, rfl, rfl, rfl, ?_, nofun, fun _ => ⟨rfl, rfl⟩⟩
      simp [Line.atRestart, senseAtPowerOn, unknownSwitch]
  · rw [restarted.whole, State.record]
    change ((v.restartPart st).records[g]).entries = []
    rw [records, Fin.getElem_fin, Vector.getElem_replicate]
    rfl
  · rw [← found.table]
    exact loaded
  · rw [← found.table]
    exact failed
  · rw [restarted.whole]; exact berth
  · rw [restarted.whole]; exact due
  · obtain ⟨d, link⟩ := restarted.link x
    rw [link]
    refine ⟨found.presence x, found.goodCount x, found.badCount x, rfl, rfl, rfl, rfl, rfl, ?_, rfl, rfl, rfl, rfl, fun g => ?_,
      fun n => ?_⟩
    · rw [← found.presence x]
      change (match (v.link x).presence with | .present => SendLane.awaitingClear | .absent => SendLane.idle) = _
      cases (v.link x).presence <;> rfl
    · exact (replicate_marks 4 _ g).trans (here x)
    · exact (replicate_marks 8 _ n).trans (here x)
  · rw [restarted.whole]; exact pendingRestart
  · rw [restarted.whole]; exact pending'.trans found.pending

end Sys2Proof

/-! PROOFS. The re-evaluation of the haul inhibits with the events it hands over, and CLEAR FLAGS: settles O29. -/

namespace Sys2Proof.Machine

/-! ### The events of a re-evaluation -/

/-- The event that hands line `n` its inhibit `v` (R92). -/
def inhibitEvent (n : LineNo) (v : Bool) : DueEvent := if v then .inhibitOnset n else .inhibitLift n

/-- Whether a re-evaluation hands line `n` an event. -/
def State.inhibitTurns (s : State) (own : Option LineNo) (n : LineNo) : Bool :=
  own != some n && (s.line n).protection.inhibit != s.inhibitOf n

theorem reevaluateInhibit_due (own : Option LineNo) (n : LineNo) (s : State) :
    (s.reevaluateInhibit own n).due
      = s.due ++ if s.inhibitTurns own n = true then [inhibitEvent n (s.inhibitOf n)] else [] := by
  unfold State.reevaluateInhibit State.inhibitTurns
  dsimp only
  by_cases same : (s.line n).protection.inhibit = s.inhibitOf n
  · simp [same]
  · rw [if_neg same]
    by_cases own' : own = some n
    · simp [own']
    · have turns : (own != some n && (s.line n).protection.inhibit != s.inhibitOf n) = true := by
        rw [Bool.and_eq_true, bne_iff_ne, bne_iff_ne]
        exact ⟨own', same⟩
      rw [if_neg own', turns, if_pos rfl]
      unfold inhibitEvent
      split <;> rfl

theorem reevaluateInhibits_turns (own : Option LineNo) (ns : List LineNo) (nodup : ns.Nodup) (s : State) :
    (ns.foldl (fun s n => s.reevaluateInhibit own n) s).due
      = s.due ++ (ns.filter (s.inhibitTurns own)).map fun n => inhibitEvent n (s.inhibitOf n) := by
  induction ns generalizing s with
  | nil => simp
  | cons n ns ih =>
    obtain ⟨fresh, nodup⟩ := List.nodup_cons.1 nodup
    have of : (s.reevaluateInhibit own n).inhibitOf = s.inhibitOf :=
      funext (reevaluateInhibit_inhibitsOnly own n s).inhibitOf
    have rest : ns.filter ((s.reevaluateInhibit own n).inhibitTurns own) = ns.filter (s.inhibitTurns own) :=
      List.filter_congr fun m hm => by
        have other : m ≠ n := fun same => fresh (same ▸ hm)
        unfold State.inhibitTurns
        rw [of, reevaluateInhibit_line, if_neg other]
    rw [List.foldl_cons, ih nodup, reevaluateInhibit_due, of, rest, List.filter_cons]
    split <;> simp

/-- A re-evaluation hands each line whose inhibit it turns one event, in ascending order of lines (R92). -/
theorem reevaluateInhibits_due (own : Option LineNo) (s : State) :
    (s.reevaluateInhibits own).due = s.due ++ s.inhibitEvents (s.reevaluateInhibits own) own := by
  have inhibit (n : LineNo) : ((s.reevaluateInhibits own).line n).protection.inhibit = s.inhibitOf n := by
    rw [(reevaluateInhibits_spec own s).2 n]
    rfl
  unfold State.inhibitEvents
  simp only [inhibit]
  exact reevaluateInhibits_turns own allLines (by decide) s

/-- The events depend on the inhibits before and after alone. -/
theorem inhibitEvents_congr {s s' t t' : State} {own : Option LineNo}
    (before : ∀ n, (s'.line n).protection.inhibit = (s.line n).protection.inhibit)
    (after : ∀ n, (t'.line n).protection.inhibit = (t.line n).protection.inhibit) :
    s'.inhibitEvents t' own = s.inhibitEvents t own := by
  unfold State.inhibitEvents
  simp only [before, after]

theorem inhibitEvents_none {s t : State} {own : Option LineNo}
    (same : ∀ n, (t.line n).protection.inhibit = (s.line n).protection.inhibit) : s.inhibitEvents t own = [] := by
  unfold State.inhibitEvents
  simp [same]

theorem mem_inhibitEvents {s t : State} {own : Option LineNo} {e : DueEvent} :
    e ∈ s.inhibitEvents t own ↔ ∃ n, own ≠ some n ∧ (s.line n).protection.inhibit ≠ (t.line n).protection.inhibit
      ∧ e = inhibitEvent n (t.line n).protection.inhibit := by
  unfold State.inhibitEvents
  simp only [List.mem_map, List.mem_filter, mem_allLines, true_and, Bool.and_eq_true, bne_iff_ne, ne_eq, and_assoc]
  exact exists_congr fun n => and_congr_right fun _ => and_congr_right fun _ => eq_comm

theorem inhibitEvents_nodup (s t : State) (own : Option LineNo) : (s.inhibitEvents t own).Nodup := by
  refine List.Nodup.map_on (fun n _ m _ same => ?_) (List.Nodup.filter _ (by decide))
  revert same
  split <;> split <;> simp

theorem InhibitsOnly.whole {s t : State} (h : InhibitsOnly s t) : t = { s with lines := t.lines, due := t.due } := by
  rw [← h.powered, ← h.resetAsserted, ← h.table, ← h.records, ← h.berth, ← h.links, ← h.pendingRestart, ← h.freeIndex,
    ← h.pending]

/-! ### Lifts -/

/-- From `s` to `t` inhibits have ceased alone, and each line whose inhibit has ceased has been handed one lift (R92). -/
structure LiftsOnly (s t : State) : Prop where
  lifted : ∃ lifts, t.due = s.due ++ lifts ∧ lifts.Nodup
    ∧ ∀ e, e ∈ lifts ↔ ∃ n, e = .inhibitLift n ∧ (s.line n).protection.inhibit = true ∧ (t.line n).protection.inhibit = false
  ceased : ∀ n, (t.line n).protection.inhibit = true → (s.line n).protection.inhibit = true

theorem LiftsOnly.of_same {s t : State} (due : t.due = s.due)
    (same : ∀ n, (t.line n).protection.inhibit = (s.line n).protection.inhibit) : LiftsOnly s t := by
  refine ⟨⟨[], by simp [due], List.nodup_nil, fun e => ?_⟩, fun n h => (same n).symm.trans h⟩
  simp [same]

theorem LiftsOnly.trans {s t u : State} (h : LiftsOnly s t) (h' : LiftsOnly t u) : LiftsOnly s u := by
  obtain ⟨⟨first, due, nodup, mem⟩, ceased⟩ := h
  obtain ⟨⟨next, due', nodup', mem'⟩, ceased'⟩ := h'
  refine ⟨⟨first ++ next, by rw [due', due, List.append_assoc], nodup.append nodup' ?_, fun e => ?_⟩,
    fun n h => ceased n (ceased' n h)⟩
  · intro e he he'
    obtain ⟨n, rfl, -, lifted⟩ := (mem e).1 he
    obtain ⟨m, same, inForce, -⟩ := (mem' _).1 he'
    cases same
    cases lifted.symm.trans inForce
  · rw [List.mem_append, mem, mem', ← exists_or]
    refine exists_congr fun n => ?_
    have was := ceased n
    have is := ceased' n
    cases hs : (s.line n).protection.inhibit <;> cases ht : (t.line n).protection.inhibit <;>
      cases hu : (u.line n).protection.inhibit <;> simp_all

/-- A re-evaluation that brings no inhibit into force hands over lifts alone. -/
theorem reevaluateInhibits_liftsOnly {s : State} (ceased : ∀ n, s.inhibitOf n = true → (s.line n).protection.inhibit = true) :
    LiftsOnly s (s.reevaluateInhibits none) := by
  have inhibit (n : LineNo) : ((s.reevaluateInhibits none).line n).protection.inhibit = s.inhibitOf n := by
    rw [(reevaluateInhibits_spec none s).2 n]
    rfl
  refine ⟨⟨_, reevaluateInhibits_due none s, inhibitEvents_nodup .., fun e => ?_⟩,
    fun n h => ceased n ((inhibit n).symm.trans h)⟩
  rw [mem_inhibitEvents]
  refine exists_congr fun n => ?_
  rw [inhibit]
  have stays := ceased n
  cases hs : (s.line n).protection.inhibit <;> cases ht : s.inhibitOf n <;> simp_all [inhibitEvent]

/-- Where fewer lines are overloaded, no inhibit comes into force (R91). -/
theorem inhibitOf_mono {s t : State} (table : t.table = s.table)
    (fewer : ∀ m, (t.line m).overloaded = true → (s.line m).overloaded = true) {n : LineNo} (h : t.inhibitOf n = true) :
    s.inhibitOf n = true := by
  simp only [State.inhibitOf, State.fitted, State.setup, table, Bool.and_eq_true, List.any_eq_true] at h ⊢
  obtain ⟨fitted, m, hm, scope, over'⟩ := h
  exact ⟨fitted, m, hm, scope, fewer m over'⟩

/-! ### CLEAR FLAGS -/

/-- A line of which the flags `named` have been cleared (R95, R97). -/
def Line.flagsCleared (named : BitVec 10) (l : Line) : Line :=
  { l with
    protection :=
      { l.protection with
        tripWatch := if flagSet named .warn || flagSet named .trip then 0 else l.protection.tripWatch }
    control :=
      { l.control with
        flags := l.control.flags &&& ~~~named
        record := if flagSet named .trip then { l.control.record with tripDeferred := false } else l.control.record } }

/-- The flags that CLEAR FLAGS names of those latched on line `n`. -/
def State.namedFlags (s : State) (flags : BitVec 16) (n : LineNo) : BitVec 10 :=
  (s.line n).control.flags &&& flags.truncate 10

/-- Whether station `st` may clear flags of line `n` (R128). -/
def State.mayClear (s : State) (st : Station) (n : LineNo) : Bool := s.permitted st n || st == .panel

/-- Whether CLEAR FLAGS of station `st` clears flags of line `n`. -/
def State.clears (s : State) (st : Station) (flags : BitVec 16) (n : LineNo) : Bool :=
  s.mayClear st n && s.namedFlags flags n != 0#10

/-- What CLEAR FLAGS reports of line `n` (R166). -/
def State.clearReport (s : State) (st : Station) (flags : BitVec 16) (n : LineNo) : ReplyCode × BitVec 10 :=
  (if s.mayClear st n = false then .notHolder else if s.namedFlags flags n = 0#10 then .noChange else .done,
    (s.line n).control.flags)

/-- What CLEAR FLAGS for the lines `ns` makes of the part, its reply apart. -/
structure FlagsCleared (st : Station) (flags : BitVec 16) (ns : List LineNo) (s t : State) : Prop where
  whole : t = { s with lines := t.lines, due := t.due }
  line : ∀ n, t.line n
    = (if n ∈ ns ∧ s.clears st flags n = true then (s.line n).flagsCleared (s.namedFlags flags n) else s.line n).setInhibit
        (t.line n).protection.inhibit
  agree : t.inhibitsAgree
  lifts : LiftsOnly s t

theorem flagSet_clear {w mask : BitVec 10} {f : Flag} (h : flagSet (w &&& ~~~mask) f = true) : flagSet w f = true := by
  unfold flagSet at h ⊢
  rw [BitVec.getLsbD_and, Bool.and_eq_true] at h
  exact h.1

theorem Line.flagsCleared_overloaded {named : BitVec 10} {l : Line} (h : (l.flagsCleared named).overloaded = true) :
    l.overloaded = true := by
  unfold Line.overloaded at h ⊢
  rw [Bool.or_eq_true] at h ⊢
  exact h.imp flagSet_clear flagSet_clear

theorem Line.clear_eq_flagsCleared {named : BitVec 10} (h : (flagSet named .warn || flagSet named .trip) = false) (l : Line) :
    l.clear named = l.flagsCleared named := by
  unfold Line.flagsCleared
  rw [h, (Bool.or_eq_false_iff.1 h).2]
  rfl

theorem Line.afterClear_eq_flagsCleared {named : BitVec 10} (h : (flagSet named .warn || flagSet named .trip) = true)
    (l : Line) : (l.clear named).afterClear (flagSet named .trip) = l.flagsCleared named := by
  unfold Line.flagsCleared
  rw [h]
  cases flagSet named .trip <;> rfl

theorem putLine_putLine (s : State) (n : LineNo) (l l' : Line) : (s.putLine n l).putLine n l' = s.putLine n l' := by
  simp [State.putLine, Vector.set_set]

/-- CLEAR FLAGS at one line (R95, R97, R128, R166). -/
theorem clearLine_eq (st : Station) (flags : BitVec 16) (n : LineNo) (s : State) :
    let named := s.namedFlags flags n
    let t := s.putLine n ((s.line n).flagsCleared named)
    clearLine st flags n s
      = (if s.clears st flags n = true then
          if (flagSet named .warn || flagSet named .trip) = true then t.reevaluateInhibits none else t
        else s, s.clearReport st flags n) := by
  unfold clearLine State.clearReport State.clears
  intro named t
  change (if (!s.mayClear st n) = true then _ else if named = 0#10 then _ else _) = _
  cases s.mayClear st n with
  | false => rfl
  | true =>
    by_cases nothing : named = 0#10
    · rw [if_pos nothing]
      simp [show s.namedFlags flags n = 0#10 from nothing]
    · have some' : ¬s.namedFlags flags n = 0#10 := nothing
      simp only [Bool.not_true, Bool.false_eq_true, if_false, if_neg nothing, Bool.true_and, bne_iff_ne, ne_eq,
        some', not_false_eq_true, if_true]
      let s1 := s.putLine n ((s.line n).clear named)
      change (if (flagSet named .warn || flagSet named .trip) = true then
        ((s1.putLine n ((s1.line n).afterClear (flagSet named .trip))).reevaluateInhibits none, ReplyCode.done, _)
          else (s1, ReplyCode.done, _)) = _
      cases protects : (flagSet named .warn || flagSet named .trip) with
      | true =>
        rw [if_pos rfl, if_pos rfl, State.line_putLine_self, putLine_putLine, Line.afterClear_eq_flagsCleared protects,
          if_neg (Ne.symm Bool.false_ne_true)]
      | false =>
        rw [if_neg Bool.false_ne_true, if_neg Bool.false_ne_true, if_neg (Ne.symm Bool.false_ne_true)]
        unfold t s1
        rw [Line.clear_eq_flagsCleared protects]

theorem clearLine_flagsCleared (st : Station) (flags : BitVec 16) (n : LineNo) {s : State} (agree : s.inhibitsAgree) :
    FlagsCleared st flags [n] s (clearLine st flags n s).1 := by
  have agree' := (clearLine_inhibitsKept st flags n s).agree agree
  rw [clearLine_eq] at agree' ⊢
  dsimp only at agree' ⊢
  rw [inhibitsAgree_iff] at agree
  generalize turned : s.putLine n ((s.line n).flagsCleared (s.namedFlags flags n)) = t at *
  have line (m : LineNo) : t.line m = if m = n then (s.line n).flagsCleared (s.namedFlags flags n) else s.line m := by
    rw [← turned, State.line_putLine]
  have inhibit (m : LineNo) : (t.line m).protection.inhibit = (s.line m).protection.inhibit := by
    rw [line]
    split
    next own => rw [own]; rfl
    next => rfl
  by_cases cleared : s.clears st flags n = true
  · have lines (m : LineNo) : (if m ∈ [n] ∧ s.clears st flags m = true then
        (s.line m).flagsCleared (s.namedFlags flags m) else s.line m) = t.line m := by
      rw [line]
      by_cases own : m = n
      · subst own
        have here : m ∈ [m] ∧ s.clears st flags m = true := ⟨List.mem_singleton_self m, cleared⟩
        rw [if_pos rfl, if_pos here]
      · have elsewhere : ¬(m ∈ [n] ∧ s.clears st flags m = true) := fun h => own (List.mem_singleton.1 h.1)
        rw [if_neg own, if_neg elsewhere]
    rw [if_pos cleared] at agree' ⊢
    by_cases protects : (flagSet (s.namedFlags flags n) .warn || flagSet (s.namedFlags flags n) .trip) = true
    · rw [if_pos protects] at agree' ⊢
      have only := (reevaluateInhibits_spec none t).1
      refine ⟨?_, fun m => ?_, agree', ?_⟩
      · have whole := only.whole
        generalize t.reevaluateInhibits none = u at whole ⊢
        rw [whole, ← turned]
        rfl
      · rw [lines]
        exact only.line m
      · have same : LiftsOnly s t := .of_same (by rw [← turned]; rfl) inhibit
        refine same.trans (reevaluateInhibits_liftsOnly fun m h => ?_)
        rw [inhibit, agree]
        refine inhibitOf_mono (by rw [← turned]; rfl) (fun m => ?_) h
        rw [line]
        split
        next own => rw [own]; exact Line.flagsCleared_overloaded
        next => exact id
    · rw [if_neg protects] at agree' ⊢
      refine ⟨by rw [← turned]; rfl, fun m => ?_, agree', .of_same (by rw [← turned]; rfl) inhibit⟩
      rw [lines]
      rfl
  · rw [if_neg cleared] at agree' ⊢
    refine ⟨rfl, fun m => ?_, agree', .of_same rfl fun _ => rfl⟩
    have elsewhere : ¬(m ∈ [n] ∧ s.clears st flags m = true) := fun ⟨own, h⟩ => by
      rw [List.mem_singleton.1 own] at h
      exact cleared h
    rw [if_neg elsewhere]
    rfl

theorem FlagsCleared.other {st : Station} {flags : BitVec 16} {n m : LineNo} {s u : State}
    (h : FlagsCleared st flags [n] s u) (other : m ≠ n) :
    u.line m = (s.line m).setInhibit (u.line m).protection.inhibit ∧ u.namedFlags flags m = s.namedFlags flags m
      ∧ u.clears st flags m = s.clears st flags m ∧ u.clearReport st flags m = s.clearReport st flags m := by
  have line := h.line m
  rw [if_neg fun named => other (List.mem_singleton.1 named.1)] at line
  have word : (u.line m).control = (s.line m).control := by rw [line]; rfl
  have may : u.mayClear st m = s.mayClear st m := by rw [h.whole]; rfl
  have named : u.namedFlags flags m = s.namedFlags flags m := by unfold State.namedFlags; rw [word]
  refine ⟨line, named, ?_, ?_⟩
  · unfold State.clears
    rw [may, named]
  · unfold State.clearReport
    rw [may, named, word]

theorem FlagsCleared.cons {st : Station} {flags : BitVec 16} {n : LineNo} {ns : List LineNo} {s u t : State}
    (h : FlagsCleared st flags [n] s u) (h' : FlagsCleared st flags ns u t) (fresh : n ∉ ns) :
    FlagsCleared st flags (n :: ns) s t := by
  refine ⟨by rw [h'.whole, h.whole], fun m => ?_, h'.agree, h.lifts.trans h'.lifts⟩
  rw [h'.line m]
  by_cases own : m = n
  · subst own
    have line := h.line m
    rw [if_neg fun named => fresh named.1, line]
    simp
  · obtain ⟨line, named, clears, -⟩ := h.other own
    rw [clears, named, line]
    simp only [List.mem_cons, own, false_or]
    split <;> rfl

theorem clearLines_flagsCleared (st : Station) (flags : BitVec 16) {ns : List LineNo} (nodup : ns.Nodup) {s : State}
    (agree : s.inhibitsAgree) :
    FlagsCleared st flags ns s (clearLines st flags ns s).1
      ∧ (clearLines st flags ns s).2 = ns.map (s.clearReport st flags) := by
  induction ns generalizing s with
  | nil => exact ⟨⟨rfl, fun n => by simp [clearLines], agree, .of_same rfl fun _ => rfl⟩, rfl⟩
  | cons n ns ih =>
    obtain ⟨fresh, nodup⟩ := List.nodup_cons.1 nodup
    have first := clearLine_flagsCleared st flags n agree
    obtain ⟨rest, reports⟩ := ih nodup first.agree
    refine ⟨first.cons rest fresh, ?_⟩
    have report : (clearLine st flags n s).2 = s.clearReport st flags n := by rw [clearLine_eq]
    rw [clearLines, reports, List.map_cons, report]
    refine congrArg _ (List.map_congr_left fun m hm => ?_)
    exact (first.other fun same => fresh (same ▸ hm)).2.2.2

end Sys2Proof.Machine

namespace Sys2Proof
open Machine

/-- Settles O29. -/
theorem clearFlagsResult : Obligations.ClearFlagsResult := by
  unfold Obligations.ClearFlagsResult
  intro st mask flags s accepted maskOk agree named may cleared
  have taken : exec (.clearFlags st mask flags) s = .next (takeClearFlags st mask flags s) :=
    request_taken accepted maskOk
  obtain ⟨done, reports⟩ := clearLines_flagsCleared st flags (ns := maskLines mask) (List.Nodup.filter _ (by decide)) agree
  refine ⟨_, taken, ?_⟩
  unfold takeClearFlags
  dsimp only
  rw [reports]
  generalize (clearLines st flags (maskLines mask) s).1 = t at *
  have applies (n : LineNo) : (n ∈ maskLines mask ∧ s.clears st flags n = true) ↔ cleared n = true := by
    simp only [maskLines, List.mem_filter, mem_allLines, true_and, State.clears, Bool.and_eq_true, and_assoc, cleared]
    rfl
  refine ⟨fun n => ?_, (placeReply_inhibitsKept st _ _ t).agree done.agree, done.lifts.lifted, ?_, ?_, ?_, fun x => ?_⟩
  · have placed (body : List Byte) : (t.placeReply st 0x40#8 body).line n = t.line n := rfl
    rw [placed]
    have line := done.line n
    simp only [applies] at line
    refine line.trans ?_
    cases cleared n with
    | true => rfl
    | false => rfl
  · rw [done.whole]; exact ⟨rfl, rfl, rfl, rfl, rfl, rfl⟩
  · rw [done.whole]; rfl
  · rw [done.whole]; rfl
  · rw [State.placeReply, State.link_onLink]
    have stands : t.links = s.links := by rw [done.whole]
    have link : t.link x = s.link x := by rw [State.link, stands]; rfl
    by_cases own : x = st
    · subst own
      have entry (n : LineNo) : (s.clearReport x flags n).1.code :: flagBytes (s.clearReport x flags n).2
          = (if may n = false then 0x06#8 else if named n = 0#10 then 0x02#8 else 0x01#8)
              :: flagBytes (s.line n).control.flags := by
        change ReplyCode.code (if may n = false then _ else if named n = 0#10 then _ else _) :: _ = _
        rw [apply_ite ReplyCode.code, apply_ite ReplyCode.code]
        rfl
      rw [if_pos rfl, if_pos rfl, link, List.flatMap_map]
      simp only [entry]
      rfl
    · rw [if_neg own, if_neg own, link]

end Sys2Proof

/-! PROOFS. WRITE BERTH: settles O32. -/

namespace Sys2Proof.Machine

theorem reevaluateAll_eq_revise (s : State) :
    s.reevaluateAll = s.revise (fun _ => reevaluated s.table.settings.vesselLead) allGroups := by
  have fold (lead : Bool) (gs : List GroupNo) (u : State) (h : u.table.settings.vesselLead = lead) :
      gs.foldl (fun s g => s.setRecord g (reevaluated s.table.settings.vesselLead (s.record g))) u
        = u.revise (fun _ => reevaluated lead) gs := by
    induction gs generalizing u with
    | nil => rfl
    | cons g gs ih =>
      have table := (setRecord_authorityOnly g (reevaluated lead (u.record g)) u).table
      rw [List.foldl_cons, h, ih _ (by rw [table]; exact h)]
      rfl
  exact fold _ allGroups s rfl

/-- A taken WRITE BERTH in two parts: the settings with the inhibits of their scope, then the records (R106, R107). -/
theorem writeBerth_stages (b : BerthSettings) (s : State) :
    ∃ u, InhibitsOnly { s with table := { s.table with settings := b } } u ∧ u.due = s.due ++ s.inhibitEvents u none
      ∧ (s.table.settings.vesselLead = b.vesselLead → s.writeBerth b = u)
      ∧ (s.table.settings.vesselLead ≠ b.vesselLead →
          s.writeBerth b = u.revise (fun _ => reevaluated b.vesselLead) allGroups) := by
  unfold State.writeBerth
  extract_lets old _ s1 s2
  have stage : InhibitsOnly s1 s2 ∧ s2.due = s.due ++ s.inhibitEvents s2 none := by
    unfold s2
    split
    · exact ⟨.refl s1, by rw [inhibitEvents_none (s := s) (t := s1) fun _ => rfl, List.append_nil]⟩
    · exact ⟨(reevaluateInhibits_spec none s1).1, reevaluateInhibits_due none s1⟩
  refine ⟨s2, stage.1, stage.2, fun same => if_pos same, fun other => (if_neg other).trans ?_⟩
  rw [reevaluateAll_eq_revise, stage.1.table]

/-- What a taken WRITE BERTH does (R92, R106, R107, R120, R121, R130). -/
structure BerthWritten (b : BerthSettings) (s t : State) : Prop where
  table : t.table = { s.table with settings := b }
  berth : t.berth = s.berth
  pendingRestart : t.pendingRestart = s.pendingRestart
  kept : s.table.settings.vesselLead = b.vesselLead → t.records = s.records
  ranked : s.table.settings.vesselLead ≠ b.vesselLead → ∀ g, t.record g = reevaluated b.vesselLead (s.record g)
  links : ∀ x, Link.sameButMarks (s.link x) (t.link x)
  marks : s.groupNoticesMarked t
  due : t.due = s.due ++ s.inhibitEvents t none ++ allGroups.flatMap fun g =>
    if t.holder g = s.holder g then [] else (s.groupLines g).map DueEvent.halt
  line : ∀ n, t.line n = (s.line n).setInhibit (t.line n).protection.inhibit

theorem writeBerth_written (b : BerthSettings) (s : State) : BerthWritten b s (s.writeBerth b) := by
  obtain ⟨u, inhibits, due, same, other⟩ := writeBerth_stages b s
  have record (g : GroupNo) : u.record g = s.record g := by rw [State.record, inhibits.records]; rfl
  have link (x : Station) : u.link x = s.link x := by rw [State.link, inhibits.links]; rfl
  have lines (g : GroupNo) : u.groupLines g = s.groupLines g := by
    simp only [State.groupLines, State.fitted, State.setup, inhibits.table]
  by_cases lead : s.table.settings.vesselLead = b.vesselLead
  · rw [same lead]
    refine ⟨inhibits.table, inhibits.berth, inhibits.pendingRestart, fun _ => inhibits.records, fun h => absurd lead h,
      fun x => by rw [link]; rfl, fun x g => ?_, ?_, inhibits.line⟩
    · rw [link, record]
      simp [GroupRecord.noticeDue_self]
    · rw [due, List.flatMap_eq_nil_iff.2 fun g _ => if_pos (by rw [State.holder, record]; rfl), List.append_nil]
  · rw [other lead]
    have revised := revise_revised (fun _ => reevaluated b.vesselLead) allGroups u (by decide)
    generalize u.revise (fun _ => reevaluated b.vesselLead) allGroups = t at *
    have line (n : LineNo) : t.line n = u.line n := by rw [State.line, revised.only.lines]; rfl
    refine ⟨revised.only.table.trans inhibits.table, revised.only.berth.trans inhibits.berth,
      revised.only.pendingRestart.trans inhibits.pendingRestart, fun h => absurd h lead, fun _ g => ?_,
      fun x => link x ▸ revised.only.links x, fun x g => ?_, ?_, fun n => ?_⟩
    · rw [revised.record, if_pos (mem_allGroups g), record]
    · have marks := revised.marks x g
      rwa [link, record, State.present, link] at marks
    · have events : s.inhibitEvents t none = s.inhibitEvents u none :=
        inhibitEvents_congr (fun _ => rfl) fun n => by rw [line]
      rw [revised.due, due, events]
      simp only [State.holder, record, lines]
      rfl
    · rw [line]
      exact inhibits.line n

theorem holdsAllFitted_iff (s : State) (st : Station) :
    s.holdsAllFitted st = true ↔ ∀ n, s.fitted n = true → s.holder (s.setup n).group = some st := by
  unfold State.holdsAllFitted
  simp only [List.all_eq_true, mem_allGroups, true_imp_iff, Bool.or_eq_true, List.isEmpty_iff, beq_iff_eq]
  constructor
  · intro h n fitted
    refine (h (s.setup n).group).resolve_left fun none => ?_
    have mem : n ∈ s.groupLines (s.setup n).group := (mem_groupLines s _ n).2 ⟨fitted, rfl⟩
    rw [none] at mem
    exact List.not_mem_nil mem
  · intro h g
    by_cases none : s.groupLines g = []
    · exact .inl none
    · obtain ⟨n, mem⟩ := List.exists_mem_of_ne_nil _ none
      obtain ⟨fitted, rfl⟩ := (mem_groupLines s g n).1 mem
      exact .inr (h n fitted)

theorem settingsOfBytes_taken {scope stagger lead : Byte} (h : scope.toNat ≤ 1) (h' : stagger.toNat ≤ 200)
    (h'' : lead.toNat ≤ 1) :
    settingsOfBytes scope stagger lead
      = some { scope := if scope = 1#8 then .berth else .group, stagger := stagger.toNat, vesselLead := lead == 1#8 } := by
  unfold settingsOfBytes
  simp [h, h', h'']

theorem settingsOfBytes_refused {scope stagger lead : Byte}
    (h : 1 < scope.toNat ∨ 200 < stagger.toNat ∨ 1 < lead.toNat) : settingsOfBytes scope stagger lead = none := by
  unfold settingsOfBytes
  refine if_neg ?_
  simp only [Bool.and_eq_true, decide_eq_true_eq]
  omega

end Sys2Proof.Machine

namespace Sys2Proof
open Machine

/-- Settles O32. -/
theorem writeBerthResult : Obligations.WriteBerthResult := by
  unfold Obligations.WriteBerthResult
  intro st scope stagger lead s accepted agree sound holdsAll
  have taken : exec (.writeBerth st scope stagger lead) s = .next (takeWriteBerth st scope stagger lead s) :=
    request_taken accepted rfl
  have agree' := (takeWriteBerth_inhibitsKept st scope stagger lead s).agree agree
  have sound' := takeWriteBerth_authorityKept st scope stagger lead s sound
  have holds : s.holdsAllFitted st = true ↔ holdsAll := holdsAllFitted_iff s st
  have restartSet : s.restartSet st = (s.link st).restartInd := rfl
  have refused {c : ReplyCode} (step : takeWriteBerth st scope stagger lead s = s.answer st 0x51#8 c) :
      s.onlyReply (takeWriteBerth st scope stagger lead s) st { kind := 0x51#8, body := [c.code] }
        ∧ ∀ n, (takeWriteBerth st scope stagger lead s).line n
          = { s.line n with protection := { (s.line n).protection with
              inhibit := ((takeWriteBerth st scope stagger lead s).line n).protection.inhibit } } := by
    rw [step]
    exact ⟨rfl, fun _ => rfl⟩
  refine ⟨_, taken, ?_⟩
  by_cases restarts : (s.link st).restartInd = true
  · obtain ⟨reply, lines⟩ := refused (c := .restartPending) (if_pos restarts)
    exact ⟨fun _ => reply, fun h => absurd restarts (by simp [h]), fun h => absurd restarts (by simp [h]),
      fun h => absurd restarts (by simp [h]), agree', sound', lines⟩
  · by_cases held : holdsAll
    · by_cases inRange : scope.toNat ≤ 1 ∧ stagger.toNat ≤ 200 ∧ lead.toNat ≤ 1
      · obtain ⟨h, h', h''⟩ := inRange
        have step := settingsOfBytes_taken h h' h''
        generalize written' : BerthSettings.mk (if scope = 1#8 then .berth else .group) stagger.toNat (lead == 1#8) = b at step
        have taken' : takeWriteBerth st scope stagger lead s = (s.writeBerth b).answer st 0x51#8 .done := by
          unfold takeWriteBerth
          rw [restartSet, if_neg restarts, if_neg (by simp [holds.2 held]), step]
        have written := writeBerth_written b s
        rw [taken'] at agree' sound' ⊢
        subst written'
        refine ⟨fun h => absurd h restarts, fun _ h => absurd held h, fun _ _ h => by omega, fun _ _ _ _ _ => ?_, agree', sound',
          written.line⟩
        refine ⟨by rw [State.answer, State.placeReply, State.link_onLink_self]; rfl, written.table, written.berth,
          written.pendingRestart, written.kept, fun other g => ?_, placeReply_linksButReply written.links st _ _,
          fun x g => ?_, written.due⟩
        · have once := ((State.authoritySound_iff s).1 sound g).attended.once
          exact written.ranked other g ▸ reevaluated_reevaluatedTo _ _ once
        · rw [State.answer, (placeReply_marks st _ _ _ x).2]
          exact written.marks x g
      · obtain ⟨reply, lines⟩ := refused (c := .badValue) (by
          unfold takeWriteBerth
          rw [restartSet, if_neg restarts, if_neg (by simp [holds.2 held]), settingsOfBytes_refused (by omega)])
        exact ⟨fun h => absurd h restarts, fun _ h => absurd held h, fun _ _ _ => reply,
          fun _ _ h h' h'' => absurd ⟨h, h', h''⟩ inRange, agree', sound', lines⟩
    · obtain ⟨reply, lines⟩ := refused (c := .notHolder) (by
        unfold takeWriteBerth
        rw [restartSet, if_neg restarts, if_pos (by simpa using mt holds.1 held)])
      exact ⟨fun h => absurd h restarts, fun _ _ => reply, fun _ h => absurd h held, fun _ h => absurd h held, agree', sound',
        lines⟩

end Sys2Proof

/-! PROOFS. The notices of the single-command test's removals, and WRITE LINE SETUP: settles O33. -/

namespace Sys2Proof.Machine

/-! ### Removals of entries, one after another -/

/-- Record `r'` comes from record `r` by removals of entries (R117, R124): none, or a station of `r` is gone from `r'`. -/
structure GroupRecord.Rescinded (r r' : GroupRecord) : Prop where
  within : ∀ e ∈ r'.entries, e ∈ r.entries
  gone : r' = r ∨ ∃ e ∈ r.entries, ∀ e' ∈ r'.entries, e'.station ≠ e.station

theorem GroupRecord.Rescinded.refl (r : GroupRecord) : r.Rescinded r := ⟨fun _ => id, .inl rfl⟩

theorem GroupRecord.Rescinded.trans {a b c : GroupRecord} (h : a.Rescinded b) (h' : b.Rescinded c) : a.Rescinded c := by
  refine ⟨fun e he => h.within e (h'.within e he), ?_⟩
  rcases h.gone with rfl | ⟨e, he, absent⟩
  · exact h'.gone
  · exact .inr ⟨e, he, fun e' he' => absent e' (h'.within e' he')⟩

/-- Removals mark the group's notice exactly where they remove an entry (R130). -/
theorem GroupRecord.Rescinded.noticeDue {r r' : GroupRecord} (h : r.Rescinded r') : r.noticeDue r' ↔ r' ≠ r := by
  constructor
  · rintro due rfl
    exact GroupRecord.noticeDue_self _ due
  · intro other
    obtain ⟨e, he, absent⟩ := h.gone.resolve_left other
    refine .inr ⟨e.station, e.single, ?_⟩
    rw [GroupRecord.entries, List.mem_append] at he
    refine he.imp (fun he same => ?_) fun he same => ?_
    · obtain ⟨e', he', station, -⟩ := same.1 ⟨e, he, rfl, rfl⟩
      exact absent e' (List.mem_append_left _ he') station
    · obtain ⟨e', he', station, -⟩ := same.1 ⟨e, he, rfl, rfl⟩
      exact absent e' (List.mem_append_right _ he') station

theorem GroupRecord.Rescinded.noticeDue_trans {a b c : GroupRecord} (h : a.Rescinded b) (h' : b.Rescinded c) :
    a.noticeDue c ↔ a.noticeDue b ∨ b.noticeDue c := by
  rw [(h.trans h').noticeDue, h.noticeDue, h'.noticeDue]
  constructor
  · intro other
    by_cases same : b = a
    · exact .inr (same ▸ other)
    · exact .inl same
  · rintro changed rfl
    rcases h.gone with rfl | ⟨e, he, absent⟩
    · exact changed.elim (fun h => h rfl) fun h => h rfl
    · exact absent e (h'.within e he) rfl

theorem mem_inRankOrder_of {lead : Bool} {es : List Entry} {e : Entry} (h : e ∈ inRankOrder lead es) : e ∈ es := by
  unfold inRankOrder at h
  obtain ⟨st, -, found⟩ := List.mem_filterMap.1 h
  exact entryOf_mem found

/-- A re-evaluation brings in no entry (R119). -/
theorem reevaluated_within {lead : Bool} {r : GroupRecord} : ∀ e ∈ (reevaluated lead r).entries, e ∈ r.entries := by
  intro e he
  have ranked : e ∈ inRankOrder lead r.inService ∨ e ∈ inRankOrder lead r.waiting := by
    unfold reevaluated at he
    dsimp only at he
    split at he
    · simp_all [GroupRecord.entries]
    · simp_all [GroupRecord.entries]
    · split at he <;> simp_all [GroupRecord.entries] <;> tauto
  exact List.mem_append.2 (ranked.imp mem_inRankOrder_of mem_inRankOrder_of)

theorem GroupRecord.removed_rescinded (lead : Bool) (st : Station) (r : GroupRecord) : r.Rescinded (r.removed lead st) := by
  unfold GroupRecord.removed
  split
  next entered =>
    have kept : ∀ e ∈ (r.without st).entries, e ∈ r.entries ∧ e.station ≠ st := by
      intro e he
      simpa [GroupRecord.entries, GroupRecord.without, withoutStation, or_and_right] using he
    obtain ⟨e, he, same⟩ := (entry_isSome_iff r st).1 entered
    exact ⟨fun e he => (kept e (reevaluated_within e he)).1,
      .inr ⟨e, he, fun e' he' => same ▸ (kept e' (reevaluated_within e' he')).2⟩⟩
  next => exact .refl r

/-- What removals of entries do to the part: the records, the notices of the groups whose record changes, and halts. -/
structure Rescinds (s t : State) : Prop where
  only : AuthorityOnly s t
  records : ∀ g, (s.record g).Rescinded (t.record g)
  marks : s.groupNoticesMarked t

theorem Rescinds.refl (s : State) : Rescinds s s :=
  ⟨.refl s, fun g => .refl _, fun x g => by simp [GroupRecord.noticeDue_self]⟩

theorem Rescinds.trans {s t u : State} (h : Rescinds s t) (h' : Rescinds t u) : Rescinds s u := by
  refine ⟨h.only.trans h'.only, fun g => (h.records g).trans (h'.records g), fun x g => ?_⟩
  rw [h'.marks x g, h.marks x g, h.only.besideLines.present, (h.records g).noticeDue_trans (h'.records g), or_assoc, ← and_or_left]

theorem removeEntry_rescinds (st : Station) (g : GroupNo) (s : State) : Rescinds s (s.removeEntry st g) := by
  rw [removeEntry_eq_setRecord]
  refine ⟨setRecord_authorityOnly _ _ s, fun x => ?_, fun x h => ?_⟩
  · rw [setRecord_record]
    split
    next same => exact same ▸ GroupRecord.removed_rescinded _ _ _
    next => exact .refl _
  · rw [setRecord_groupMarks, setRecord_record]
    by_cases same : h = g
    · subst same
      simp
    · simp [same, GroupRecord.noticeDue_self]

theorem foldl_rescinds {α : Type} {f : State → α → State} (h : ∀ s a, Rescinds s (f s a)) (as : List α) (s : State) :
    Rescinds s (as.foldl f s) := by
  induction as generalizing s with
  | nil => exact .refl s
  | cons a as ih => exact (h s a).trans (ih _)

theorem singleTest_rescinds (n : LineNo) (s : State) : Rescinds s (s.singleTest n) :=
  foldl_rescinds (fun s g => foldl_rescinds (fun s e => by
    split
    · exact removeEntry_rescinds _ g s
    · exact .refl s) _ s) _ s

/-- The authority notices that a change of one line's record marks are those of the entries it removes (R124, R130). -/
theorem onLine_groupNoticesMarked (n : LineNo) (f : Line → Line) (s : State) : s.groupNoticesMarked (s.onLine n f) := by
  have changed : s.onLine n f
      = if (s.line n).control.state = (f (s.line n)).control.state then s.lineChanged n (f (s.line n))
        else (s.lineChanged n (f (s.line n))).singleTest n := rfl
  have rescinds : Rescinds (s.lineChanged n (f (s.line n))) (s.onLine n f) := by
    rw [changed]
    split
    · exact .refl _
    · exact singleTest_rescinds n _
  have records : (s.lineChanged n (f (s.line n))).records = s.records := by
    unfold State.lineChanged
    split <;> rfl
  have marks (x : Station) : ((s.lineChanged n (f (s.line n))).link x).groupMarks = (s.link x).groupMarks := by
    unfold State.lineChanged
    split
    · exact markLine_groupMarks n _ x
    · rfl
  intro x g
  rw [rescinds.marks x g, marks, (lineChanged_besideLines n _ s).present, State.record, records]
  rfl

/-! ### The line whose setup is written -/

theorem Line.unfit_facts (l : Line) :
    l.unfit.control = { (l.idleIn .notFitted).control with lockMark := none }
      ∧ l.unfit.sense = { senseAtPowerOn with heaving := l.sense.heaving } ∧ l.unfit.tension = tensionAtReset
      ∧ l.unfit.protection = { l.protection with warnWatch := 0, tripWatch := 0 } ∧ l.unfit.joined = none
      ∧ l.unfit.profileDue = false ∧ l.unfit.applied = l.applied := by
  unfold Line.unfit
  rw [enter_eq_idleIn l rfl rfl rfl]
  exact ⟨rfl, rfl, rfl, rfl, rfl, rfl, rfl⟩

theorem Line.fit_facts {l : Line} (p : Profile) (other : l.control.state ≠ .locked) :
    (l.fit p).control = (l.idleIn .starting).control
      ∧ (l.fit p).sense = { senseAtPowerOn with heaving := l.sense.heaving } ∧ (l.fit p).tension = l.tension
      ∧ (l.fit p).protection = l.protection ∧ (l.fit p).joined = none ∧ (l.fit p).profileDue = false
      ∧ (l.fit p).applied = p := by
  unfold Line.fit
  rw [enter_eq_idleIn _ rfl rfl rfl]
  refine ⟨rfl, rfl, if_neg ?_, rfl, rfl, rfl, rfl⟩
  exact not_or.2 ⟨other, nofun⟩

/-- The line once the fitted field of its new setup has been taken (R105). -/
def Line.refitted (old new : LineSetup) (p : Profile) (l : Line) : Line :=
  if old.fitted && !new.fitted then l.unfit else if !old.fitted && new.fitted then l.fit p else l

theorem Line.takeSetup_sameGroup {old new : LineSetup} (same : old.group = new.group) (p : Profile) (l : Line) :
    l.takeSetup old new p = l.refitted old new p := if_pos same

theorem Line.takeSetup_newGroup {old new : LineSetup} (moved : old.group ≠ new.group) (p : Profile) (l : Line) :
    l.takeSetup old new p = { l.refitted old new p with joined := some p, profileDue := false } := if_neg moved

/-- A change of group works on the applied profile's successor alone (R105). -/
theorem Line.takeSetup_refitted (old new : LineSetup) (p : Profile) (l : Line) :
    ∃ joined due, l.takeSetup old new p = { l.refitted old new p with joined := joined, profileDue := due } := by
  by_cases same : old.group = new.group
  · exact ⟨_, _, Line.takeSetup_sameGroup same p l⟩
  · exact ⟨_, _, Line.takeSetup_newGroup same p l⟩

theorem Line.refitted_unfit {old new : LineSetup} (was : old.fitted = true) (now : new.fitted = false) (p : Profile)
    (l : Line) : l.refitted old new p = l.unfit := by simp [Line.refitted, was, now]

theorem Line.refitted_fit {old new : LineSetup} (was : old.fitted = false) (now : new.fitted = true) (p : Profile)
    (l : Line) : l.refitted old new p = l.fit p := by simp [Line.refitted, was, now]

theorem Line.refitted_same {old new : LineSetup} (same : old.fitted = new.fitted) (p : Profile) (l : Line) :
    l.refitted old new p = l := by
  unfold Line.refitted
  rw [same]
  cases new.fitted <;> rfl

/-- A change of fitted, in either direction (R17, R34). -/
theorem Line.refitted_change {old new : LineSetup} (change : old.fitted ≠ new.fitted) (p : Profile) {l : Line}
    (unlocked : l.control.state ≠ .locked) :
    (l.refitted old new p).sense = { senseAtPowerOn with heaving := l.sense.heaving }
      ∧ (l.refitted old new p).joined = none ∧ (l.refitted old new p).profileDue = false := by
  cases was : old.fitted with
  | true =>
    rw [Line.refitted_unfit was (by rw [was] at change; simpa using change.symm)]
    obtain ⟨-, sense, -, -, joined, due, -⟩ := l.unfit_facts
    exact ⟨sense, joined, due⟩
  | false =>
    rw [Line.refitted_fit was (by rw [was] at change; simpa using change.symm)]
    obtain ⟨-, sense, -, -, joined, due, -⟩ := Line.fit_facts p unlocked
    exact ⟨sense, joined, due⟩

/-- The table after a setup has been written (R104, R108). -/
def GroupTable.setupWritten (n : LineNo) (u : LineSetup) (t : GroupTable) : GroupTable :=
  { t with
    setups := t.setups.set n u
    storeState := if t.storeState = .current then .stale else t.storeState }

/-- What a taken WRITE LINE SETUP does (R92, R104, R105, R108). -/
structure SetupWritten (n : LineNo) (u : LineSetup) (s t : State) : Prop where
  table : t.table = s.table.setupWritten n u
  core : t.powered = s.powered ∧ t.resetAsserted = s.resetAsserted ∧ t.pendingRestart = s.pendingRestart
    ∧ t.freeIndex = s.freeIndex ∧ t.pending = s.pending
  berth : t.berth = s.berth
  links : ∀ x, Link.sameButMarks (s.link x) (t.link x)
  groupMarks : s.groupNoticesMarked t
  lineMarks : s.lineNoticesMarked t
  line : ∀ m, t.line m
    = (if m = n then (s.line n).takeSetup (s.setup n) u (s.profile u.group) else s.line m).setInhibit
        (t.line m).protection.inhibit
  quiet : s.noWatched = true → t.records = s.records ∧ t.due = s.due ++ s.inhibitEvents t none
  unchanged : (s.setup n).fitted = u.fitted → (s.setup n).group = u.group →
    t.line n = s.line n ∧ t.due = s.due ∧ ∀ x, (t.link x).lineMarks = (s.link x).lineMarks

theorem Line.takeSetup_inhibit (old new : LineSetup) (p : Profile) (l : Line) :
    (l.takeSetup old new p).protection.inhibit = l.protection.inhibit :=
  ((Line.guard_eq_iff _ _).1 (Line.takeSetup_guard old new p l)).1

theorem Line.takeSetup_same {old new : LineSetup} (fitted : old.fitted = new.fitted) (group : old.group = new.group)
    (p : Profile) (l : Line) : l.takeSetup old new p = l := by
  unfold Line.takeSetup
  rw [fitted, if_pos group]
  cases new.fitted <;> rfl

/-- A line's record that stays as it is marks no notice and makes no single-command test. -/
theorem onLine_fixed {n : LineNo} {f : Line → Line} {s : State} (h : f (s.line n) = s.line n) : s.onLine n f = s := by
  have kept : s.putLine n (s.line n) = s := by
    unfold State.putLine State.line
    rw [Fin.getElem_fin, Vector.set_getElem_self]
  have unmarked : ¬notable (s.line n).control (s.line n).control = true := by
    rw [notable_iff]
    exact noticeDue_self _
  unfold State.onLine
  dsimp only
  rw [h, if_pos rfl, if_neg unmarked, kept]

theorem writeSetup_written (n : LineNo) (u : LineSetup) (s : State) : SetupWritten n u s (s.writeSetup n u) := by
  unfold State.writeSetup
  extract_lets old table s1 s2
  have beside : BesideLines s1 s2 := onLine_besideLines n _ s1
  have line (m : LineNo) : s2.line m = if m = n then (s.line n).takeSetup old u (s.profile u.group) else s.line m :=
    onLine_line ..
  have inhibit (m : LineNo) : (s2.line m).protection.inhibit = (s.line m).protection.inhibit := by
    rw [line]
    split
    next same => rw [same, Line.takeSetup_inhibit]
    next => rfl
  have marks : s.groupNoticesMarked s2 := onLine_groupNoticesMarked n (Line.takeSetup old u (s.profile u.group)) s1
  have marks' (x : Station) (m : LineNo) : (s2.link x).lineMarks[m] = true
      ↔ (s.link x).lineMarks[m] = true ∨ (s.present x = true ∧ m = n
        ∧ (s.line n).noticeDue ((s.line n).takeSetup old u (s.profile u.group))) := onLine_lineMarks ..
  have lineMarks {t : State} (links : t.links = s2.links) (lines : ∀ m, (t.line m).control = (s2.line m).control) :
      s.lineNoticesMarked t := by
    intro x m
    have due : (s.line m).noticeDue (t.line m) ↔ (s.line m).noticeDue (s2.line m) := by
      rw [← notable_iff, ← notable_iff, lines]
    rw [due, State.link, links]
    refine (marks' x m).trans ?_
    rw [line]
    by_cases same : m = n
    · subst same
      simp
    · simp [same, noticeDue_self]
  have quiet (none : s.noWatched = true) : s2.records = s.records ∧ s2.due = s.due := by
    obtain ⟨records, due, -⟩ := onLine_sameAuthority n (Line.takeSetup old u (s.profile u.group)) s1 (noWatched_quiet none)
    exact ⟨records, due⟩
  by_cases same : old.fitted = u.fitted ∧ old.group = u.group
  · rw [if_pos same]
    have fixed : s2 = s1 := onLine_fixed (Line.takeSetup_same same.1 same.2 _ _)
    refine ⟨beside.table, ⟨beside.powered, beside.resetAsserted, beside.pendingRestart, beside.freeIndex, beside.pending⟩,
      beside.berth, beside.links, marks, lineMarks rfl fun _ => rfl, fun m => ?_, fun none => ?_, fun _ _ => ?_⟩
    · rw [← line]
      rfl
    · rw [inhibitEvents_none inhibit, List.append_nil]
      exact quiet none
    · rw [fixed]
      exact ⟨rfl, rfl, fun _ => rfl⟩
  · rw [if_neg same]
    obtain ⟨only, lines⟩ := reevaluateInhibits_spec none s2
    have due := reevaluateInhibits_due none s2
    generalize s2.reevaluateInhibits none = t at *
    have link (x : Station) : t.link x = s2.link x := by rw [State.link, only.links]; rfl
    refine ⟨only.table.trans beside.table, ⟨only.powered.trans beside.powered, only.resetAsserted.trans beside.resetAsserted,
      only.pendingRestart.trans beside.pendingRestart, only.freeIndex.trans beside.freeIndex,
      only.pending.trans beside.pending⟩, only.berth.trans beside.berth, fun x => link x ▸ beside.links x, fun x g => ?_,
      lineMarks only.links only.control, fun m => ?_, fun none => ?_, fun fitted group => absurd ⟨fitted, group⟩ same⟩
    · have record : t.record g = s2.record g := by rw [State.record, only.records]; rfl
      rw [link, record]
      exact marks x g
    · rw [← line]
      exact only.line m
    · obtain ⟨records, due'⟩ := quiet none
      have events : s2.inhibitEvents t Option.none = s.inhibitEvents t Option.none :=
        inhibitEvents_congr inhibit fun _ => rfl
      exact ⟨only.records.trans records, by rw [due, due', events]⟩

/-! ### The checks -/

/-- The outcome of WRITE LINE SETUP (R104). -/
def State.setupOutcome (s : State) (st : Station) (n : LineNo) (f : SetupFields) : ReplyCode :=
  if (s.link st).restartInd = true then .restartPending
  else if st ≠ .service then .notPermitted
  else if s.holder (s.setup n).group ≠ some st ∨ ∃ g : GroupNo, g.val = f.group.toNat ∧ s.holder g ≠ some st then .notHolder
  else if s.table.storeState = .saving then .busy
  else if ¬((s.line n).control.state = .stowed ∨ (s.line n).control.state = .notFitted
      ∨ ((s.line n).control.state = .starting ∧ (s.setup n).fitted = false)) then .badState
  else if setupTaken f = false then .badValue
  else .done

theorem heldNew_iff (s : State) (st : Station) (f : SetupFields) :
    (if h : f.group.toNat < 4 then s.holder ⟨f.group.toNat, h⟩ == some st else true) = true
      ↔ ¬∃ g : GroupNo, g.val = f.group.toNat ∧ s.holder g ≠ some st := by
  split
  next small =>
    rw [beq_iff_eq]
    constructor
    · rintro held ⟨g, named, other⟩
      obtain rfl : g = ⟨f.group.toNat, small⟩ := Fin.ext named
      exact other held
    · exact fun none => by_contra fun other => none ⟨⟨_, small⟩, rfl, other⟩
  next large => exact iff_of_true rfl fun ⟨g, named, _⟩ => large (named ▸ g.isLt)

theorem setupWritable_iff (s : State) (n : LineNo) :
    s.setupWritable n = true ↔ (s.line n).control.state = .stowed ∨ (s.line n).control.state = .notFitted
      ∨ ((s.line n).control.state = .starting ∧ (s.setup n).fitted = false) := by
  unfold State.setupWritable State.fitted
  simp [or_assoc]

theorem setupOfFields_none {f : SetupFields} (refused : setupTaken f = false) : setupOfFields f = none := by
  rw [Option.eq_none_iff_forall_ne_some]
  intro u spelled
  cases refused.symm.trans ((setupOfFields_eq_some f u).1 spelled).1

theorem setupOfFields_some {f : SetupFields} (taken : setupTaken f = true) : ∃ u, setupOfFields f = some u := by
  unfold setupTaken at taken
  rw [decide_eq_true_eq] at taken
  obtain ⟨fitted, group, hand, offset, rank, low, high⟩ := taken
  unfold setupOfFields within
  rw [dif_pos (Nat.lt_succ_of_le group), dif_pos (Nat.lt_succ_of_le rank), if_pos (by simp [fitted, hand, offset, low, high])]
  exact ⟨_, rfl⟩

theorem takeWriteLineSetup_outcome (st : Station) (n : LineNo) (f : SetupFields) (s : State) :
    (s.setupOutcome st n f ≠ .done →
        takeWriteLineSetup st (BitVec.ofNat 8 n.val) f s = s.answer st 0x52#8 (s.setupOutcome st n f))
      ∧ (s.setupOutcome st n f = .done → (s.line n).control.state ≠ .locked ∧ ∃ u, setupOfFields f = some u
          ∧ takeWriteLineSetup st (BitVec.ofNat 8 n.val) f s = (s.writeSetup n u).answer st 0x52#8 .done) := by
  unfold takeWriteLineSetup State.setupOutcome
  rw [lineOf_ofNat]
  dsimp only
  have restartSet : s.restartSet st = (s.link st).restartInd := rfl
  have held : (!(s.holder (s.setup n).group == some st
        && if h : f.group.toNat < 4 then s.holder ⟨f.group.toNat, h⟩ == some st else true)) = true
      ↔ s.holder (s.setup n).group ≠ some st ∨ ∃ g : GroupNo, g.val = f.group.toNat ∧ s.holder g ≠ some st := by
    rw [Bool.not_eq_true', ← Bool.not_eq_true, Bool.and_eq_true, beq_iff_eq, heldNew_iff, not_and_or, not_not]
  have writable : (!s.setupWritable n) = true ↔ ¬((s.line n).control.state = .stowed
      ∨ (s.line n).control.state = .notFitted
      ∨ ((s.line n).control.state = .starting ∧ (s.setup n).fitted = false)) := by
    rw [Bool.not_eq_true', ← Bool.not_eq_true, setupWritable_iff]
  simp only [held, writable, bne_iff_ne, restartSet]
  by_cases restarts : (s.link st).restartInd = true
  · simp only [if_pos restarts]
    exact ⟨fun _ => trivial, nofun⟩
  · simp only [if_neg restarts]
    by_cases service : st ≠ .service
    · simp only [if_pos service]
      exact ⟨fun _ => trivial, nofun⟩
    · simp only [if_neg service]
      by_cases holder : s.holder (s.setup n).group ≠ some st ∨ ∃ g : GroupNo, g.val = f.group.toNat ∧ s.holder g ≠ some st
      · simp only [if_pos holder]
        exact ⟨fun _ => trivial, nofun⟩
      · simp only [if_neg holder]
        by_cases saving : s.table.storeState = .saving
        · simp only [if_pos saving]
          exact ⟨fun _ => trivial, nofun⟩
        · simp only [if_neg saving]
          by_cases state : (s.line n).control.state = .stowed ∨ (s.line n).control.state = .notFitted
              ∨ ((s.line n).control.state = .starting ∧ (s.setup n).fitted = false)
          · simp only [if_neg (not_not.2 state)]
            cases fields : setupTaken f with
            | false =>
              rw [setupOfFields_none fields]
              exact ⟨fun _ => rfl, nofun⟩
            | true =>
              obtain ⟨u, spelled⟩ := setupOfFields_some fields
              rw [spelled]
              refine ⟨fun h => absurd rfl h, fun _ => ⟨fun locked => ?_, u, rfl, rfl⟩⟩
              rw [locked] at state
              exact state.elim nofun fun h => h.elim nofun fun h => nomatch h.1
          · simp only [if_pos state]
            exact ⟨fun _ => trivial, nofun⟩

end Sys2Proof.Machine

namespace Sys2Proof
open Machine

/-- Settles O33. -/
theorem writeLineSetupResult : Obligations.WriteLineSetupResult := by
  unfold Obligations.WriteLineSetupResult
  intro st n f s accepted l old outcome
  have taken : exec (.writeLineSetup st (BitVec.ofNat 8 n.val) f) s
      = .next (takeWriteLineSetup st (BitVec.ofNat 8 n.val) f s) := request_taken accepted (lineNoOk_ofNat n)
  have agree' := takeWriteLineSetup_inhibitsKept st (BitVec.ofNat 8 n.val) f s
  obtain ⟨refused, accepted'⟩ := takeWriteLineSetup_outcome st n f s
  change outcome ≠ .done → _ = s.answer st 0x52#8 outcome at refused
  change outcome = .done → _ at accepted'
  refine ⟨_, taken, ?_⟩
  by_cases done : outcome = .done
  · obtain ⟨unlocked, u', fields, step⟩ := accepted' done
    rw [step] at agree' ⊢
    refine ⟨by rw [done, State.answer, State.placeReply, State.link_onLink_self]; rfl, fun h => absurd done h,
      fun u _ spelled => ?_⟩
    obtain rfl : u = u' :=
      Option.some.inj (((setupOfFields_eq_some f u).2 ⟨((setupOfFields_eq_some f u').1 fields).1, spelled⟩).symm.trans fields)
    have written := writeSetup_written n u s
    generalize s.writeSetup n u = t at *
    have setup (m : LineNo) : t.setup m = if m = n then u else s.setup m := by
      rw [State.setup, written.table]
      by_cases same : m = n
      · simp [GroupTable.setupWritten, same]
      · rw [if_neg same]
        simpa [State.setup, GroupTable.setupWritten] using Vector.getElem_set_ne n.isLt m.isLt fun e => same (Fin.ext e.symm)
    have answered (m : LineNo) : (t.answer st 0x52#8 .done).line m = t.line m := rfl
    have own := written.line n
    rw [if_pos rfl] at own
    obtain ⟨v, own⟩ : ∃ v, t.line n = (l.takeSetup old u (s.profile u.group)).setInhibit v := ⟨_, own⟩
    obtain ⟨joined, due, parts⟩ := l.takeSetup_refitted old u (s.profile u.group)
    refine ⟨setup, ?_, ?_, written.berth, placeReply_linksButReply written.links st _ _, fun x g => ?_, fun m other => ?_,
      fun was now => ?_, fun was now => ?_, fun change => ?_, fun change same => ?_, fun same => ?_, fun was => ?_,
      fun moved => ?_, fun same same' => ?_, fun x m => ?_, written.quiet, agree'.agree⟩
    · exact written.table.trans (by rw [show (t.answer st 0x52#8 .done).table = _ from written.table]; rfl)
    · obtain ⟨powered, resetAsserted, pendingRestart, freeIndex, pending⟩ := written.core
      exact ⟨powered, resetAsserted, rfl, pendingRestart, freeIndex, pending⟩
    · rw [State.answer, (placeReply_marks st _ _ t x).2]
      exact written.groupMarks x g
    · have line := written.line m
      rw [if_neg other] at line
      exact line
    · rw [answered, own, parts, Line.refitted_unfit was now]
      obtain ⟨control, sense, tension, protection, -⟩ := l.unfit_facts
      exact ⟨control, congrArg Sense.hook sense, congrArg Sense.payout sense, congrArg Sense.referenced sense,
        congrArg Tension.filtered tension, tension, congrArg Protection.warnWatch protection,
        congrArg Protection.tripWatch protection⟩
    · rw [answered, own, parts, Line.refitted_fit was now]
      obtain ⟨control, sense, tension, protection, -, -, applied⟩ := Line.fit_facts (s.profile u.group) unlocked
      exact ⟨control, applied, congrArg Sense.hook sense, congrArg Sense.payout sense, congrArg Sense.referenced sense, tension,
        (congrArg Protection.warnWatch protection :), (congrArg Protection.tripWatch protection :)⟩
    · rw [answered, own, parts]
      obtain ⟨sense, -⟩ := Line.refitted_change change (s.profile u.group) unlocked
      refine ⟨congrArg Sense.samples sense, congrArg Sense.invalidCount sense, (congrArg Sense.heaving sense :), fun w hw => ?_⟩
      simp only [List.mem_cons, List.not_mem_nil, or_false] at hw
      obtain rfl | rfl | rfl | rfl := hw
      exacts [congrArg Sense.hookClosed sense, congrArg Sense.hookOpen sense, congrArg Sense.stowed sense,
        congrArg Sense.driveFault sense]
    · rw [answered, own, Line.takeSetup_sameGroup same]
      exact (Line.refitted_change change (s.profile u.group) unlocked).2
    · rw [answered, own, parts, Line.refitted_same same]
      rfl
    · rw [answered, own, parts]
      cases now : u.fitted with
      | true => rw [Line.refitted_same (was.trans now.symm)]; rfl
      | false =>
        rw [Line.refitted_unfit was now]
        exact l.unfit_facts.2.2.2.2.2.2
    · rw [answered, own, Line.takeSetup_newGroup moved]
      exact ⟨rfl, rfl⟩
    · obtain ⟨line, due, marks⟩ := written.unchanged same same'
      exact ⟨line, due, fun x => ((placeReply_marks st _ _ t x).1).trans (marks x)⟩
    · rw [State.answer, (placeReply_marks st _ _ t x).1]
      exact written.lineMarks x m
  · have placed (c : ReplyCode) : s.onlyReply (s.answer st 0x52#8 c) st { kind := 0x52#8, body := [outcomeByte c] } := by
      cases c <;> rfl
    rw [refused done]
    refine ⟨?_, fun _ => placed outcome, fun u h => absurd h done⟩
    rw [placed outcome, State.link_putLink_self]

end Sys2Proof

/-! PROOFS. What a sample event does to its own line, as one function of that line (R1, R19, R28, R39, R84). -/

namespace Sys2Proof.Machine

/-- A line takes the switch readings of a sample: the hook position's report, then stowed's, then the drive fault's
(R5 to R9). -/
def Line.sensed (b : BerthAction) (pins : SwitchPins) (l : Line) : Line :=
  let old := l.sense
  let new := old.sampleSwitches pins
  let l1 := { l with sense := new }
  let l2 := if new.hook = old.hook then l1 else l1.hookReport b old.hook new.hook
  let l3 := if new.stowed.accepted = .active ∧ old.stowed.accepted ≠ .active then l2.stowedReport else l2
  if new.driveFault.accepted = .active ∧ old.driveFault.accepted ≠ .active then l3.driveFaultReport else l3

/-- A line has its load sample tested and counted (R2, R3). -/
def Line.loadTested (valid : Bool) (l : Line) : Line :=
  let l' := { l with sense := l.sense.sampleLoad valid }
  if l'.sense.invalidCount = 8 then l'.sensorFaultReport else l'

/-- A line forms its tension from a load and takes the tension report (R21 to R25, R28, R31). -/
def Line.evaluated (stopped : Bool) (load : Nat) (l : Line) : Line :=
  let e := l.tension.sample l.applied.filterShift load
  let w := if l.control.state = .locked then e.tendStep l.applied else (e, TendOutcome.none)
  Line.tensionReport stopped w.2 { l with tension := w.1 }

/-- A fitted line after its own latch of WARN or TRIP: its haul inhibit is in force, and its onset is taken (R84, R91). -/
def Line.inhibited (l : Line) : Line :=
  if l.protection.inhibit = true then l else (l.setInhibit true).inhibitOnset

/-- A fitted line takes the protection stage of a valid sample (R84, R85, R86). -/
def Line.guarded (l : Line) : Line :=
  if l.has .warn then
    let w := watchStep l.applied.tripDwell l.protection.tripWatch (l.applied.trip < l.tension.reported)
    let l' := l.setWatches 0 w.1
    if w.2 = .none then l' else if l.has .trip then l'.tripReport else l'.tripReport.inhibited
  else
    let w := watchStep l.applied.warnDwell l.protection.warnWatch (l.applied.warn < l.tension.reported)
    if w.2 = .fired then (l.setWatches 0 0).warnReport.inhibited else l.setWatches w.1 0

/-- A line takes its profile at the start of a sample (R102, R105). -/
def Line.profiled (p : Profile) (l : Line) : Line :=
  if l.profileDue then l.applyProfile p
  else
    match l.joined with
    | some q => l.useJoined q
    | none => l

/-- A fitted line takes a sample under the profile that it works by, up to the close (R1, R39). -/
def Line.unclosed (b : BerthAction) (zeroOffset : Nat) (sample : BitVec 12) (pins : SwitchPins) (l : Line) : Line :=
  let tested := (l.sensed b pins).loadTested (sampleValid sample)
  if sampleValid sample = true then (tested.evaluated b.stopped (loadOf sample zeroOffset)).guarded else tested

/-- A fitted line takes a sample under the profile that it works by (R1, R39). -/
def Line.sampledOn (b : BerthAction) (zeroOffset : Nat) (sample : BitVec 12) (pins : SwitchPins) (l : Line) : Line :=
  (l.unclosed b zeroOffset sample pins).close true

/-- A fitted line takes a sample event at which no profile comes into use (R1, R39). -/
def Line.sampled (b : BerthAction) (zeroOffset : Nat) (sample : BitVec 12) (pins : SwitchPins) (l : Line) : Line :=
  l.advanceHookTimer.sampledOn b zeroOffset sample pins

/-! ### The stages -/

theorem switchStage_sensed (n : LineNo) (pins : SwitchPins) (s : State) :
    (s.switchStage n pins).line n = (s.line n).sensed s.berth pins := switchStage_line n pins s

theorem sensorStage_loadTested (n : LineNo) (sample : BitVec 12) (s : State) :
    (s.sensorStage n sample).line n = (s.line n).loadTested (sampleValid sample) := sensorStage_line n sample s

/-- A fitted line that is overloaded is to be inhibited, whatever the scope (R91). -/
theorem inhibitOf_overloaded {s : State} {n : LineNo} (fitted : s.fitted n = true) (overloaded : (s.line n).overloaded = true) :
    s.inhibitOf n = true := by
  unfold State.inhibitOf
  rw [fitted, Bool.true_and, List.any_eq_true]
  exact ⟨n, mem_allLines n, by simp [fitted, overloaded]⟩

theorem afterLatch_inhibited {s : State} {n : LineNo} (fitted : s.fitted n = true)
    (overloaded : (s.line n).overloaded = true) : (s.afterLatch n).line n = (s.line n).inhibited := by
  rw [afterLatch_line, inhibitOf_overloaded fitted overloaded]
  unfold Line.inhibited
  cases inhibit : (s.line n).protection.inhibit with
  | false => rfl
  | true =>
    have already := Line.setInhibit_self (s.line n)
    rw [inhibit] at already
    rw [if_neg (by simp), if_pos rfl, already]

theorem Line.warnReport_overloaded (l : Line) : l.warnReport.overloaded = true := by
  simp [Line.overloaded, Line.warnReport, Line.has_latch]

theorem Line.tripReport_overloaded {l : Line} (h : l.has .warn = true) : l.tripReport.overloaded = true := by
  rw [((Line.guard_eq_iff _ _).1 (Line.tripReport_guard h)).2]
  simp [Line.overloaded, h]

theorem protectionStage_guarded {s : State} {n : LineNo} (fitted : s.fitted n = true) :
    (s.protectionStage n).line n = (s.line n).guarded := by
  unfold Line.guarded
  cases warned : (s.line n).has .warn with
  | false =>
    rw [protectionStage_line_warn n s warned]
    dsimp only
    rw [if_neg Bool.false_ne_true]
    split
    · rw [afterLatch_inhibited]
      · rw [onLine_line_self, State.line_putLine_self]
      · exact (onLine_fitted n n _ _).trans fitted
      · rw [onLine_line_self]
        exact Line.warnReport_overloaded _
    · rfl
  | true =>
    rw [protectionStage_line_trip n s warned]
    dsimp only
    rw [if_pos rfl]
    split
    · rfl
    · split
      · rfl
      · rw [afterLatch_inhibited]
        · rw [onLine_line_self, State.line_putLine_self]
        · exact (onLine_fitted n n _ _).trans fitted
        · rw [onLine_line_self, State.line_putLine_self]
          exact Line.tripReport_overloaded warned

/-- The Berth Action Unit's STOPPED condition and the setups stand through the stages before the tension report. -/
theorem switchStage_stopped (n : LineNo) (pins : SwitchPins) (s : State) :
    (s.switchStage n pins).berth.stopped = s.berth.stopped := by
  have appended (ns : List LineNo) (u : State) : (u.appendQueue ns).berth.stopped = u.berth.stopped := by
    unfold State.appendQueue State.dueTake
    dsimp only
    split
    · rfl
    · split <;> rfl
  have changed (old new : HookPos) (u : State) : (u.hookChange n old new).berth.stopped = u.berth.stopped := by
    unfold State.hookChange
    dsimp only
    split
    · rw [appended, onLine_berth]
    · rw [onLine_berth]
  unfold State.switchStage
  extract_lets old new _ s1 s2 s3
  have second : s2.berth.stopped = s.berth.stopped := by
    unfold s2
    split
    · rfl
    · exact changed _ _ s1
  have third : s3.berth.stopped = s.berth.stopped := by
    unfold s3
    split
    · rw [onLine_berth]; exact second
    · exact second
  split
  · rw [onLine_berth]; exact third
  · exact third

theorem Line.profiled_stands {l : Line} (stands : l.profileStands = true) (p : Profile) : l.profiled p = l := by
  unfold Line.profileStands at stands
  rw [Bool.and_eq_true, Bool.not_eq_true', Option.isNone_iff_eq_none] at stands
  unfold Line.profiled
  rw [stands.1, stands.2]
  rfl

theorem profileStage_stands {n : LineNo} {s : State} (stands : (s.line n).profileStands = true) : s.profileStage n = s := by
  unfold Line.profileStands at stands
  rw [Bool.and_eq_true, Bool.not_eq_true', Option.isNone_iff_eq_none] at stands
  unfold State.profileStage
  rw [stands.1, stands.2]
  rfl

theorem profileStage_profiled (n : LineNo) (s : State) :
    (s.profileStage n).line n = (s.line n).profiled (s.profile (s.setup n).group) := by
  rw [profileStage_line]
  rfl

/-- The line of a sample event (R1, R39). -/
theorem sampleEvent_profiled {s : State} {n : LineNo} (fitted : s.fitted n = true) (sample : BitVec 12) (pins : SwitchPins) :
    (s.sampleEvent n sample pins).line n
      = ((s.line n).advanceHookTimer.profiled (s.profile (s.setup n).group)).sampledOn s.berth (s.setup n).zeroOffset sample
          pins := by
  rw [sampleEvent_line_fitted n sample pins s fitted]
  have profiled := profileStage_profiled n (s.putLine n (s.line n).advanceHookTimer)
  have zeroth := profileStage_stageOnly n (s.putLine n (s.line n).advanceHookTimer)
  have acting := profileStage_berth n (s.putLine n (s.line n).advanceHookTimer)
  rw [State.line_putLine_self] at profiled
  generalize (s.putLine n (s.line n).advanceHookTimer).profileStage n = r at *
  have first := switchStage_stageOnly n pins r
  have stopped := switchStage_stopped n pins r
  have line := switchStage_sensed n pins r
  generalize r.switchStage n pins = u at *
  have second := sensorStage_stageOnly n sample u
  have line' := sensorStage_loadTested n sample u
  have berth := sensorStage_berth n sample u
  generalize u.sensorStage n sample = v at *
  unfold Line.sampledOn Line.unclosed
  dsimp only
  have tested : v.line n
      = (((s.line n).advanceHookTimer.profiled (s.profile (s.setup n).group)).sensed s.berth pins).loadTested
          (sampleValid sample) := by
    rw [line', line, profiled, acting]
    rfl
  have setup : v.setup n = s.setup n := by
    rw [State.setup, second.table, first.table, zeroth.table]
    rfl
  by_cases valid : sampleValid sample = true
  · have table : (v.evaluated n sample).fitted n = true := by
      unfold State.evaluated
      rw [onLine_fitted, State.fitted]
      exact (congrArg LineSetup.fitted setup).trans fitted
    rw [tensionStage_valid n sample v valid, if_pos valid, protectionStage_guarded table, evaluated_line, tested, berth, stopped,
      setup, acting]
    rfl
  · rw [tensionStage_invalid n sample v (by simpa using valid), if_neg valid, tested]

/-- The line of a sample event, where its applied profile stands (R1, R39). -/
theorem sampleEvent_sampled {s : State} {n : LineNo} (fitted : s.fitted n = true) (stands : (s.line n).profileStands = true)
    (sample : BitVec 12) (pins : SwitchPins) :
    (s.sampleEvent n sample pins).line n = (s.line n).sampled s.berth (s.setup n).zeroOffset sample pins := by
  rw [sampleEvent_profiled fitted, Line.profiled_stands (l := (s.line n).advanceHookTimer) stands]
  rfl

end Sys2Proof.Machine

/-! PROOFS. What a sample event does to F, T, the invalid-sample counter and the watches of the Protection Unit (R3, R20 to
R25): settles O8. No report moves any of them. -/

namespace Sys2Proof.Machine

/-- F, T, the invalid-sample counter and the two watches of the Protection Unit. -/
def Line.measures (l : Line) : Option Nat × Nat × Nat × Nat × Nat :=
  (l.tension.filtered, l.tension.reported, l.sense.invalidCount, l.protection.warnWatch, l.protection.tripWatch)

theorem Line.measures_eq_iff (a b : Line) :
    a.measures = b.measures ↔
      a.tension.filtered = b.tension.filtered ∧ a.tension.reported = b.tension.reported
        ∧ a.sense.invalidCount = b.sense.invalidCount ∧ a.protection.warnWatch = b.protection.warnWatch
        ∧ a.protection.tripWatch = b.protection.tripWatch := by
  simp [Line.measures]

@[simp] theorem Line.measures_ite (c : Prop) [Decidable c] (a b : Line) :
    (if c then a else b).measures = if c then a.measures else b.measures :=
  apply_ite Line.measures c a b

@[simp] theorem Line.advanceHookTimer_measures (l : Line) : l.advanceHookTimer.measures = l.measures := rfl
@[simp] theorem Line.setDrive_measures (d : Int) (l : Line) : (l.setDrive d).measures = l.measures := rfl
@[simp] theorem Line.latch_measures (f : Flag) (l : Line) : (l.latch f).measures = l.measures := rfl
@[simp] theorem Line.setMark_measures (l : Line) : l.setMark.measures = l.measures := rfl
@[simp] theorem Line.reference_measures (l : Line) : l.reference.measures = l.measures := rfl
@[simp] theorem Line.setInhibit_measures (v : Bool) (l : Line) : (l.setInhibit v).measures = l.measures := rfl
@[simp] theorem Line.warnReport_measures (l : Line) : l.warnReport.measures = l.measures := rfl

@[simp] theorem Line.enter_measures (x : LineState) (r : CommandRecord) (l : Line) :
    (l.enter x r).measures = l.measures := by
  unfold Line.enter
  dsimp only
  split <;> rfl

@[simp] theorem Line.enterFaulted_measures (c : Option FaultCause) (l : Line) :
    (l.enterFaulted c).measures = l.measures := Line.enter_measures .faulted {} l

@[simp] theorem Line.fault_measures (c : FaultCause) (l : Line) : (l.fault c).measures = l.measures := by
  simp [Line.fault]

@[simp] theorem Line.slip_measures (l : Line) : l.slip.measures = l.measures := Line.enter_measures ..

@[simp] theorem Line.goRewind_measures (r : CommandRecord) (l : Line) : (l.goRewind r).measures = l.measures := by
  simp [Line.goRewind]

@[simp] theorem Line.derive_measures (fitted : Bool) (l : Line) : (l.derive fitted).measures = l.measures := by
  simp [Line.derive]

@[simp] theorem Line.hookReport_measures (b : BerthAction) (old new : HookPos) (l : Line) :
    (l.hookReport b old new).measures = l.measures := by
  unfold Line.hookReport
  split <;> simp [Line.engagingComplete, Line.openingComplete]

@[simp] theorem Line.stowedReport_measures (l : Line) : l.stowedReport.measures = l.measures := by
  simp [Line.stowedReport]

@[simp] theorem Line.driveFaultReport_measures (l : Line) : l.driveFaultReport.measures = l.measures := by
  unfold Line.driveFaultReport
  split <;> simp

@[simp] theorem Line.sensorFaultReport_measures (l : Line) : l.sensorFaultReport.measures = l.measures := by
  unfold Line.sensorFaultReport
  split <;> simp

@[simp] theorem Line.slackReport_measures (l : Line) : l.slackReport.measures = l.measures := by
  unfold Line.slackReport
  dsimp only
  split
  · exact Line.enter_measures ..
  · rfl

@[simp] theorem Line.tensionReport_measures (stopped : Bool) (o : TendOutcome) (l : Line) :
    (l.tensionReport stopped o).measures = l.measures := by
  have render (fired : Bool) : (l.renderEntry fired).measures = l.measures := by simp [Line.renderEntry]
  have recover (fired : Bool) : (l.recoverEntry stopped fired).measures = l.measures := by simp [Line.recoverEntry]
  unfold Line.tensionReport
  split
  · split <;> simp [render, recover]
  all_goals simp
  intro _
  split <;> simp

@[simp] theorem Line.tripReport_measures (l : Line) : l.tripReport.measures = l.measures := by
  unfold Line.tripReport
  generalize l.control.state = x
  cases x with
  | hauling | locked | rendering | recovering | held | slacking => exact Line.slip_measures _
  | faulted => simp
  | _ => rfl

@[simp] theorem Line.inhibitOnset_measures (l : Line) : l.inhibitOnset.measures = l.measures := by
  unfold Line.inhibitOnset
  split <;> simp

@[simp] theorem Line.inhibited_measures (l : Line) : l.inhibited.measures = l.measures := by
  simp [Line.inhibited]

@[simp] theorem Line.stallExpire_measures (l : Line) : l.stallExpire.measures = l.measures := by
  simp [Line.stallExpire]

@[simp] theorem Line.close_measures (fitted : Bool) (l : Line) : (l.close fitted).measures = l.measures := by
  have starting : (l.closeStarting fitted).measures = l.measures := by
    unfold Line.closeStarting
    dsimp only
    split_ifs
    exacts [Line.derive_measures .., rfl, rfl]
  have deployed : (l.closeStarting fitted).closeDeploy.measures = l.measures := by
    simp [Line.closeDeploy, starting]
  unfold Line.close Line.closeStall
  dsimp only
  split_ifs
  · exact (Line.stallExpire_measures _).trans deployed
  · exact deployed
  · exact deployed

/-! ### The stages -/

@[simp] theorem Line.sensed_measures (b : BerthAction) (pins : SwitchPins) (l : Line) :
    (l.sensed b pins).measures = l.measures := by
  have switched : Line.measures { l with sense := l.sense.sampleSwitches pins } = l.measures := rfl
  simp [Line.sensed, switched]

theorem Line.loadTested_measures (valid : Bool) (l : Line) :
    (l.loadTested valid).measures = Line.measures { l with sense := l.sense.sampleLoad valid } := by
  simp [Line.loadTested]

@[simp] theorem Line.sensed_profiles (b : BerthAction) (pins : SwitchPins) (l : Line) :
    (l.sensed b pins).profiles = l.profiles := by
  have switched : Line.profiles { l with sense := l.sense.sampleSwitches pins } = l.profiles := rfl
  simp [Line.sensed, switched]

@[simp] theorem Line.loadTested_profiles (valid : Bool) (l : Line) : (l.loadTested valid).profiles = l.profiles := by
  have tested : Line.profiles { l with sense := l.sense.sampleLoad valid } = l.profiles := rfl
  simp [Line.loadTested, tested]

/-- The line's applied profile is that of the line before the stages up to the load test. -/
theorem Line.tested_applied (b : BerthAction) (pins : SwitchPins) (valid : Bool) (l : Line) :
    ((l.sensed b pins).loadTested valid).applied = l.applied := by
  have h : ((l.sensed b pins).loadTested valid).profiles = l.profiles := by simp
  exact congrArg Prod.fst h

/-- F, T and the invalid-sample counter of a line after its tension report (R21 to R25). -/
theorem Line.evaluated_measures (stopped : Bool) (load : Nat) (l : Line) :
    (l.evaluated stopped load).measures
      = Line.measures { l with tension := l.tension.sample l.applied.filterShift load } := by
  unfold Line.evaluated
  simp only [Line.tensionReport_measures]
  split
  · unfold Tension.tendStep
    dsimp only
    split_ifs <;> rfl
  · rfl

/-- The protection stage moves the two watches alone (R84 to R86). -/
theorem Line.guarded_measures (l : Line) :
    l.guarded.measures
      = if l.has .warn then
          Line.measures (l.setWatches 0
            (watchStep l.applied.tripDwell l.protection.tripWatch (l.applied.trip < l.tension.reported)).1)
        else
          let w := watchStep l.applied.warnDwell l.protection.warnWatch (l.applied.warn < l.tension.reported)
          Line.measures (l.setWatches (if w.2 = .fired then 0 else w.1) 0) := by
  unfold Line.guarded
  dsimp only
  split_ifs <;> simp

theorem Line.guarded_figures (l : Line) :
    l.guarded.tension.filtered = l.tension.filtered ∧ l.guarded.tension.reported = l.tension.reported
      ∧ l.guarded.sense.invalidCount = l.sense.invalidCount := by
  have h := Line.guarded_measures l
  dsimp only at h
  split at h
  · exact ⟨congrArg (·.1) h, congrArg (·.2.1) h, congrArg (·.2.2.1) h⟩
  · exact ⟨congrArg (·.1) h, congrArg (·.2.1) h, congrArg (·.2.2.1) h⟩

/-- F, T and the invalid-sample counter after a sample event (R3, R20 to R25). -/
theorem Line.sampledOn_figures (b : BerthAction) (zeroOffset : Nat) (sample : BitVec 12) (pins : SwitchPins) (l : Line) :
    (sampleValid sample = true →
      (l.sampledOn b zeroOffset sample pins).tension.filtered
          = some (filteredAfter l.applied.filterShift l.tension.filtered (loadOf sample zeroOffset))
        ∧ (l.sampledOn b zeroOffset sample pins).tension.reported
          = filteredAfter l.applied.filterShift l.tension.filtered (loadOf sample zeroOffset) / 16
        ∧ (l.sampledOn b zeroOffset sample pins).sense.invalidCount = 0)
      ∧ (sampleValid sample = false →
        (l.sampledOn b zeroOffset sample pins).measures
          = Line.measures { l with sense := { l.sense with invalidCount := min (l.sense.invalidCount + 1) 8 } }) := by
  unfold Line.sampledOn Line.unclosed
  generalize sampleValid sample = good
  have tested := Line.loadTested_measures good (l.sensed b pins)
  have sensed := Line.sensed_measures b pins l
  have applied := Line.tested_applied b pins good l
  rw [Line.measures_eq_iff] at tested sensed
  generalize l.sensed b pins = u at *
  obtain ⟨filtered, reported, count, warn, trip⟩ := sensed
  obtain ⟨filtered', reported', count', warn', trip'⟩ := tested
  constructor
  · rintro rfl
    dsimp only
    rw [if_pos rfl]
    generalize u.loadTested true = v at *
    have evaluated := Line.evaluated_measures b.stopped (loadOf sample zeroOffset) v
    generalize v.evaluated b.stopped (loadOf sample zeroOffset) = e at *
    have closed : (e.guarded.close true).measures = e.guarded.measures := Line.close_measures ..
    rw [Line.measures_eq_iff] at evaluated closed
    obtain ⟨f1, r1, c1, -, -⟩ := evaluated
    obtain ⟨f2, r2, c2⟩ := Line.guarded_figures e
    obtain ⟨f3, r3, c3, -, -⟩ := closed
    have before : v.tension.filtered = l.tension.filtered := filtered'.trans filtered
    refine ⟨?_, ?_, ?_⟩
    · rw [f3, f2, f1, Tension.sample, applied, before]
    · rw [r3, r2, r1, Tension.sample, applied, before]
    · exact ((c3.trans c2).trans c1).trans count'
  · rintro rfl
    dsimp only
    rw [if_neg Bool.false_ne_true, Line.close_measures, Line.measures_eq_iff]
    refine ⟨filtered'.trans filtered, reported'.trans reported, count'.trans ?_, warn'.trans warn, trip'.trans trip⟩
    change min (u.sense.invalidCount + 1) 8 = _
    rw [count]

theorem Line.sampled_figures (b : BerthAction) (zeroOffset : Nat) (sample : BitVec 12) (pins : SwitchPins) (l : Line) :
    (sampleValid sample = true →
      (l.sampled b zeroOffset sample pins).tension.filtered
          = some (filteredAfter l.applied.filterShift l.tension.filtered (loadOf sample zeroOffset))
        ∧ (l.sampled b zeroOffset sample pins).tension.reported
          = filteredAfter l.applied.filterShift l.tension.filtered (loadOf sample zeroOffset) / 16
        ∧ (l.sampled b zeroOffset sample pins).sense.invalidCount = 0)
      ∧ (sampleValid sample = false →
        (l.sampled b zeroOffset sample pins).measures
          = Line.measures { l with sense := { l.sense with invalidCount := min (l.sense.invalidCount + 1) 8 } }) :=
  Line.sampledOn_figures b zeroOffset sample pins l.advanceHookTimer

/-- The load is the sample less the zero offset, 0 where that is negative (R21). -/
theorem loadOf_eq (sample : BitVec 12) (zeroOffset : Nat) :
    ((loadOf sample zeroOffset : Nat) : Int) = max 0 ((sample.toNat : Int) - zeroOffset) := by
  unfold loadOf
  omega

/-- F after a valid sample, in the words of R21, R22 and R25. -/
theorem filteredAfter_some (k f t : Nat) :
    filteredAfter k (some f) t = ((f : Int) + Int.tdiv (16 * (t : Int) - f) (2 ^ k)).toNat := rfl

theorem filteredAfter_none (k t : Nat) : filteredAfter k none t = (16 * (t : Int)).toNat := by
  rw [filteredAfter]
  omega

theorem sampleValid_iff (sample : BitVec 12) : sampleValid sample = true ↔ sample.toNat ≠ 4095 := by
  simp [sampleValid]

theorem sampleValid_eq_false (sample : BitVec 12) : sampleValid sample = false ↔ sample.toNat = 4095 := by
  simp [sampleValid]

theorem reportedNext_eq (s : State) (n : LineNo) (sample : BitVec 12) :
    s.reportedNext n sample
      = filteredAfter (s.line n).applied.filterShift (s.line n).tension.filtered (loadOf sample (s.setup n).zeroOffset) / 16 := by
  unfold State.reportedNext State.filteredNext
  dsimp only
  rw [← loadOf_eq]
  cases (s.line n).tension.filtered with
  | none => rw [filteredAfter_none]
  | some f => rw [filteredAfter_some]

end Sys2Proof.Machine

namespace Sys2Proof

open Machine

/-- Settles O8: `Line.sampled_figures`. -/
theorem validSampleFormsTension : Obligations.ValidSampleFormsTension := by
  unfold Obligations.ValidSampleFormsTension
  intro n sample pins s running fitted stands valid load
  refine ⟨_, whileRunning_running _ running, ?_⟩
  rw [sampleEvent_sampled fitted stands]
  obtain ⟨filtered, reported, -⟩ := (Line.sampled_figures s.berth (s.setup n).zeroOffset sample pins (s.line n)).1
    ((sampleValid_iff sample).2 valid)
  have loads : ((loadOf sample (s.setup n).zeroOffset : Nat) : Int) = load := loadOf_eq ..
  refine ⟨fun f seeded => ?_, fun unseeded => ?_, fun f after => ?_⟩
  · rw [filtered, seeded, filteredAfter_some, loads]
  · rw [filtered, unseeded, filteredAfter_none, loads]
  · rw [reported, ← Option.some.inj (filtered.symm.trans after)]

end Sys2Proof

/-! PROOFS. The close of a sample event, and the stages before it where nothing is to be reported (R5, R39, R40, R44, R56). -/

namespace Sys2Proof.Machine

/-! ### The close -/

/-- A line's stall counter advances by one sample (R56). -/
def Line.stalling (l : Line) : Line := { l with control := { l.control with stallCounter := l.control.stallCounter + 1 } }

theorem Line.closeStarting_other {l : Line} (fitted : Bool) (h : l.control.state ≠ .starting) : l.closeStarting fitted = l :=
  if_neg h

theorem Line.closeDeploy_other {l : Line} (h : ¬(l.control.state = .deploying ∧ (l.applied.deployLength : Int) ≤ l.sense.payout)) :
    l.closeDeploy = l := if_neg h

theorem Line.closeStall_still {l : Line} (h : l.control.state.drivePowered = false) : l.closeStall = l := by
  unfold Line.closeStall
  rw [if_neg (by rw [h]; nofun)]

theorem Line.closeStall_driven {l : Line} (h : l.control.state.drivePowered = true) :
    l.closeStall = if l.applied.stallWindow ≤ l.control.stallCounter + 1 then l.faultedBy .stall .stall else l.stalling := by
  unfold Line.closeStall
  rw [if_pos h]
  dsimp only
  refine ite_congr rfl (fun _ => ?_) fun _ => rfl
  exact (if_pos h).trans (fault_drivePowered (a := l.stalling) .stall h)

/-- A line that neither waits in STARTING nor drives is left alone (R39). -/
theorem Line.close_still {l : Line} (fitted : Bool) (starting : l.control.state ≠ .starting)
    (still : l.control.state.drivePowered = false) : l.close fitted = l := by
  have deploying : l.control.state ≠ .deploying := fun h => by rw [h] at still; cases still
  rw [Line.close, Line.closeStarting_other fitted starting, Line.closeDeploy_other fun h => deploying h.1,
    Line.closeStall_still still]

/-- A drive-powered line short of its deploy length counts toward its stall window (R39, R56). -/
theorem Line.close_driven {l : Line} (fitted : Bool) (driven : l.control.state.drivePowered = true)
    (short : l.control.state = .deploying → l.sense.payout < l.applied.deployLength) :
    l.close fitted = if l.applied.stallWindow ≤ l.control.stallCounter + 1 then l.faultedBy .stall .stall else l.stalling := by
  have starting : l.control.state ≠ .starting := fun h => by rw [h] at driven; cases driven
  rw [Line.close, Line.closeStarting_other fitted starting,
    Line.closeDeploy_other fun h => absurd h.2 (not_le.2 (short h.1)), Line.closeStall_driven driven]

theorem Line.close_counting {l : Line} (fitted : Bool) (driven : l.control.state.drivePowered = true)
    (short : l.control.state = .deploying → l.sense.payout < l.applied.deployLength)
    (below : l.control.stallCounter + 1 < l.applied.stallWindow) : l.close fitted = l.stalling :=
  (Line.close_driven fitted driven short).trans (if_neg (not_le.2 below))

theorem Line.close_stalled {l : Line} (fitted : Bool) (driven : l.control.state.drivePowered = true)
    (short : l.control.state = .deploying → l.sense.payout < l.applied.deployLength)
    (full : l.applied.stallWindow ≤ l.control.stallCounter + 1) : l.close fitted = l.faultedBy .stall .stall :=
  (Line.close_driven fitted driven short).trans (if_pos full)

/-- A DEPLOYING line at its deploy length rests OPENED (R44). -/
theorem Line.close_deployed {l : Line} (fitted : Bool) (deploying : l.control.state = .deploying)
    (long : (l.applied.deployLength : Int) ≤ l.sense.payout) : l.close fitted = l.idleIn .opened := by
  have deployed : l.closeDeploy = l.idleIn .opened := (if_pos ⟨deploying, long⟩).trans (enter_opened l)
  rw [Line.close, Line.closeStarting_other fitted (deploying.trans_ne nofun), deployed]
  exact Line.closeStall_still rfl

/-- A line's count of its STARTING samples advances (R40). -/
def Line.starting (l : Line) : Line :=
  { l with control := { l.control with startingCount := l.control.startingCount + 1 } }

/-- The close counts the first seven samples of STARTING (R40). -/
theorem Line.close_starting {l : Line} (fitted : Bool) (starting : l.control.state = .starting)
    (early : l.control.startingCount < 7) : l.close fitted = l.starting := by
  have counted : l.closeStarting fitted = l.starting := (if_pos starting).trans (if_neg (by dsimp only; omega))
  have state : l.starting.control.state = .starting := starting
  rw [Line.close, counted, Line.closeDeploy_other fun h => nomatch state.symm.trans h.1]
  exact Line.closeStall_still (by rw [state]; rfl)

/-- A derived line neither starts nor drives (R41). -/
theorem derivedAs_state (fitted : Bool) (l : Line) :
    (l.derivedAs fitted).control.state ≠ .starting ∧ (l.derivedAs fitted).control.state.drivePowered = false := by
  unfold Line.derivedAs
  split_ifs <;> exact ⟨nofun, rfl⟩

/-- The close derives the state at the eighth sample of STARTING (R40, R41). -/
theorem Line.close_derived {l : Line} (fitted : Bool) (starting : l.control.state = .starting)
    (late : 7 ≤ l.control.startingCount) : l.close fitted = l.derivedAs fitted := by
  have derived : l.closeStarting fitted = l.derivedAs fitted := by
    refine ((if_pos starting).trans (if_pos (by dsimp only; omega))).trans ?_
    rw [derive_eq_derivedAs]
    unfold Line.derivedAs
    split_ifs <;> rfl
  obtain ⟨still, undriven⟩ := derivedAs_state fitted l
  have deploying : (l.derivedAs fitted).control.state ≠ .deploying := fun h => by rw [h] at undriven; cases undriven
  rw [Line.close, derived, Line.closeDeploy_other fun h => deploying h.1, Line.closeStall_still undriven]

/-- The close leaves the Tension Evaluator's items alone: no line at the close enters or leaves LOCKED (R32, R39). -/
theorem Line.close_tension (fitted : Bool) (l : Line) : (l.close fitted).tension = l.tension := by
  by_cases starting : l.control.state = .starting
  · by_cases early : l.control.startingCount < 7
    · rw [Line.close_starting fitted starting early]
      rfl
    · rw [Line.close_derived fitted starting (by omega)]
      have unlocked : l.control.state ≠ .locked := starting.trans_ne nofun
      unfold Line.derivedAs Line.faultedBy Line.zeroed Line.idleIn Line.placed
      dsimp only
      split_ifs <;> simp_all
  · cases driven : l.control.state.drivePowered with
    | false => rw [Line.close_still fitted starting driven]
    | true =>
      have unlocked : l.control.state ≠ .locked := fun h => by rw [h] at driven; cases driven
      have faulted : (l.faultedBy .stall .stall).tension = l.tension := if_neg fun h => h.elim unlocked nofun
      by_cases deployed : l.control.state = .deploying ∧ (l.applied.deployLength : Int) ≤ l.sense.payout
      · rw [Line.close_deployed fitted deployed.1 deployed.2]
        exact if_neg fun h => h.elim unlocked nofun
      · rw [Line.close_driven fitted driven fun h => lt_of_not_ge fun long => deployed ⟨h, long⟩]
        split_ifs
        exacts [faulted, rfl]

/-! ### Settled positions -/

theorem Sense.settled_iff (u : Sense) (pins : SwitchPins) :
    u.settled pins = true ↔
      u.hookClosed.accepted = PinLevel.reading pins.hookClosed ∧ u.hookOpen.accepted = PinLevel.reading pins.hookOpen
        ∧ u.stowed.accepted = PinLevel.reading pins.stowed ∧ u.driveFault.accepted = PinLevel.reading pins.driveFault
        ∧ u.hook = hookPosition u.hookClosed.accepted u.hookOpen.accepted := by
  simp [Sense.settled, and_assoc]

theorem PinLevel.reading_known (p : PinLevel) : PinLevel.reading p ≠ .unknown := by
  cases p <;> nofun

/-- A switch that reads as it is accepted stands (R5). -/
theorem Switch.sample_accepted (eighth : Bool) {p : PinLevel} {w : Switch} (h : w.accepted = PinLevel.reading p) :
    (w.sample eighth (PinLevel.reading p)).accepted = w.accepted := by
  have known : w.accepted ≠ .unknown := h.trans_ne (PinLevel.reading_known p)
  rw [← h, Switch.sample_same eighth known]

/-- Where no switch reading differs from its accepted position, all of them stand (R5, R7). -/
theorem Sense.sampleSwitches_settled {u : Sense} {pins : SwitchPins} (h : u.settled pins = true) :
    (u.sampleSwitches pins).hook = u.hook ∧ (u.sampleSwitches pins).stowed.accepted = u.stowed.accepted
      ∧ (u.sampleSwitches pins).driveFault.accepted = u.driveFault.accepted := by
  obtain ⟨closed, opened, stowed, fault, hook⟩ := (Sense.settled_iff u pins).1 h
  refine ⟨?_, Switch.sample_accepted _ stowed, Switch.sample_accepted _ fault⟩
  change hookPosition _ _ = _
  rw [Switch.sample_accepted _ closed, Switch.sample_accepted _ opened, hook]

/-- A line whose switch inputs alone have taken a sample (R5). -/
def Line.switched (pins : SwitchPins) (l : Line) : Line := { l with sense := l.sense.sampleSwitches pins }

/-- A line whose invalid-sample counter alone has taken a sample (R3). -/
def Line.loadCounted (valid : Bool) (l : Line) : Line := { l with sense := l.sense.sampleLoad valid }

/-- A line whose hook timer, switch inputs and invalid-sample counter alone have taken a sample. -/
def Line.plain (pins : SwitchPins) (valid : Bool) (l : Line) : Line :=
  (l.advanceHookTimer.switched pins).loadCounted valid

/-- No report is made of switch readings that change no accepted position. -/
theorem Line.sensed_unchanged {l : Line} {pins : SwitchPins} (b : BerthAction)
    (hook : (l.sense.sampleSwitches pins).hook = l.sense.hook)
    (stowed : (l.sense.sampleSwitches pins).stowed.accepted = .active → l.sense.stowed.accepted = .active)
    (fault : (l.sense.sampleSwitches pins).driveFault.accepted = .active → l.sense.driveFault.accepted = .active) :
    l.sensed b pins = l.switched pins := by
  have noStowed : ¬((l.sense.sampleSwitches pins).stowed.accepted = .active ∧ l.sense.stowed.accepted ≠ .active) :=
    fun h => h.2 (stowed h.1)
  have noFault : ¬((l.sense.sampleSwitches pins).driveFault.accepted = .active ∧ l.sense.driveFault.accepted ≠ .active) :=
    fun h => h.2 (fault h.1)
  unfold Line.sensed
  dsimp only
  rw [if_pos hook, if_neg noFault, if_neg noStowed]
  rfl

theorem Line.sensed_settled {l : Line} {pins : SwitchPins} (b : BerthAction) (h : l.sense.settled pins = true) :
    l.sensed b pins = l.switched pins := by
  obtain ⟨hook, stowed, fault⟩ := Sense.sampleSwitches_settled h
  exact Line.sensed_unchanged b hook (fun a => stowed ▸ a) fun a => fault ▸ a

theorem Line.loadTested_valid (l : Line) : l.loadTested true = l.loadCounted true := by
  have none : (l.loadCounted true).sense.invalidCount ≠ 8 := fun h => nomatch h
  unfold Line.loadTested
  exact if_neg none

theorem Line.loadTested_counting {l : Line} (h : l.sense.invalidCount < 7) : l.loadTested false = l.loadCounted false :=
  if_neg fun full : min (l.sense.invalidCount + 1) 8 = 8 => by omega

theorem Line.loadTested_eighth {l : Line} (h : 7 ≤ l.sense.invalidCount) :
    l.loadTested false = (l.loadCounted false).sensorFaultReport :=
  if_pos (show min (l.sense.invalidCount + 1) 8 = 8 by omega)

section
variable {l : Line} {b : BerthAction} {zeroOffset : Nat} {sample : BitVec 12} {pins : SwitchPins}

/-- A valid sample at settled positions. -/
theorem Line.sampled_plain (settled : l.sense.settled pins = true) (valid : sampleValid sample = true) :
    l.sampled b zeroOffset sample pins
      = (((l.plain pins true).evaluated b.stopped (loadOf sample zeroOffset)).guarded).close true := by
  unfold Line.sampled Line.sampledOn Line.unclosed
  dsimp only
  rw [if_pos valid, valid, Line.sensed_settled (l := l.advanceHookTimer) b settled, Line.loadTested_valid]
  rfl

/-- An invalid sample below the eighth, at settled positions. -/
theorem Line.sampled_invalid (settled : l.sense.settled pins = true) (invalid : sampleValid sample = false)
    (counting : l.sense.invalidCount < 7) : l.sampled b zeroOffset sample pins = (l.plain pins false).close true := by
  unfold Line.sampled Line.sampledOn Line.unclosed
  dsimp only
  rw [if_neg (by rw [invalid]; nofun), invalid, Line.sensed_settled (l := l.advanceHookTimer) b settled,
    Line.loadTested_counting (l := l.advanceHookTimer.switched pins) counting]
  rfl

/-- The eighth invalid sample of a run and each further one, at settled positions (R60). -/
theorem Line.sampled_sensorFault (settled : l.sense.settled pins = true) (invalid : sampleValid sample = false)
    (eighth : 7 ≤ l.sense.invalidCount) :
    l.sampled b zeroOffset sample pins = (l.plain pins false).sensorFaultReport.close true := by
  unfold Line.sampled Line.sampledOn Line.unclosed
  dsimp only
  rw [if_neg (by rw [invalid]; nofun), invalid, Line.sensed_settled (l := l.advanceHookTimer) b settled,
    Line.loadTested_eighth (l := l.advanceHookTimer.switched pins) eighth]
  rfl

end

/-- A fault that rests its line outlasts the close (R57). -/
theorem Line.close_faultedBy (fitted : Bool) (l : Line) (c : FaultCause) (f : Flag) :
    (l.faultedBy c f).close fitted = l.faultedBy c f :=
  Line.close_still fitted nofun rfl

theorem sensorFaultReport_eq {l : Line} (h : l.control.state ∉ [LineState.starting, .notFitted]) :
    l.sensorFaultReport = l.fault .sensor := by
  unfold Line.sensorFaultReport
  generalize l.control.state = x at h ⊢
  cases x with
  | starting | notFitted => exact absurd (by decide) h
  | _ => rfl

end Sys2Proof.Machine

namespace Sys2Proof

open Machine

/-- Settles O9: `Line.sampled_figures`, and at settled positions the line of `Line.sampled_invalid` and
`Line.sampled_sensorFault`. -/
theorem invalidSampleEffects : Obligations.InvalidSampleEffects := by
  unfold Obligations.InvalidSampleEffects
  intro n sample pins s l running fitted stands
  refine ⟨_, whileRunning_running _ running, ?_⟩
  rw [sampleEvent_sampled fitted stands]
  rw [show s.line n = l from rfl]
  clear_value l
  have figures := Line.sampled_figures s.berth (s.setup n).zeroOffset sample pins l
  refine ⟨fun invalid => ?held, fun valid => ?cleared, fun invalid counting settled => ?below,
    fun invalid eighth settled => ?faults⟩
  case held =>
    have held := figures.2 ((sampleValid_eq_false sample).2 invalid)
    rw [Line.measures_eq_iff] at held
    obtain ⟨filtered, reported, count, warn, trip⟩ := held
    exact ⟨filtered, reported, warn, trip, count⟩
  case cleared =>
    obtain ⟨-, -, count⟩ := figures.1 ((sampleValid_iff sample).2 valid)
    exact count
  case below =>
    rw [Line.sampled_invalid settled ((sampleValid_eq_false sample).2 invalid) counting]
    refine ⟨Line.close_tension true _, fun slacking short => ?_⟩
    have driven : (l.plain pins false).control.state.drivePowered = true := by
      rw [show (l.plain pins false).control.state = .slacking from slacking]
      rfl
    rw [Line.close_counting true driven (fun h => nomatch slacking.symm.trans h) short]
    exact ⟨slacking, rfl⟩
  case faults =>
    rw [Line.sampled_sensorFault settled ((sampleValid_eq_false sample).2 invalid) eighth]
    refine ⟨fun state => ?_, fun slipping => ?_, fun faulted => ?_⟩
    · simp only [List.mem_cons, List.not_mem_nil, or_false, not_or] at state
      obtain ⟨starting, notFitted, slipping, faulted⟩ := state
      rw [sensorFaultReport_eq (l := l.plain pins false) (by simpa using ⟨starting, notFitted⟩),
        fault_eq_faultedBy (a := l.plain pins false) .sensor faulted slipping, Line.close_faultedBy]
      rfl
    · rw [sensorFaultReport_eq (l := l.plain pins false) (by rw [show (l.plain pins false).control.state = _ from slipping]; decide),
        fault_slipping (a := l.plain pins false) .sensor slipping, Line.close_faultedBy]
      rfl
    · rw [sensorFaultReport_eq (l := l.plain pins false) (by rw [show (l.plain pins false).control.state = _ from faulted]; decide),
        fault_faulted (a := l.plain pins false) .sensor faulted]
      have still : ((l.plain pins false).latch FaultCause.sensor.flag).control.state = .faulted := faulted
      rw [Line.close_still true (still.trans_ne nofun) (by rw [still]; rfl)]
      exact ⟨faulted, rfl, rfl⟩

end Sys2Proof

/-! PROOFS. The samples of STARTING and of a line that is not fitted (R6, R17, R40, R41): settles O11. -/

namespace Sys2Proof.Machine

/-- What no stage of a sample moves of a line in STARTING but the close: its state, count, lock mark and demands. -/
def Line.posture (l : Line) : LineState × Nat × Option Int × Int × Brake × HookDemand :=
  (l.control.state, l.control.startingCount, l.control.lockMark, l.control.drive, l.control.brake, l.control.hookDemand)

theorem Line.posture_eq_iff (a b : Line) :
    a.posture = b.posture ↔
      a.control.state = b.control.state ∧ a.control.startingCount = b.control.startingCount
        ∧ a.control.lockMark = b.control.lockMark ∧ a.control.drive = b.control.drive
        ∧ a.control.brake = b.control.brake ∧ a.control.hookDemand = b.control.hookDemand := by
  simp [Line.posture]

theorem Line.state_of_posture {a b : Line} (h : a.posture = b.posture) : a.control.state = b.control.state :=
  congrArg Prod.fst h

section
variable {l : Line} (starting : l.control.state = .starting)
include starting

theorem Line.profiled_posture (p : Profile) : (l.profiled p).posture = l.posture := by
  have joined (q : Profile) : (l.useJoined q).posture = l.posture := by
    have still : ¬l.control.state.drivePowered = true := by rw [starting]; nofun
    unfold Line.useJoined
    dsimp only
    rw [if_neg still]
    rfl
  have applied : (l.applyProfile p).posture = l.posture := by
    have rendering : l.control.state ≠ .rendering := starting.trans_ne nofun
    have recovering : l.control.state ≠ .recovering := starting.trans_ne nofun
    have still : ¬l.control.state.drivePowered = true := by rw [starting]; nofun
    unfold Line.applyProfile
    dsimp only
    rw [if_neg fun h => rendering h.1, if_neg fun h => recovering h.1, if_neg still]
    rfl
  unfold Line.profiled
  split
  · exact applied
  · split
    · exact joined _
    · rfl

theorem Line.sensed_posture (b : BerthAction) (pins : SwitchPins) : (l.sensed b pins).posture = l.posture := by
  have hook (old new : HookPos) : (l.switched pins).hookReport b old new = l.switched pins := by
    unfold Line.hookReport
    rw [show (l.switched pins).control.state = .starting from starting]
  have stowed : (l.switched pins).stowedReport = l.switched pins :=
    if_neg (starting.trans_ne nofun : l.control.state ≠ .rewinding)
  have fault : (l.switched pins).driveFaultReport = (l.switched pins).latch .drive := by
    unfold Line.driveFaultReport
    rw [show (l.switched pins).control.state = .starting from starting]
  have same : (l.switched pins).posture = l.posture := rfl
  have latched : ((l.switched pins).latch .drive).posture = l.posture := rfl
  unfold Line.sensed
  dsimp only
  rw [show Line.mk _ _ _ _ _ _ _ = l.switched pins from rfl, hook, ite_self, stowed, ite_self, fault]
  split
  · exact latched
  · exact same

theorem Line.loadTested_posture (valid : Bool) : (l.loadTested valid).posture = l.posture := by
  have report : (l.loadCounted valid).sensorFaultReport = l.loadCounted valid := by
    unfold Line.sensorFaultReport
    rw [show (l.loadCounted valid).control.state = .starting from starting]
  have same : (l.loadCounted valid).posture = l.posture := rfl
  change Line.posture (if _ then (l.loadCounted valid).sensorFaultReport else l.loadCounted valid) = _
  rw [report, ite_self, same]

theorem Line.evaluated_posture (stopped : Bool) (load : Nat) : (l.evaluated stopped load).posture = l.posture := by
  have unlocked : l.control.state ≠ .locked := starting.trans_ne nofun
  unfold Line.evaluated
  dsimp only
  rw [if_neg unlocked]
  dsimp only
  unfold Line.tensionReport
  dsimp only
  rw [starting]
  rfl

theorem Line.inhibited_posture : l.inhibited.posture = l.posture := by
  have onset : (l.setInhibit true).inhibitOnset = l.setInhibit true := by
    unfold Line.inhibitOnset
    rw [show (l.setInhibit true).control.state = .starting from starting]
  unfold Line.inhibited
  rw [onset]
  split <;> rfl

theorem Line.tripReport_starting : l.tripReport = l.latch .trip := by
  unfold Line.tripReport
  dsimp only
  rw [starting]

theorem Line.guarded_posture : l.guarded.posture = l.posture := by
  have trip (w : Nat) : (l.setWatches 0 w).tripReport = (l.setWatches 0 w).latch .trip :=
    Line.tripReport_starting (l := l.setWatches 0 w) starting
  have tripped (w : Nat) : ((l.setWatches 0 w).latch .trip).inhibited.posture = l.posture :=
    Line.inhibited_posture (l := (l.setWatches 0 w).latch .trip) starting
  have warned : (l.setWatches 0 0).warnReport.inhibited.posture = l.posture :=
    Line.inhibited_posture (l := (l.setWatches 0 0).warnReport) starting
  unfold Line.guarded
  dsimp only
  simp only [trip]
  split_ifs
  exacts [rfl, rfl, tripped _, warned, rfl]

theorem Line.unclosed_posture (b : BerthAction) (zeroOffset : Nat) (sample : BitVec 12) (pins : SwitchPins) :
    (l.unclosed b zeroOffset sample pins).posture = l.posture := by
  have sensed := Line.sensed_posture starting b pins
  have tested := (Line.loadTested_posture ((Line.state_of_posture sensed).trans starting) (sampleValid sample)).trans sensed
  unfold Line.unclosed
  dsimp only
  generalize (l.sensed b pins).loadTested (sampleValid sample) = u at tested
  split
  · have evaluated :=
      (Line.evaluated_posture ((Line.state_of_posture tested).trans starting) b.stopped (loadOf sample zeroOffset)).trans tested
    exact (Line.guarded_posture ((Line.state_of_posture evaluated).trans starting)).trans evaluated
  · exact tested

end

/-- The line of a sample event in STARTING, before its close. -/
theorem sampleEvent_starting {s : State} {n : LineNo} (fitted : s.fitted n = true)
    (starting : (s.line n).control.state = .starting) (sample : BitVec 12) (pins : SwitchPins) :
    ∃ u : Line, u.posture = (s.line n).posture ∧ (s.sampleEvent n sample pins).line n = u.close true := by
  refine ⟨_, ?_, sampleEvent_profiled fitted sample pins⟩
  have state : (s.line n).advanceHookTimer.control.state = .starting := starting
  have profiled := Line.profiled_posture state (s.profile (s.setup n).group)
  exact (Line.unclosed_posture ((Line.state_of_posture profiled).trans state) _ _ _ _).trans profiled

/-- The position that an unknown input takes at the eighth sample (R6). -/
theorem sampleSwitches_established {u : Sense} (pins : SwitchPins) (eighth : u.samples = 7)
    (closed : u.hookClosed.accepted = .unknown) (opened : u.hookOpen.accepted = .unknown)
    (stowed : u.stowed.accepted = .unknown) (fault : u.driveFault.accepted = .unknown) :
    (u.sampleSwitches pins).driveFault.accepted = PinLevel.reading pins.driveFault
      ∧ (u.sampleSwitches pins).stowed.accepted = PinLevel.reading pins.stowed
      ∧ (u.sampleSwitches pins).hook
        = hookPosition (PinLevel.reading pins.hookClosed) (PinLevel.reading pins.hookOpen) := by
  unfold Sense.sampleSwitches
  dsimp only
  rw [Switch.sample_unknown _ _ closed, Switch.sample_unknown _ _ opened, Switch.sample_unknown _ _ stowed,
    Switch.sample_unknown _ _ fault, eighth]
  exact ⟨rfl, rfl, rfl⟩

/-- The state that derivation finds from the readings of four pins (R41). -/
def derivedState : SwitchPins → LineState
  | { driveFault := .low, .. } => .faulted
  | { stowed := .low, hookClosed := .high, hookOpen := .low, .. } => .stowed
  | { stowed := .high, hookClosed := .high, hookOpen := .low, .. } => .opened
  | { stowed := .high, hookClosed := .low, hookOpen := .high, .. } => .held
  | _ => .faulted

/-- Derivation from positions that are the readings of four pins (R41). -/
theorem derivedAs_readings {l : Line} {pins : SwitchPins}
    (fault : l.sense.driveFault.accepted = PinLevel.reading pins.driveFault)
    (stowed : l.sense.stowed.accepted = PinLevel.reading pins.stowed)
    (hook : l.sense.hook = hookPosition (PinLevel.reading pins.hookClosed) (PinLevel.reading pins.hookOpen)) :
    (l.derivedAs true).control.state = derivedState pins := by
  unfold Line.derivedAs
  rw [fault, stowed, hook]
  obtain ⟨hookClosed, hookOpen, stowedPin, faultPin⟩ := pins
  cases faultPin with
  | low => rfl
  | high => cases hookClosed <;> cases hookOpen <;> cases stowedPin <;> rfl

/-- Derivation keeps the lock mark (R41), and references a line that it finds STOWED (R13). -/
theorem derivedAs_kept (l : Line) :
    (l.derivedAs true).control.lockMark = l.control.lockMark
      ∧ ((l.derivedAs true).control.state = .stowed →
        (l.derivedAs true).sense.payout = 0 ∧ (l.derivedAs true).sense.referenced = true)
      ∧ (l.sense.driveFault.accepted = .active →
        (l.derivedAs true).control.cause = some .drive ∧ (l.derivedAs true).has .drive = true) := by
  unfold Line.derivedAs
  rw [if_neg (by nofun)]
  split_ifs with fault stowed
  · exact ⟨rfl, nofun, fun _ => ⟨rfl, by rw [faultedBy_has]; simp⟩⟩
  · exact ⟨rfl, fun _ => ⟨rfl, rfl⟩, fun h => absurd h fault⟩
  all_goals exact ⟨rfl, nofun, fun h => absurd h fault⟩

/-- The close of a line that is not fitted, in STARTING or NOT_FITTED, touches its control alone (R17, R40). -/
theorem close_unfitted {l : Line} (h : l.control.state = .starting ∨ l.control.state = .notFitted) :
    (l.close false).sense = l.sense ∧ (l.close false).tension = l.tension ∧ (l.close false).protection = l.protection := by
  refine ⟨?_, Line.close_tension false l, ?_⟩
  all_goals
    rcases h with starting | notFitted
    · by_cases early : l.control.startingCount < 7
      · rw [Line.close_starting false starting early]
        rfl
      · rw [Line.close_derived false starting (by omega)]
        rfl
    · rw [Line.close_still false (notFitted.trans_ne nofun) (by rw [notFitted]; rfl)]

end Sys2Proof.Machine

namespace Sys2Proof

open Machine

/-- Settles O11: of a STARTING line the close alone moves the state (`sampleEvent_starting`), and it derives it from the
positions that the same sample has established. -/
theorem startingAndUnfittedSamples : Obligations.StartingAndUnfittedSamples := by
  unfold Obligations.StartingAndUnfittedSamples
  intro n sample pins s l running
  refine ⟨fun unfitted state => ⟨_, whileRunning_running _ running, ?unfitted⟩,
    fun fitted starting early => ⟨_, whileRunning_running _ running, ?early⟩,
    fun fitted starting last eighth closed opened stowed fault => ⟨_, whileRunning_running _ running, ?derived⟩⟩
  case unfitted =>
    rw [sampleEvent_line_unfitted n sample pins s unfitted]
    obtain ⟨sense, tension, protection⟩ := close_unfitted (l := l.advanceHookTimer) state
    refine ⟨sense, tension, protection, fun starting early => ?_, fun starting late => ?_, fun notFitted => ?_⟩
    · rw [Line.close_starting (l := l.advanceHookTimer) false starting early]
      exact ⟨starting, rfl⟩
    · rw [Line.close_derived (l := l.advanceHookTimer) false starting late]
      rfl
    · rw [Line.close_still (l := l.advanceHookTimer) false (notFitted.trans_ne nofun)
        (by rw [show l.advanceHookTimer.control.state = _ from notFitted]; rfl)]
      exact notFitted
  case early =>
    obtain ⟨u, posture, line⟩ := sampleEvent_starting fitted starting sample pins
    obtain ⟨state, count, mark, drive, brake, hook⟩ := (Line.posture_eq_iff _ _).1 posture
    rw [line, Line.close_starting true (state.trans starting) (by rw [count]; exact early)]
    exact ⟨state.trans starting, congrArg (· + 1) count, mark, drive, brake, hook⟩
  case derived =>
    obtain ⟨u, posture, line⟩ := sampleEvent_starting fitted starting sample pins
    obtain ⟨state, count, mark, -, -, -⟩ := (Line.posture_eq_iff _ _).1 posture
    have switches := sampleEvent_switches n sample pins s fitted
    rw [line, Line.close_switches, Line.switches_eq_iff] at switches
    obtain ⟨-, -, stowed', fault', hook', -⟩ := switches
    obtain ⟨readFault, readStowed, readHook⟩ := sampleSwitches_established pins eighth closed opened stowed fault
    have atFault : u.sense.driveFault.accepted = PinLevel.reading pins.driveFault :=
      (congrArg Switch.accepted fault').trans readFault
    rw [line, Line.close_derived true (state.trans starting) (by rw [count]; exact last.ge)]
    obtain ⟨kept, referenced, drive⟩ := derivedAs_kept u
    refine ⟨?_, fun low => drive (by rw [atFault, low]; rfl), referenced, kept.trans mark⟩
    refine (derivedAs_readings atFault ((congrArg Switch.accepted stowed').trans readStowed) (hook'.trans readHook)).trans ?_
    rfl

end Sys2Proof

/-! PROOFS. The frame of a sample event and the notices it marks (R19, R65, R92, R141): settles O12. -/

namespace Sys2Proof.Machine

/-- A change that marks a notice is made in one of its two halves (R65). -/
theorem Line.noticeDue_split {a c : Line} (b : Line) (h : a.noticeDue c) : a.noticeDue b ∨ b.noticeDue c := by
  by_contra none
  simp only [Line.noticeDue, not_or, ne_eq, not_not, not_exists, not_and, Bool.not_eq_false] at none
  obtain ⟨⟨state, cause, mark, flags⟩, state', cause', mark', flags'⟩ := none
  rcases h with h | h | h | ⟨f, set, clear⟩
  · exact h (state.trans state')
  · exact h (cause.trans cause')
  · exact h (mark.trans mark')
  · have middle : b.has f ≠ true := fun h => by rw [flags f h] at clear; cases clear
    exact middle (flags' f set)

/-- What one stage of a sample event of line `n` does beside the line itself: the other lines but for their inhibits and
their notices stand, the line's notice is marked where its change marks one, and where no entry is marked and watching the
authority records stand with their notices. -/
structure SampleFrame (n : LineNo) (s t : State) : Prop where
  stage : StageOnly n s t
  others : ∀ x m, m ≠ n → (t.link x).lineMarks[m] = (s.link x).lineMarks[m]
  kept : ∀ x : Station, (s.link x).lineMarks[n] = true → (t.link x).lineMarks[n] = true
  noticed : ∀ x, s.present x = true → (s.line n).noticeDue (t.line n) → (t.link x).lineMarks[n] = true
  absent : ∀ x, s.present x = false → (t.link x).lineMarks[n] = (s.link x).lineMarks[n]
  authority : s.quiet → t.records = s.records ∧ ∀ x, (t.link x).groupMarks = (s.link x).groupMarks

theorem StageOnly.present {n : LineNo} {s t : State} (h : StageOnly n s t) (x : Station) : t.present x = s.present x := by
  unfold State.present
  rw [h.links x]

theorem SampleFrame.trans {n : LineNo} {s t u : State} (h : SampleFrame n s t) (h' : SampleFrame n t u) :
    SampleFrame n s u := by
  refine ⟨h.stage.trans h'.stage, fun x m other => (h'.others x m other).trans (h.others x m other),
    fun x marked => h'.kept x (h.kept x marked), fun x present due => ?_, fun x absent => ?_, fun quiet => ?_⟩
  · rcases Line.noticeDue_split (t.line n) due with due | due
    · exact h'.kept x (h.noticed x present due)
    · exact h'.noticed x ((h.stage.present x).trans present) due
  · exact (h'.absent x ((h.stage.present x).trans absent)).trans (h.absent x absent)
  · obtain ⟨records, marks⟩ := h.authority quiet
    obtain ⟨records', marks'⟩ := h'.authority (State.quiet_of_records records quiet)
    exact ⟨records'.trans records, fun x => (marks' x).trans (marks x)⟩

/-- A stage that moves no station and no authority record. -/
theorem SampleFrame.of_links {n : LineNo} {s t : State} (stage : StageOnly n s t) (links : ∀ x, t.link x = s.link x)
    (records : t.records = s.records) (unnoticed : ¬(s.line n).noticeDue (t.line n)) : SampleFrame n s t :=
  ⟨stage, fun x _ _ => by rw [links x], fun x marked => by rw [links x]; exact marked,
    fun _ _ due => absurd due unnoticed, fun x _ => by rw [links x], fun _ => ⟨records, fun x => by rw [links x]⟩⟩

theorem SampleFrame.refl (n : LineNo) (s : State) : SampleFrame n s s :=
  .of_links (.refl n s) (fun _ => rfl) rfl (noticeDue_self _)

theorem SampleFrame.ite {n : LineNo} {c : Prop} [Decidable c] {s t u : State} (ht : c → SampleFrame n s t)
    (hu : ¬c → SampleFrame n s u) : SampleFrame n s (if c then t else u) := by
  split
  next h => exact ht h
  next h => exact hu h

/-- An update in place that marks no notice. -/
theorem putLine_sampleFrame {n : LineNo} {l : Line} {s : State} (h : ¬(s.line n).noticeDue l) :
    SampleFrame n s (s.putLine n l) :=
  .of_links (putLine_stageOnly n l s) (fun _ => rfl) rfl (by rw [State.line_putLine_self]; exact h)

/-- A change of a line's record marks its notice where R65 says so. -/
theorem onLine_sampleFrame (n : LineNo) (f : Line → Line) (s : State) : SampleFrame n s (s.onLine n f) := by
  have marks := onLine_lineMarks n f s
  refine ⟨onLine_stageOnly n f s, fun x m other => ?_, fun x marked => (marks x n).2 (.inl marked),
    fun x present due => (marks x n).2 (.inr ⟨present, rfl, ?_⟩), fun x absent => ?_, fun quiet => ?_⟩
  · rw [Bool.eq_iff_iff, marks x m]
    exact ⟨fun h => h.resolve_right fun h => other h.2.1, .inl⟩
  · rwa [onLine_line_self] at due
  · rw [Bool.eq_iff_iff, marks x n]
    exact ⟨fun h => h.resolve_right fun h => Bool.false_ne_true (absent.symm.trans h.1), .inl⟩
  · obtain ⟨records, -, groups⟩ := onLine_sameAuthority n f s quiet
    exact ⟨records, groups⟩

theorem reevaluateInhibits_sampleFrame (own : Option LineNo) (n : LineNo) (s : State) :
    SampleFrame n s (s.reevaluateInhibits own) := by
  obtain ⟨only, -⟩ := reevaluateInhibits_spec own s
  generalize s.reevaluateInhibits own = t at only
  refine .of_links (only.stageOnly n) (fun x => by unfold State.link; rw [only.links]) only.records ?_
  rw [only.line n]
  exact noticeDue_self (s.line n)

theorem afterLatch_sampleFrame (n : LineNo) (s : State) : SampleFrame n s (s.afterLatch n) := by
  have reevaluated := reevaluateInhibits_sampleFrame (some n) n s
  unfold State.afterLatch
  dsimp only
  split
  · exact reevaluated.trans (onLine_sampleFrame n _ _)
  · exact reevaluated

theorem protectionStage_sampleFrame (n : LineNo) (s : State) : SampleFrame n s (s.protectionStage n) := by
  have watches (warn trip : Nat) : SampleFrame n s (s.putLine n ((s.line n).setWatches warn trip)) :=
    putLine_sampleFrame (noticeDue_self (s.line n))
  have reported (warn trip : Nat) (f : Line → Line) :
      SampleFrame n s ((s.putLine n ((s.line n).setWatches warn trip)).onLine n f) :=
    (watches warn trip).trans (onLine_sampleFrame n f _)
  unfold State.protectionStage
  dsimp only
  split_ifs
  · exact watches _ _
  · exact reported _ _ _
  · exact (reported _ _ _).trans (afterLatch_sampleFrame n _)
  · exact (reported _ _ _).trans (afterLatch_sampleFrame n _)
  · exact watches _ _

theorem tensionStage_sampleFrame (n : LineNo) (sample : BitVec 12) (s : State) :
    SampleFrame n s (s.tensionStage n sample) := by
  have tension (e : Tension) : SampleFrame n s (s.putLine n { s.line n with tension := e }) :=
    putLine_sampleFrame (noticeDue_self (s.line n))
  unfold State.tensionStage
  split
  · exact ((tension _).trans (onLine_sampleFrame n _ _)).trans (protectionStage_sampleFrame n _)
  · exact .refl n s

theorem putSense_sampleFrame (n : LineNo) (u : Sense) (s : State) :
    SampleFrame n s (s.putLine n { s.line n with sense := u }) := putLine_sampleFrame (noticeDue_self (s.line n))

theorem sensorStage_sampleFrame (n : LineNo) (sample : BitVec 12) (s : State) :
    SampleFrame n s (s.sensorStage n sample) :=
  .ite (fun _ => (putSense_sampleFrame n _ s).trans (onLine_sampleFrame n _ _)) fun _ => putSense_sampleFrame n _ s

theorem profileStage_sampleFrame (n : LineNo) (s : State) : SampleFrame n s (s.profileStage n) := by
  unfold State.profileStage
  split
  · exact onLine_sampleFrame n _ s
  · split
    · exact onLine_sampleFrame n _ s
    · exact .refl n s

theorem appendQueue_sampleFrame (n : LineNo) (ns : List LineNo) (s : State) : SampleFrame n s (s.appendQueue ns) := by
  refine .of_links (appendQueue_stageOnly n ns s) (appendQueue_link ns s) ?_ ?_
  · rw [appendQueue_spec]
  · rw [appendQueue_line]
    exact noticeDue_self _

theorem hookChange_sampleFrame (n : LineNo) (old new : HookPos) (s : State) :
    SampleFrame n s (s.hookChange n old new) :=
  .ite (fun _ => (onLine_sampleFrame n _ s).trans (appendQueue_sampleFrame n _ _)) fun _ => onLine_sampleFrame n _ s

theorem switchStage_sampleFrame (n : LineNo) (pins : SwitchPins) (s : State) :
    SampleFrame n s (s.switchStage n pins) := by
  unfold State.switchStage
  extract_lets old new _ s1 s2 s3
  have first : SampleFrame n s s1 := putSense_sampleFrame n new s
  have second : SampleFrame n s s2 := .ite (fun _ => first) fun _ => first.trans (hookChange_sampleFrame n _ _ _)
  have third : SampleFrame n s s3 := .ite (fun _ => second.trans (onLine_sampleFrame n _ _)) fun _ => second
  exact .ite (fun _ => third.trans (onLine_sampleFrame n _ _)) fun _ => third

theorem sampleEvent_sampleFrame (n : LineNo) (sample : BitVec 12) (pins : SwitchPins) (s : State) :
    SampleFrame n s (s.sampleEvent n sample pins) := by
  have timed : SampleFrame n s (s.putLine n (s.line n).advanceHookTimer) :=
    putLine_sampleFrame (noticeDue_self (s.line n))
  refine SampleFrame.trans (.ite (fun _ => ?_) fun _ => timed) (onLine_sampleFrame n _ _)
  exact (((timed.trans (profileStage_sampleFrame n _)).trans (switchStage_sampleFrame n pins _)).trans
    (sensorStage_sampleFrame n sample _)).trans (tensionStage_sampleFrame n sample _)

/-! ### The Berth Action Unit -/

/-- The switch readings reach the Berth Action Unit at an ENGAGING completion alone (R141). -/
theorem switchStage_berth {n : LineNo} {pins : SwitchPins} {s : State} (h : (s.line n).control.state ≠ .engaging) :
    (s.switchStage n pins).berth = s.berth := by
  unfold State.switchStage
  extract_lets old new _ s1 s2 s3
  have second : s2.berth = s.berth := by
    unfold s2
    split
    · rfl
    · refine hookChange_berth n _ _ s1 (.inl ?_)
      unfold s1
      rw [State.line_putLine_self]
      exact h
  have third : s3.berth = s.berth := by
    unfold s3
    split
    · rw [onLine_berth, second]
    · exact second
  split
  · rw [onLine_berth, third]
  · exact third

/-- No profile takes a line to ENGAGING (R83, R102). -/
theorem Line.profiled_engaging {p : Profile} {l : Line} (h : (l.profiled p).control.state = .engaging) :
    l.control.state = .engaging := by
  have entered (l : Line) : (l.enter .locked {}).control.state ≠ .engaging := by
    rw [enter_locked]
    nofun
  have joined (q : Profile) : (l.useJoined q).control.state = l.control.state := by
    unfold Line.useJoined
    dsimp only
    split <;> rfl
  unfold Line.profiled at h
  split at h
  · unfold Line.applyProfile at h
    dsimp only at h
    split_ifs at h
    exacts [absurd h (entered _), absurd h (entered _), h, h]
  · split at h
    · exact (joined _).symm.trans h
    · exact h

theorem sampleEvent_berth {n : LineNo} {s : State} (h : (s.line n).control.state ≠ .engaging) (sample : BitVec 12)
    (pins : SwitchPins) : (s.sampleEvent n sample pins).berth = s.berth := by
  unfold State.sampleEvent
  extract_lets s0 s1
  rw [onLine_berth]
  unfold s1
  split
  · rw [tensionStage_berth, sensorStage_berth, switchStage_berth, profileStage_berth]
    · rfl
    · rw [profileStage_profiled]
      refine fun engaging => h ?_
      have before := Line.profiled_engaging engaging
      unfold s0 at before
      rwa [State.line_putLine_self] at before
  · rfl

theorem whileRunning_halted {s : State} (f : State → State) (h : s.running = false) : whileRunning f s = .next s := by
  unfold whileRunning
  rw [h]
  rfl

end Sys2Proof.Machine

namespace Sys2Proof

open Machine

/-- Settles O12: `sampleEvent_sampleFrame` and `sampleEvent_berth`. -/
theorem sampleEventFrame : Obligations.SampleEventFrame := by
  unfold Obligations.SampleEventFrame
  intro n sample pins s
  cases running : s.running with
  | false =>
    refine ⟨s, whileRunning_halted _ running, fun _ _ => rfl, ⟨rfl, rfl, rfl, rfl, rfl, rfl⟩, fun _ => rfl,
      fun x m => ⟨fun _ => rfl, id, fun _ due => absurd due (noticeDue_self _), fun _ => rfl⟩,
      fun _ => ⟨rfl, fun _ => rfl⟩, fun _ => rfl, fun _ => rfl⟩
  | true =>
    have frame := sampleEvent_sampleFrame n sample pins s
    have stage := frame.stage
    refine ⟨_, whileRunning_running _ running, fun m other => stage.lines m other,
      ⟨stage.powered, stage.resetAsserted, stage.table, stage.pendingRestart, stage.freeIndex, stage.pending⟩, stage.links,
      fun x m => ?_, fun single => frame.authority (noSingle_quiet single), fun h => sampleEvent_berth h sample pins, nofun⟩
    by_cases same : m = n
    · rw [same]
      exact ⟨fun h => absurd rfl h, frame.kept x, frame.noticed x, frame.absent x⟩
    · have marks := frame.others x m same
      refine ⟨fun _ => marks, fun marked => marks.trans marked, fun _ due => absurd due ?_, fun _ => marks⟩
      rw [stage.lines m same]
      exact noticeDue_self _

end Sys2Proof

/-! PROOFS. The switch reports of an invalid sample below the eighth (R8, R9, R13, R53, R54, R57, R58, R60): settles O16. -/

namespace Sys2Proof.Machine

/-- An invalid sample below the eighth: its switch reports and its close. -/
theorem Line.sampled_reports {l : Line} {sample : BitVec 12} (b : BerthAction) (zeroOffset : Nat) (pins : SwitchPins)
    (invalid : sampleValid sample = false) (counting : l.sense.invalidCount < 7) :
    l.sampled b zeroOffset sample pins = ((l.advanceHookTimer.sensed b pins).loadCounted false).close true := by
  have measures := Line.sensed_measures b pins l.advanceHookTimer
  rw [Line.measures_eq_iff] at measures
  obtain ⟨-, -, count, -, -⟩ := measures
  unfold Line.sampled Line.sampledOn Line.unclosed
  dsimp only
  rw [if_neg (by rw [invalid]; nofun), invalid, Line.loadTested_counting (by rw [count]; exact counting)]

/-- The close after such a sample leaves a line that neither waits in STARTING nor drives. -/
theorem Line.close_counted_still {l : Line} (starting : l.control.state ≠ .starting)
    (still : l.control.state.drivePowered = false) : (l.loadCounted false).close true = l.loadCounted false :=
  Line.close_still (l := l.loadCounted false) true starting still

theorem Line.close_counted_counting {l : Line} (driven : l.control.state.drivePowered = true)
    (short : l.control.state = .deploying → l.sense.payout < l.applied.deployLength)
    (below : l.control.stallCounter + 1 < l.applied.stallWindow) :
    (l.loadCounted false).close true = (l.loadCounted false).stalling :=
  Line.close_counting (l := l.loadCounted false) true driven short below

/-- What the close leaves of a line that goes on. -/
theorem Line.close_stands {l : Line} (fitted : Bool) (early : l.control.state = .starting → l.control.startingCount < 7)
    (short : l.control.state = .deploying → l.sense.payout < l.applied.deployLength)
    (below : l.control.stallCounter + 1 < l.applied.stallWindow) :
    (l.close fitted).control.state = l.control.state ∧ (l.close fitted).control.flags = l.control.flags
      ∧ (l.close fitted).sense = l.sense ∧ (l.close fitted).control.hookTimer = l.control.hookTimer := by
  by_cases starting : l.control.state = .starting
  · rw [Line.close_starting fitted starting (early starting)]
    exact ⟨rfl, rfl, rfl, rfl⟩
  · cases driven : l.control.state.drivePowered with
    | false =>
      rw [Line.close_still fitted starting driven]
      exact ⟨rfl, rfl, rfl, rfl⟩
    | true =>
      rw [Line.close_counting fitted driven short below]
      exact ⟨rfl, rfl, rfl, rfl⟩

/-- A stopped hook timer stands (R55). -/
theorem Line.advanceHookTimer_stopped {l : Line} (h : l.control.hookTimer = none) : l.advanceHookTimer = l := by
  obtain ⟨sense, tension, protection, control, applied, profileDue, joined⟩ := l
  obtain ⟨state, lockMark, record, slackWatch, hookTimer, stallCounter, startingCount, cause, flags, drive, brake,
    hookDemand⟩ := control
  obtain rfl : hookTimer = none := h
  rfl

theorem stowedReport_other {l : Line} (h : l.control.state ≠ .rewinding) : l.stowedReport = l := if_neg h

theorem stowedReport_rewinding {l : Line} (h : l.control.state = .rewinding) : l.stowedReport = (l.idleIn .stowed).zeroed :=
  (if_pos h).trans (stow_eq_zeroed l)

theorem driveFaultReport_eq {l : Line} (starting : l.control.state ≠ .starting) (notFitted : l.control.state ≠ .notFitted) :
    l.driveFaultReport = l.fault .drive := by
  unfold Line.driveFaultReport
  generalize l.control.state = x at starting notFitted ⊢
  cases x with
  | starting => exact absurd rfl starting
  | notFitted => exact absurd rfl notFitted
  | _ => rfl

theorem driveFaultReport_starting {l : Line} (h : l.control.state = .starting) : l.driveFaultReport = l.latch .drive := by
  unfold Line.driveFaultReport
  rw [h]

section
variable {l : Line} {pins : SwitchPins} (b : BerthAction)

/-- The stowed input has become ACTIVE at a sample (R8). -/
def Line.stows (pins : SwitchPins) (l : Line) : Prop :=
  (l.sense.sampleSwitches pins).stowed.accepted = .active ∧ l.sense.stowed.accepted ≠ .active

/-- The drive-fault input has become ACTIVE at a sample (R9). -/
def Line.fails (pins : SwitchPins) (l : Line) : Prop :=
  (l.sense.sampleSwitches pins).driveFault.accepted = .active ∧ l.sense.driveFault.accepted ≠ .active

theorem Line.sensed_quiet (hook : (l.sense.sampleSwitches pins).hook = l.sense.hook)
    (stows : l.control.state = .rewinding → ¬l.stows pins) (fails : ¬l.fails pins) : l.sensed b pins = l.switched pins := by
  unfold Line.sensed
  dsimp only
  rw [if_pos hook]
  refine (if_neg fails).trans ?_
  split
  next arrives => exact stowedReport_other (l := l.switched pins) fun rewinding => stows rewinding arrives
  next => rfl

theorem Line.sensed_stows (hook : (l.sense.sampleSwitches pins).hook = l.sense.hook) (rewinding : l.control.state = .rewinding)
    (stows : l.stows pins) (fails : ¬l.fails pins) : l.sensed b pins = ((l.switched pins).idleIn .stowed).zeroed := by
  unfold Line.sensed
  dsimp only
  rw [if_pos hook]
  exact (if_neg fails).trans ((if_pos stows).trans (stowedReport_rewinding (l := l.switched pins) rewinding))

theorem Line.sensed_fails (hook : (l.sense.sampleSwitches pins).hook = l.sense.hook)
    (stows : l.control.state = .rewinding → ¬l.stows pins) (fails : l.fails pins) :
    l.sensed b pins = (l.switched pins).driveFaultReport := by
  unfold Line.sensed
  dsimp only
  rw [if_pos hook]
  refine (if_pos fails).trans ?_
  split
  next arrives =>
    exact congrArg Line.driveFaultReport
      (stowedReport_other (l := l.switched pins) fun rewinding => stows rewinding arrives)
  next => rfl

/-- A REWINDING line has been referenced before it is faulted (R13, R60). -/
theorem Line.sensed_stows_fails (hook : (l.sense.sampleSwitches pins).hook = l.sense.hook)
    (rewinding : l.control.state = .rewinding) (stows : l.stows pins) (fails : l.fails pins) :
    l.sensed b pins = (((l.switched pins).idleIn .stowed).zeroed).faultedBy .drive .drive := by
  unfold Line.sensed
  dsimp only
  rw [if_pos hook]
  refine (if_pos fails).trans ((congrArg Line.driveFaultReport
    ((if_pos stows).trans (stowedReport_rewinding (l := l.switched pins) rewinding))).trans ?_)
  exact (driveFaultReport_eq (l := ((l.switched pins).idleIn .stowed).zeroed) nofun nofun).trans
    (fault_eq_faultedBy _ nofun nofun)

end

end Sys2Proof.Machine

namespace Sys2Proof

open Machine

/-- Settles O16: the reports of `Line.sensed_stows`, `Line.sensed_fails` and `Line.sensed_stows_fails`, and the close. -/
theorem stowedAndDriveReports : Obligations.StowedAndDriveReports := by
  unfold Obligations.StowedAndDriveReports
  intro n pins s l x sensed arrives fails running fitted stands counting hook
  refine ⟨_, whileRunning_running _ running, ?_⟩
  rw [sampleEvent_sampled fitted stands, Line.sampled_reports s.berth _ pins rfl counting]
  clear_value l
  have atStowed (m : Line) : ((m.idleIn .stowed).zeroed.loadCounted false).close true = (m.idleIn .stowed).zeroed.loadCounted false :=
    Line.close_counted_still nofun rfl
  have atFaulted (m : Line) (c : FaultCause) :
      ((m.faultedBy c .drive).loadCounted false).close true = (m.faultedBy c .drive).loadCounted false :=
    Line.close_counted_still nofun rfl
  refine ⟨fun stows rewinding => ?stows, fun other sound below short early => ?other, fun faulty state => ?faults,
    fun faulty slipping => ?slipping, fun faulty faulted stopped => ?faulted, fun faulty starting early => ?starting⟩
  case stows =>
    by_cases faulty : fails
    · rw [Line.sensed_stows_fails (l := l.advanceHookTimer) s.berth hook rewinding stows faulty, atFaulted]
      exact ⟨rfl, rfl, fun sound => absurd faulty sound⟩
    · rw [Line.sensed_stows (l := l.advanceHookTimer) s.berth hook rewinding stows faulty, atStowed]
      exact ⟨rfl, rfl, fun _ => rfl⟩
  case other =>
    rw [Line.sensed_quiet (l := l.advanceHookTimer) s.berth hook (fun rewinding => absurd rewinding other) sound]
    obtain ⟨state, flags, sense, -⟩ :=
      Line.close_stands (l := (l.advanceHookTimer.switched pins).loadCounted false) true early short below
    exact ⟨state, flags, (congrArg Sense.payout sense :), (congrArg Sense.referenced sense :)⟩
  case faults =>
    simp only [List.mem_cons, List.not_mem_nil, or_false, not_or] at state
    obtain ⟨starting, notFitted, slipping, faulted⟩ := state
    by_cases both : l.control.state = .rewinding ∧ arrives
    · rw [Line.sensed_stows_fails (l := l.advanceHookTimer) s.berth hook both.1 both.2 faulty, atFaulted]
      rfl
    · rw [Line.sensed_fails (l := l.advanceHookTimer) s.berth hook (fun rewinding stows => both ⟨rewinding, stows⟩) faulty,
        driveFaultReport_eq (l := l.advanceHookTimer.switched pins) starting notFitted,
        fault_eq_faultedBy (a := l.advanceHookTimer.switched pins) .drive faulted slipping]
      exact (congrArg Line.control (atFaulted (l.advanceHookTimer.switched pins) .drive) :)
  case slipping =>
    have other : l.control.state ≠ .rewinding := slipping.trans_ne nofun
    rw [Line.sensed_fails (l := l.advanceHookTimer) s.berth hook (fun rewinding => absurd rewinding other) faulty,
      driveFaultReport_eq (l := l.advanceHookTimer.switched pins) (slipping.trans_ne nofun) (slipping.trans_ne nofun),
      fault_slipping (a := l.advanceHookTimer.switched pins) .drive slipping]
    exact (congrArg Line.control (atFaulted (l.advanceHookTimer.switched pins) (l.control.record.returnTo.getD .drive)) :)
  case faulted =>
    have other : l.control.state ≠ .rewinding := faulted.trans_ne nofun
    rw [Line.advanceHookTimer_stopped stopped, Line.sensed_fails s.berth hook (fun rewinding => absurd rewinding other) faulty,
      driveFaultReport_eq (l := l.switched pins) (faulted.trans_ne nofun) (faulted.trans_ne nofun),
      fault_faulted (a := l.switched pins) .drive faulted]
    have still := faulted.trans_ne (b := LineState.faulted) (c := LineState.starting) nofun
    exact congrArg Line.control (Line.close_counted_still (l := (l.switched pins).latch .drive) still
      (congrArg LineState.drivePowered faulted))
  case starting =>
    have other : l.control.state ≠ .rewinding := starting.trans_ne nofun
    rw [Line.sensed_fails (l := l.advanceHookTimer) s.berth hook (fun rewinding => absurd rewinding other) faulty,
      driveFaultReport_starting (l := l.advanceHookTimer.switched pins) starting,
      Line.close_starting (l := ((l.advanceHookTimer.switched pins).latch .drive).loadCounted false) true starting early]
    exact ⟨starting, rfl⟩

end Sys2Proof

/-! PROOFS. What a change of the accepted hook position does to the Berth Action Unit, and the
report of it in each state (R46, R53, R54, R58, R137, R141, R142). -/

namespace Sys2Proof.Machine

/-! ### The Berth Action Unit and the events handed over -/

/-- The Berth Action Unit stands, no queue take has come due, and where no entry is marked and watching the authority
records and the events handed over stand. -/
structure Steady (s t : State) : Prop where
  berth : t.berth = s.berth
  queueTake : DueEvent.queueTake ∈ t.due ↔ DueEvent.queueTake ∈ s.due
  quiet : s.quiet → t.records = s.records ∧ t.due = s.due

theorem Steady.refl (s : State) : Steady s s := ⟨rfl, .rfl, fun _ => ⟨rfl, rfl⟩⟩

theorem Steady.trans {s t u : State} (h : Steady s t) (h' : Steady t u) : Steady s u := by
  refine ⟨h'.berth.trans h.berth, h'.queueTake.trans h.queueTake, fun quiet => ?_⟩
  obtain ⟨records, due⟩ := h.quiet quiet
  obtain ⟨records', due'⟩ := h'.quiet (State.quiet_of_records records quiet)
  exact ⟨records'.trans records, due'.trans due⟩

theorem putLine_steady (n : LineNo) (l : Line) (s : State) : Steady s (s.putLine n l) := ⟨rfl, .rfl, fun _ => ⟨rfl, rfl⟩⟩

theorem singleTest_queueTake (n : LineNo) (s : State) :
    DueEvent.queueTake ∈ (s.singleTest n).due ↔ DueEvent.queueTake ∈ s.due := by
  obtain ⟨es, due, lines⟩ := (singleTest_linesWorked n s).due
  have none : DueEvent.queueTake ∉ es := fun h => nomatch lines _ h
  rw [due, List.mem_append]
  exact ⟨fun h => h.resolve_right none, .inl⟩

theorem onLine_steady (n : LineNo) (f : Line → Line) (s : State) : Steady s (s.onLine n f) := by
  refine ⟨onLine_berth n f s, ?_, fun quiet => ?_⟩
  · have changed : (s.lineChanged n (f (s.line n))).due = s.due := by
      unfold State.lineChanged
      split <;> rfl
    have onLine : s.onLine n f
        = if (s.line n).control.state = (f (s.line n)).control.state then s.lineChanged n (f (s.line n))
          else (s.lineChanged n (f (s.line n))).singleTest n := rfl
    rw [onLine]
    split
    · rw [changed]
    · rw [singleTest_queueTake, changed]
  · obtain ⟨records, due, -⟩ := onLine_sameAuthority n f s quiet
    exact ⟨records, due⟩

theorem Steady.ite {c : Prop} [Decidable c] {s t u : State} (ht : Steady s t) (hu : Steady s u) :
    Steady s (if c then t else u) := by
  split
  exacts [ht, hu]

theorem sensorStage_steady (n : LineNo) (sample : BitVec 12) (s : State) : Steady s (s.sensorStage n sample) := by
  unfold State.sensorStage
  exact .ite ((putLine_steady n _ s).trans (onLine_steady n _ _)) (putLine_steady n _ s)

/-- Line `n` joins the release queue at its hook's change to `new` (R141). -/
def State.joinsAt (s : State) (n : LineNo) (new : HookPos) : Prop :=
  (s.line n).control.state = .engaging ∧ new = .closed ∧ s.berth.releaseAll = true ∧ n ∉ s.berth.queue

theorem newEntries_single (queue : List LineNo) (n : LineNo) :
    newEntries queue [n] = if n ∈ queue then [] else [n] := by
  simp [newEntries]

/-- What a hook's change does beside the lines: the completing ENGAGING line joins the release queue (R141), and a queue
take comes due where it joins while the stagger timer is idle and none is due (R142). -/
structure HookJoins (joins : Prop) (n : LineNo) (s t : State) : Prop where
  joined : joins → t.berth = { s.berth with queue := s.berth.queue ++ [n] }
  unjoined : ¬joins → t.berth = s.berth
  queueTake : DueEvent.queueTake ∈ t.due ↔ DueEvent.queueTake ∈ s.due ∨ (joins ∧ s.berth.stagger = none)
  quiet : s.quiet → t.records = s.records ∧ (joins → s.berth.stagger = none → DueEvent.queueTake ∉ s.due →
    t.due = s.due ++ [.queueTake]) ∧ (¬(joins ∧ s.berth.stagger = none ∧ DueEvent.queueTake ∉ s.due) → t.due = s.due)

theorem HookJoins.of_steady {joins : Prop} {n : LineNo} {s t : State} (none : ¬joins) (h : Steady s t) :
    HookJoins joins n s t :=
  ⟨fun joins => absurd joins none, fun _ => h.berth,
    h.queueTake.trans ⟨.inl, fun take => take.resolve_right fun joins => none joins.1⟩,
    fun quiet => ⟨(h.quiet quiet).1, fun joins => absurd joins none, fun _ => (h.quiet quiet).2⟩⟩

theorem HookJoins.steady_left {joins : Prop} {n : LineNo} {s t u : State} (h : Steady s t) (h' : HookJoins joins n t u) :
    HookJoins joins n s u := by
  refine ⟨fun joins => ?_, fun none => (h'.unjoined none).trans h.berth, ?_, fun quiet => ?_⟩
  · rw [h'.joined joins, h.berth]
  · rw [h'.queueTake, h.queueTake, h.berth]
  · obtain ⟨records, due⟩ := h.quiet quiet
    obtain ⟨records', takes, none⟩ := h'.quiet (State.quiet_of_records records quiet)
    rw [due, h.berth] at takes none
    exact ⟨records'.trans records, takes, none⟩

theorem HookJoins.steady_right {joins : Prop} {n : LineNo} {s t u : State} (h : HookJoins joins n s t) (h' : Steady t u) :
    HookJoins joins n s u := by
  refine ⟨fun joins => h'.berth.trans (h.joined joins), fun none => h'.berth.trans (h.unjoined none),
    h'.queueTake.trans h.queueTake, fun quiet => ?_⟩
  obtain ⟨records, takes, none⟩ := h.quiet quiet
  obtain ⟨records', due⟩ := h'.quiet (State.quiet_of_records records quiet)
  rw [due]
  exact ⟨records'.trans records, takes, none⟩

theorem hookChange_joins (n : LineNo) (old new : HookPos) (s : State) :
    HookJoins (s.joinsAt n new) n s (s.hookChange n old new) := by
  have reported := onLine_steady n (Line.hookReport s.berth old new) s
  unfold State.hookChange
  dsimp only
  generalize s.onLine n (Line.hookReport s.berth old new) = u at reported
  rw [reported.berth]
  split
  next completes =>
    obtain ⟨⟨engaging, closed⟩, releasing⟩ := completes
    refine .steady_left reported ?_
    rw [appendQueue_spec, newEntries_single, reported.berth]
    by_cases queued : n ∈ s.berth.queue
    · have none : ¬s.joinsAt n new := fun joins => joins.2.2.2 queued
      rw [if_pos queued, if_neg (by simp), List.append_nil]
      exact .of_steady none ⟨reported.berth.symm, .rfl, fun _ => ⟨rfl, rfl⟩⟩
    · have joins : s.joinsAt n new := ⟨engaging, closed, releasing, queued⟩
      rw [if_neg queued]
      refine ⟨fun _ => by rw [reported.berth], fun none => absurd joins none, ?_, fun _ => ⟨rfl, fun _ idle none => ?_, fun no => ?_⟩⟩
      · rw [reported.berth]
        dsimp only
        by_cases idle : s.berth.stagger = none <;> by_cases due : DueEvent.queueTake ∈ u.due <;> simp [idle, due, joins]
      · rw [reported.berth] at idle
        exact if_pos ⟨by simp, idle, none⟩
      · rw [reported.berth] at no
        exact if_neg fun h => no ⟨joins, h.2⟩
  next incomplete =>
    refine .of_steady (fun joins => incomplete ?_) reported
    exact ⟨⟨joins.1, joins.2.1⟩, joins.2.2.1⟩

theorem switchStage_joins {n : LineNo} {pins : SwitchPins} {s : State}
    (changes : ((s.line n).sense.sampleSwitches pins).hook ≠ (s.line n).sense.hook) :
    HookJoins (s.joinsAt n ((s.line n).sense.sampleSwitches pins).hook) n s (s.switchStage n pins) := by
  unfold State.switchStage
  extract_lets old new _ s1 s2 s3
  have same : s1.joinsAt n new.hook ↔ s.joinsAt n new.hook := by
    unfold s1 State.joinsAt
    rw [State.line_putLine_self]
    exact .rfl
  have second : HookJoins (s.joinsAt n new.hook) n s s2 := by
    have changed := hookChange_joins n old.hook new.hook s1
    rw [propext same] at changed
    unfold s2
    rw [if_neg changes]
    exact .steady_left (putLine_steady n _ s) changed
  have third : HookJoins (s.joinsAt n new.hook) n s s3 := by
    unfold s3
    split
    · exact second.steady_right (onLine_steady n _ _)
    · exact second
  split
  · exact third.steady_right (onLine_steady n _ _)
  · exact third

/-- The whole of an invalid sample event at which the accepted hook position changes. -/
theorem sampleEvent_joins {n : LineNo} {pins : SwitchPins} {s : State} {sample : BitVec 12}
    (fitted : s.fitted n = true) (stands : (s.line n).profileStands = true) (invalid : sampleValid sample = false)
    (changes : ((s.line n).sense.sampleSwitches pins).hook ≠ (s.line n).sense.hook) :
    HookJoins (s.joinsAt n ((s.line n).sense.sampleSwitches pins).hook) n s (s.sampleEvent n sample pins) := by
  have timed := putLine_steady n (s.line n).advanceHookTimer s
  have line : (s.putLine n (s.line n).advanceHookTimer).line n = (s.line n).advanceHookTimer := State.line_putLine_self ..
  have switched := switchStage_joins (n := n) (pins := pins) (s := s.putLine n (s.line n).advanceHookTimer)
    (by rw [line]; exact changes)
  have same : (s.putLine n (s.line n).advanceHookTimer).joinsAt n ((s.line n).advanceHookTimer.sense.sampleSwitches pins).hook
      ↔ s.joinsAt n ((s.line n).sense.sampleSwitches pins).hook := by
    unfold State.joinsAt
    rw [line]
    exact .rfl
  rw [line, propext same] at switched
  unfold State.sampleEvent
  dsimp only
  rw [if_pos fitted, tensionStage_invalid n sample _ invalid, profileStage_stands (by rw [line]; exact stands)]
  exact ((HookJoins.steady_left timed switched).steady_right (sensorStage_steady n sample _)).steady_right
    (onLine_steady n _ _)

/-! ### The line -/

section
variable {l : Line} {b : BerthAction} {old new : HookPos}

theorem hookReport_engaging (h : l.control.state = .engaging) (closed : new = .closed) :
    l.hookReport b old new = l.engagingComplete b := by
  unfold Line.hookReport
  rw [h]
  exact if_pos closed

theorem hookReport_opening (h : l.control.state = .opening) (opened : new = .opened) :
    l.hookReport b old new = l.openingComplete b := by
  unfold Line.hookReport
  rw [h]
  exact if_pos opened

theorem hookReport_faults (h : l.control.state ∈ [LineState.stowed, .opened, .deploying, .rewinding])
    (fault : new = .closed ∨ new = .invalid) : l.hookReport b old new = l.faultedBy .hook .hook := by
  have plain : l.fault .hook = l.faultedBy .hook .hook :=
    fault_eq_faultedBy .hook (fun x => by rw [x] at h; simp at h) fun x => by rw [x] at h; simp at h
  unfold Line.hookReport
  generalize l.control.state = x at h
  cases x with
  | stowed | opened | deploying | rewinding => exact (if_pos fault).trans plain
  | _ => simp at h

theorem hookReport_invalid (h : l.control.state = .engaging ∨ l.control.state = .opening) (invalid : new = .invalid) :
    l.hookReport b old new = l.faultedBy .hook .hook := by
  have plain : l.fault .hook = l.faultedBy .hook .hook :=
    fault_eq_faultedBy .hook (fun x => by rw [x] at h; simp at h) fun x => by rw [x] at h; simp at h
  unfold Line.hookReport
  rw [invalid]
  rcases h with h | h <;> rw [h] <;> exact plain

/-- A position that is neither CLOSED nor INVALID moves no line that rests or moves with its hook open. -/
theorem hookReport_open (h : l.control.state ∈ [LineState.stowed, .opened, .deploying, .rewinding])
    (closed : new ≠ .closed) (invalid : new ≠ .invalid) : l.hookReport b old new = l := by
  unfold Line.hookReport
  generalize l.control.state = x at h
  cases x with
  | stowed | opened | deploying | rewinding => exact if_neg fun fault => fault.elim closed invalid
  | _ => simp at h

theorem hookReport_waits
    (h : l.control.state = .engaging ∧ new ≠ .closed ∨ l.control.state = .opening ∧ new ≠ .opened)
    (invalid : new ≠ .invalid) : l.hookReport b old new = l := by
  unfold Line.hookReport
  rcases h with ⟨h, other⟩ | ⟨h, other⟩ <;> rw [h] <;> exact (if_neg other).trans (if_neg invalid)

/-- A position that leaves CLOSED faults a line that needs its hook closed, and one that does not leave CLOSED stands. -/
theorem hookReport_attached
    (h : l.control.state ∈ [LineState.hauling, .locked, .rendering, .recovering, .held, .slacking, .slipping, .faulted]) :
    l.hookReport b old new = if old = .closed ∧ new ≠ .closed then l.fault .hook else l := by
  unfold Line.hookReport
  generalize l.control.state = x at h
  cases x with
  | hauling | locked | rendering | recovering | held | slacking | slipping | faulted => rfl
  | _ => simp at h

/-- The switch reports of a sample that changes the hook position, while the drive-fault input reads as it is accepted. -/
theorem Line.sensed_hook {pins : SwitchPins} (changes : (l.sense.sampleSwitches pins).hook ≠ l.sense.hook)
    (sound : ¬l.fails pins)
    (stows : ((l.switched pins).hookReport b l.sense.hook (l.sense.sampleSwitches pins).hook).control.state = .rewinding →
      ¬l.stows pins) :
    l.sensed b pins = (l.switched pins).hookReport b l.sense.hook (l.sense.sampleSwitches pins).hook := by
  unfold Line.sensed
  dsimp only
  rw [if_neg changes]
  refine (if_neg sound).trans ?_
  split
  next arrives => exact stowedReport_other fun rewinding => stows rewinding arrives
  next => rfl

end

theorem profileTaken_stallWindow {p : Profile} (h : profileTaken p = true) : 1 < p.stallWindow := by
  simp only [profileTaken, Bool.and_eq_true, decide_eq_true_eq] at h
  omega

end Sys2Proof.Machine

/-! PROOFS. What a change of the accepted hook position does to its line (R45, R46, R53, R54, R57, R58): settles O15. -/

namespace Sys2Proof.Machine

/-- The line of an invalid sample below the eighth that changes the hook position. -/
theorem Line.sampled_hook {l : Line} {b : BerthAction} {pins : SwitchPins} {sample : BitVec 12} (zeroOffset : Nat)
    {r : Line} (invalid : sampleValid sample = false) (counting : l.sense.invalidCount < 7)
    (changes : (l.sense.sampleSwitches pins).hook ≠ l.sense.hook) (sound : ¬l.fails pins)
    (report : (l.advanceHookTimer.switched pins).hookReport b l.sense.hook (l.sense.sampleSwitches pins).hook = r)
    (stows : r.control.state = .rewinding → ¬l.stows pins) :
    l.sampled b zeroOffset sample pins = (r.loadCounted false).close true := by
  subst report
  rw [Line.sampled_reports b zeroOffset pins invalid counting]
  exact congrArg (fun u : Line => (u.loadCounted false).close true)
    (Line.sensed_hook (l := l.advanceHookTimer) changes sound stows)

theorem mem_of_state {x y : LineState} {xs : List LineState} (h : x = y) (mem : y ∈ xs) : x ∈ xs := h ▸ mem

section
variable {l : Line} {b : BerthAction}

/-- ENGAGING completes in SLIPPING where a trip was deferred (R46). -/
theorem engagingComplete_slip (engaging : l.control.state = .engaging) (deferred : l.control.record.tripDeferred = true) :
    l.engagingComplete b = l.placed .slipping {} 0 .slip .none none := by
  refine (if_pos deferred).trans ((enter_eq_placed _ _ _ rfl rfl rfl rfl).trans ?_)
  rw [if_neg (show l.control.state ≠ .faulted from engaging.trans_ne nofun)]
  rfl

theorem engagingComplete_rest (undeferred : l.control.record.tripDeferred = false)
    (rests : (b.stopped || l.protection.inhibit || l.control.record.restOnCompletion || b.releaseAll) = true) :
    l.engagingComplete b = l.idleIn .held := by
  unfold Line.engagingComplete
  rw [undeferred, rests]
  exact enter_held l

theorem engagingComplete_haul (undeferred : l.control.record.tripDeferred = false)
    (rests : (b.stopped || l.protection.inhibit || l.control.record.restOnCompletion || b.releaseAll) = false) :
    l.engagingComplete b
      = l.placed .hauling { current := l.control.record.current } (-(l.applied.haulSpeed : Int)) .release .none none := by
  unfold Line.engagingComplete
  rw [undeferred, rests]
  exact enter_eq_placed _ _ _ rfl rfl rfl rfl

theorem openingComplete_rest
    (rewinds : (l.control.record.thenRewind && !b.stopped && !b.releaseAll && !l.control.record.restOnCompletion) = false) :
    l.openingComplete b = l.idleIn .opened := by
  unfold Line.openingComplete
  rw [rewinds]
  exact enter_opened l

theorem openingComplete_rewind
    (rewinds : (l.control.record.thenRewind && !b.stopped && !b.releaseAll && !l.control.record.restOnCompletion) = true) :
    l.openingComplete b
      = if l.sense.stowed.accepted = .active then (l.idleIn .stowed).zeroed
        else
          l.placed .rewinding { current := l.control.record.current } (-(l.applied.rewindSpeed : Int)) .release .none
            none := by
  unfold Line.openingComplete Line.goRewind
  rw [rewinds, if_pos rfl]
  exact ite_congr rfl (fun _ => stow_eq_zeroed l) fun _ => enter_eq_placed _ _ _ rfl rfl rfl rfl

end

end Sys2Proof.Machine

namespace Sys2Proof

open Machine

/-- Settles O15: the line of `Line.sampled_hook`, the report of each state, and `sampleEvent_joins` beside the line. -/
theorem hookPositionEffects : Obligations.HookPositionEffects := by
  unfold Obligations.HookPositionEffects
  intro n pins s l x sensed after rests rewinds joins running fitted stands counting changes drive taken
  have sound : ¬l.fails pins := by
    intro fails
    refine fails.2 (Eq.trans ?_ fails.1)
    exact (Switch.sample_accepted _ drive.symm).symm
  have window : 1 < l.applied.stallWindow := profileTaken_stallWindow taken
  have joinsIff : joins = true ↔ s.joinsAt n after := by
    simp [joins, State.joinsAt, x, and_assoc, l]
  have beside := sampleEvent_joins (sample := 4095#12) fitted stands rfl changes
  refine ⟨_, whileRunning_running _ running, ?_⟩
  obtain ⟨joined, unjoined, queueTake, quiet⟩ := beside
  have line {r : Line} (report : (l.advanceHookTimer.switched pins).hookReport s.berth l.sense.hook after = r)
      (stows : r.control.state = .rewinding → ¬l.stows pins) :
      (s.sampleEvent n 4095#12 pins).line n = (r.loadCounted false).close true :=
    (sampleEvent_sampled fitted stands 4095#12 pins).trans (Line.sampled_hook _ rfl counting changes sound report stows)
  generalize s.sampleEvent n 4095#12 pins = t at *
  have still {r : Line} (report : (l.advanceHookTimer.switched pins).hookReport s.berth l.sense.hook after = r)
      (rewinding : r.control.state ≠ .rewinding) (starting : r.control.state ≠ .starting)
      (undriven : r.control.state.drivePowered = false) : t.line n = r.loadCounted false :=
    (line report fun h => absurd h rewinding).trans (Line.close_counted_still starting undriven)
  have faulted {c : FaultCause}
      (report : (l.advanceHookTimer.switched pins).hookReport s.berth l.sense.hook after
        = (l.advanceHookTimer.switched pins).faultedBy c .hook) :
      (t.line n).control = (l.faultedBy c .hook).control :=
    (congrArg Line.control (still report nofun nofun rfl) :)
  have standing (report : (l.advanceHookTimer.switched pins).hookReport s.berth l.sense.hook after
        = l.advanceHookTimer.switched pins)
      (rests : x ≠ .rewinding ∧ x ≠ .starting ∧ x.drivePowered = false) :
      t.line n = (l.advanceHookTimer.switched pins).loadCounted false := still report rests.1 rests.2.1 rests.2.2
  have engaged (engaging : x = .engaging) (closed : after = .closed) :
      (l.advanceHookTimer.switched pins).hookReport s.berth l.sense.hook after
        = (l.advanceHookTimer.switched pins).engagingComplete s.berth :=
    hookReport_engaging (l := l.advanceHookTimer.switched pins) engaging closed
  have opened (opening : x = .opening) (opened : after = .opened) :
      (l.advanceHookTimer.switched pins).hookReport s.berth l.sense.hook after
        = (l.advanceHookTimer.switched pins).openingComplete s.berth :=
    hookReport_opening (l := l.advanceHookTimer.switched pins) opening opened
  refine ⟨fun engaging closed deferred => ?slips, fun engaging closed undeferred rest => ?rests,
    fun engaging closed undeferred noRest => ?hauls, ?berth, ?queueTake, fun single => ?due,
    fun opening isOpen stays => ?opens, fun opening isOpen rewinding active => ?stows,
    fun opening isOpen rewinding inactive => ?rewinds, fun unhooked bad => ?faults, fun waits invalid => ?invalid,
    fun resting stopped noClosed valid => ?resting, fun waits valid => ?waits, fun attached closed => ?attached,
    fun slipping closed => ?slipping, fun fault stopped => ⟨fun closed => ?leaves, fun noClosed => ?stays⟩,
    fun moving noClosed valid below short => ?moving⟩
  case slips =>
    rw [still ((engaged engaging closed).trans (engagingComplete_slip (l := l.advanceHookTimer.switched pins) engaging deferred))
      nofun nofun rfl]
    rfl
  case rests =>
    rw [still ((engaged engaging closed).trans (engagingComplete_rest (l := l.advanceHookTimer.switched pins) undeferred rest))
      nofun nofun rfl]
    rfl
  case hauls =>
    have report := engagingComplete_haul (l := l.advanceHookTimer.switched pins) undeferred noRest
    have short {m : Line} (hauling : m.control.state = .hauling) :
        m.control.state = .deploying → m.sense.payout < m.applied.deployLength := fun h => nomatch hauling.symm.trans h
    rw [line ((engaged engaging closed).trans report) (fun h => nomatch h), Line.close_counted_counting rfl (short rfl) window]
    exact ⟨rfl, rfl, rfl, rfl⟩
  case berth =>
    by_cases h : joins = true
    · rw [if_pos h]
      exact joined (joinsIff.1 h)
    · rw [if_neg h]
      exact unjoined fun j => h (joinsIff.2 j)
  case queueTake => rw [queueTake, joinsIff]
  case due =>
    obtain ⟨-, takes, takesNone⟩ := quiet (noSingle_quiet single)
    by_cases h : joins = true ∧ s.berth.stagger = none ∧ DueEvent.queueTake ∉ s.due
    · rw [if_pos h]
      exact takes (joinsIff.1 h.1) h.2.1 h.2.2
    · rw [if_neg h, List.append_nil]
      exact takesNone fun j => h ⟨joinsIff.2 j.1, j.2⟩
  case opens =>
    rw [still ((opened opening isOpen).trans (openingComplete_rest (l := l.advanceHookTimer.switched pins) stays))
      nofun nofun rfl]
    rfl
  case stows =>
    have report := (openingComplete_rewind (l := l.advanceHookTimer.switched pins) rewinding).trans (if_pos active)
    rw [still ((opened opening isOpen).trans report) nofun nofun rfl]
    exact ⟨rfl, rfl, rfl⟩
  case rewinds =>
    have report := (openingComplete_rewind (l := l.advanceHookTimer.switched pins) rewinding).trans (if_neg inactive)
    have short {m : Line} (rewinding : m.control.state = .rewinding) :
        m.control.state = .deploying → m.sense.payout < m.applied.deployLength := fun h => nomatch rewinding.symm.trans h
    rw [line ((opened opening isOpen).trans report) (fun _ stows => inactive stows.1),
      Line.close_counted_counting rfl (short rfl) window]
    exact ⟨rfl, rfl, rfl, rfl, rfl, rfl⟩
  case faults => exact faulted (hookReport_faults (l := l.advanceHookTimer.switched pins) unhooked bad)
  case invalid => exact faulted (hookReport_invalid (l := l.advanceHookTimer.switched pins) waits invalid)
  case resting =>
    have report := hookReport_open (l := l.advanceHookTimer.switched pins) (b := s.berth) (old := l.sense.hook)
      (resting.elim (fun h => mem_of_state h (by decide)) fun h => mem_of_state h (by decide)) noClosed valid
    have kept := standing report (by rcases resting with h | h <;> rw [h] <;> exact ⟨nofun, nofun, rfl⟩)
    rw [kept, Line.advanceHookTimer_stopped stopped]
    rfl
  case waits =>
    have report := hookReport_waits (l := l.advanceHookTimer.switched pins) (b := s.berth) (old := l.sense.hook) waits valid
    have kept := standing report (by rcases waits with ⟨h, -⟩ | ⟨h, -⟩ <;> rw [h] <;> exact ⟨nofun, nofun, rfl⟩)
    rw [kept]
    exact ⟨rfl, rfl, rfl⟩
  case attached =>
    have away : after ≠ .closed := fun h => changes (h.trans closed.symm)
    refine faulted ((hookReport_attached ?_).trans ((if_pos ⟨closed, away⟩).trans
      (fault_eq_faultedBy (a := l.advanceHookTimer.switched pins) .hook ?_ ?_)))
    · exact List.mem_append_left [LineState.slipping, .faulted] attached
    · exact fun h => absurd attached (by rw [show x = _ from h]; decide)
    · exact fun h => absurd attached (by rw [show x = _ from h]; decide)
  case slipping =>
    have away : after ≠ .closed := fun h => changes (h.trans closed.symm)
    refine faulted ((hookReport_attached ?_).trans ((if_pos ⟨closed, away⟩).trans
      (fault_slipping (a := l.advanceHookTimer.switched pins) .hook slipping)))
    exact mem_of_state (show l.control.state = _ from slipping) (by decide)
  case leaves =>
    have away : after ≠ .closed := fun h => changes (h.trans closed.symm)
    have report := (hookReport_attached (l := l.advanceHookTimer.switched pins) (b := s.berth) (new := after)
      (mem_of_state (show l.control.state = _ from fault) (by decide))).trans ((if_pos ⟨closed, away⟩).trans
      (fault_faulted (a := l.advanceHookTimer.switched pins) .hook fault))
    have state : ((l.advanceHookTimer.switched pins).latch FaultCause.hook.flag).control.state = .faulted := fault
    rw [still report (by rw [state]; nofun) (by rw [state]; nofun) (by rw [state]; rfl), Line.advanceHookTimer_stopped stopped]
    rfl
  case stays =>
    have report := (hookReport_attached (l := l.advanceHookTimer.switched pins) (b := s.berth) (new := after)
      (mem_of_state (show l.control.state = _ from fault) (by decide))).trans (if_neg fun h => noClosed h.1)
    rw [standing report (by rw [fault]; exact ⟨nofun, nofun, rfl⟩), Line.advanceHookTimer_stopped stopped]
    rfl
  case moving =>
    have report := hookReport_open (l := l.advanceHookTimer.switched pins) (b := s.berth) (old := l.sense.hook)
      (moving.elim (fun h => mem_of_state h (by decide)) fun h => mem_of_state h.1 (by decide)) noClosed valid
    have driven : x.drivePowered = true := by rcases moving with h | ⟨h, -⟩ <;> rw [h] <;> rfl
    have kept := line report fun h stows => by
      rcases moving with deploying | ⟨-, unstowed⟩
      · exact nomatch (show x = .rewinding from h).symm.trans deploying
      · exact stows.2 (unstowed stows.1)
    rw [kept, Line.close_counted_counting (l := l.advanceHookTimer.switched pins) driven short below]
    exact ⟨rfl, rfl, rfl, rfl, rfl⟩

end Sys2Proof

/-! PROOFS. WARN, TRIP and the haul inhibit of a line through the stages of a sample (R57, R65, R85, R87, R91): no report but
those of the Protection Unit moves them. -/

namespace Sys2Proof.Machine

/-- WARN, TRIP and the haul inhibit of a line. -/
def Line.alarms (l : Line) : Bool × Bool × Bool := (l.has .warn, l.has .trip, l.protection.inhibit)

theorem Line.alarms_eq_iff (a b : Line) :
    a.alarms = b.alarms ↔
      a.has .warn = b.has .warn ∧ a.has .trip = b.has .trip ∧ a.protection.inhibit = b.protection.inhibit := by
  simp [Line.alarms]

@[simp] theorem Line.alarms_ite (c : Prop) [Decidable c] (a b : Line) :
    (if c then a else b).alarms = if c then a.alarms else b.alarms :=
  apply_ite Line.alarms c a b

/-- A flag other than WARN and TRIP. -/
theorem Line.latch_alarms {f : Flag} (warn : f ≠ .warn) (trip : f ≠ .trip) (l : Line) : (l.latch f).alarms = l.alarms :=
  (Line.alarms_eq_iff _ _).2 ⟨by simp [Line.has_latch, warn], by simp [Line.has_latch, trip], rfl⟩

@[simp] theorem Line.latch_allow_alarms (l : Line) : (l.latch .allow).alarms = l.alarms :=
  Line.latch_alarms (f := .allow) nofun nofun l

@[simp] theorem Line.latch_fault_alarms (c : FaultCause) (l : Line) : (l.latch c.flag).alarms = l.alarms :=
  Line.latch_alarms (by cases c <;> nofun) (by cases c <;> nofun) l

@[simp] theorem Line.advanceHookTimer_alarms (l : Line) : l.advanceHookTimer.alarms = l.alarms := rfl
@[simp] theorem Line.setDrive_alarms (d : Int) (l : Line) : (l.setDrive d).alarms = l.alarms := rfl
@[simp] theorem Line.setMark_alarms (l : Line) : l.setMark.alarms = l.alarms := rfl
@[simp] theorem Line.reference_alarms (l : Line) : l.reference.alarms = l.alarms := rfl
@[simp] theorem Line.setWatches_alarms (warn trip : Nat) (l : Line) : (l.setWatches warn trip).alarms = l.alarms := rfl

@[simp] theorem Line.enter_alarms (x : LineState) (r : CommandRecord) (l : Line) : (l.enter x r).alarms = l.alarms := by
  unfold Line.enter
  split <;> rfl

@[simp] theorem Line.enterFaulted_alarms (c : Option FaultCause) (l : Line) : (l.enterFaulted c).alarms = l.alarms :=
  Line.enter_alarms .faulted {} l

@[simp] theorem Line.fault_alarms (c : FaultCause) (l : Line) : (l.fault c).alarms = l.alarms := by
  unfold Line.fault
  split_ifs <;> simp

@[simp] theorem Line.goRewind_alarms (r : CommandRecord) (l : Line) : (l.goRewind r).alarms = l.alarms := by
  unfold Line.goRewind
  split <;> simp

@[simp] theorem Line.derive_alarms (fitted : Bool) (l : Line) : (l.derive fitted).alarms = l.alarms := by
  have drive (l : Line) : (l.latch .drive).alarms = l.alarms := Line.latch_fault_alarms .drive l
  have hook (l : Line) : (l.latch .hook).alarms = l.alarms := Line.latch_fault_alarms .hook l
  unfold Line.derive
  split_ifs <;> simp [drive, hook]

/-! ### Reports -/

@[simp] theorem Line.hookReport_alarms (b : BerthAction) (old new : HookPos) (l : Line) :
    (l.hookReport b old new).alarms = l.alarms := by
  have slip : l.slip.alarms = l.alarms := Line.enter_alarms ..
  unfold Line.hookReport
  split <;> simp [Line.engagingComplete, Line.openingComplete, slip]

@[simp] theorem Line.stowedReport_alarms (l : Line) : l.stowedReport.alarms = l.alarms := by
  unfold Line.stowedReport
  split <;> simp

@[simp] theorem Line.driveFaultReport_alarms (l : Line) : l.driveFaultReport.alarms = l.alarms := by
  unfold Line.driveFaultReport
  split
  · rfl
  · exact Line.latch_fault_alarms .drive l
  · exact Line.fault_alarms .drive l

@[simp] theorem Line.sensorFaultReport_alarms (l : Line) : l.sensorFaultReport.alarms = l.alarms := by
  unfold Line.sensorFaultReport
  split <;> simp

@[simp] theorem Line.slackReport_alarms (l : Line) : l.slackReport.alarms = l.alarms := by
  unfold Line.slackReport
  dsimp only
  split
  · exact Line.enter_alarms ..
  · rfl

@[simp] theorem Line.tensionReport_alarms (stopped : Bool) (o : TendOutcome) (l : Line) :
    (l.tensionReport stopped o).alarms = l.alarms := by
  have render (fired : Bool) : (l.renderEntry fired).alarms = l.alarms := by simp [Line.renderEntry]
  have recover (fired : Bool) : (l.recoverEntry stopped fired).alarms = l.alarms := by simp [Line.recoverEntry]
  unfold Line.tensionReport
  split
  · split <;> simp [render, recover]
  all_goals simp
  intro _
  split <;> simp

@[simp] theorem Line.inhibitOnset_alarms (l : Line) : l.inhibitOnset.alarms = l.alarms := by
  unfold Line.inhibitOnset
  split <;> simp

@[simp] theorem Line.close_alarms (fitted : Bool) (l : Line) : (l.close fitted).alarms = l.alarms := by
  have starting : (l.closeStarting fitted).alarms = l.alarms := by
    unfold Line.closeStarting
    dsimp only
    split_ifs
    exacts [Line.derive_alarms .., rfl, rfl]
  have deployed : (l.closeStarting fitted).closeDeploy.alarms = l.alarms := by
    simp [Line.closeDeploy, starting]
  have expired (l : Line) : l.stallExpire.alarms = l.alarms := by simp [Line.stallExpire]
  unfold Line.close Line.closeStall
  dsimp only
  split_ifs
  · exact (expired _).trans deployed
  · exact deployed
  · exact deployed

/-! ### The stages -/

@[simp] theorem Line.sensed_alarms (b : BerthAction) (pins : SwitchPins) (l : Line) :
    (l.sensed b pins).alarms = l.alarms := by
  have switched : Line.alarms { l with sense := l.sense.sampleSwitches pins } = l.alarms := rfl
  simp [Line.sensed, switched]

@[simp] theorem Line.loadTested_alarms (valid : Bool) (l : Line) : (l.loadTested valid).alarms = l.alarms := by
  have tested : Line.alarms { l with sense := l.sense.sampleLoad valid } = l.alarms := rfl
  simp [Line.loadTested, tested]

@[simp] theorem Line.evaluated_alarms (stopped : Bool) (load : Nat) (l : Line) :
    (l.evaluated stopped load).alarms = l.alarms := Line.tensionReport_alarms ..

@[simp] theorem Line.evaluated_profiles (stopped : Bool) (load : Nat) (l : Line) :
    (l.evaluated stopped load).profiles = l.profiles := Line.tensionReport_profiles ..

/-- Latching a flag that is latched changes nothing. -/
theorem flags_or_mask {w : BitVec 10} {f : Flag} (h : flagSet w f = true) : w ||| f.mask = w := by
  have bit (i : Nat) : f.mask.getLsbD i = (decide (i < 10) && decide (i = f.bit)) := by
    have below : f.bit < 10 := by cases f <;> decide
    simp only [Flag.mask, BitVec.getLsbD_shiftLeft, BitVec.getLsbD_one]
    by_cases same : i = f.bit
    · simp [same, below]
    · have apart : ¬(f.bit ≤ i ∧ i - f.bit = 0) := by omega
      by_cases le : f.bit ≤ i
      · have : i - f.bit ≠ 0 := fun h => apart ⟨le, h⟩
        simp [same, this]
      · simp [same, Nat.lt_of_not_le le]
  refine BitVec.eq_of_getLsbD_eq fun i hi => ?_
  rw [BitVec.getLsbD_or, bit]
  by_cases same : i = f.bit
  · unfold flagSet at h
    rw [same, h]
    rfl
  · simp [same]

/-! ### The protection stage -/

/-- A control with WARN latched where `warned` says so. -/
def Control.warned (warned : Bool) (c : Control) : Control :=
  { c with flags := if warned = true then c.flags ||| Flag.warn.mask else c.flags }

theorem watchStep_unmet (dwell count : Nat) : watchStep dwell count false = (0, .none) := rfl

theorem watchStep_short {dwell count : Nat} (h : count + 1 < dwell) : watchStep dwell count true = (count + 1, .none) :=
  if_pos h

/-- A watch that reaches its dwell fires, and one that stands there stands. -/
theorem watchStep_full {dwell count : Nat} (full : dwell ≤ count + 1) (below : count ≤ dwell) :
    watchStep dwell count true = (dwell, if count + 1 = dwell then .fired else .standing) := by
  unfold watchStep
  rw [if_neg (by decide), if_neg (by omega)]
  by_cases fires : count + 1 = dwell
  · rw [if_pos fires, if_pos fires]
  · rw [if_neg fires, if_neg fires, if_pos (by omega)]

/-- Below both thresholds of the Protection Unit no watch is met (R85, R86). -/
theorem Line.guarded_quiet {l : Line} (warn : l.tension.reported ≤ l.applied.warn) (trip : l.applied.warn < l.applied.trip) :
    l.guarded = l.setWatches 0 0 := by
  unfold Line.guarded
  rw [decide_eq_false (not_lt.2 warn), decide_eq_false (not_lt.2 (warn.trans trip.le)), watchStep_unmet, watchStep_unmet]
  cases l.has .warn <;> rfl

/-- A line that neither hauls nor recovers has nothing to stop at its inhibit's onset (R93). -/
theorem Line.inhibited_still {l : Line} (hauling : l.control.state ≠ .hauling) (recovering : l.control.state ≠ .recovering) :
    l.inhibited = l.setInhibit true := by
  have onset : (l.setInhibit true).inhibitOnset = l.setInhibit true := by
    unfold Line.inhibitOnset
    rw [show (l.setInhibit true).control.state = l.control.state from rfl]
    generalize l.control.state = x at hauling recovering
    cases x with
    | hauling => exact absurd rfl hauling
    | recovering => exact absurd rfl recovering
    | _ => rfl
  unfold Line.inhibited
  split
  next inhibited => rw [← inhibited, Line.setInhibit_self]
  next => exact onset

/-- A sample at which the trip watch neither fires nor stands latches WARN at most (R84 to R86). -/
theorem Line.guarded_calm {l : Line}
    (calm : l.has .warn = true → l.tension.reported ≤ l.applied.trip ∨ l.protection.tripWatch + 1 < l.applied.tripDwell)
    (hauling : l.control.state ≠ .hauling) (recovering : l.control.state ≠ .recovering) :
    l.guarded.control = l.control.warned (l.guarded.has .warn) ∧ l.guarded.sense = l.sense
      ∧ l.guarded.tension = l.tension ∧ l.guarded.applied = l.applied := by
  have noted {u : Line} (control : u.control = l.control) : u.control = l.control.warned (u.has .warn) := by
    have flags (warned : Bool) (h : warned = true → flagSet l.control.flags .warn = true) :
        l.control = l.control.warned warned := by
      unfold Control.warned
      cases warned with
      | false => rfl
      | true => rw [if_pos rfl, flags_or_mask (h rfl)]
    rw [control]
    exact flags _ fun h => by rw [Line.has, control] at h; exact h
  unfold Line.guarded
  cases warned : l.has .warn with
  | true =>
    have quiet : (watchStep l.applied.tripDwell l.protection.tripWatch (l.applied.trip < l.tension.reported)).2 = .none := by
      rcases calm warned with below | short
      · rw [decide_eq_false (not_lt.2 below), watchStep_unmet]
      · by_cases above : l.applied.trip < l.tension.reported
        · rw [decide_eq_true above, watchStep_short short]
        · rw [decide_eq_false above, watchStep_unmet]
    dsimp only
    rw [if_pos rfl, if_pos quiet]
    exact ⟨noted rfl, rfl, rfl, rfl⟩
  | false =>
    dsimp only
    rw [if_neg Bool.false_ne_true]
    split
    · rw [Line.inhibited_still (l := (l.setWatches 0 0).warnReport) hauling recovering]
      have latched : (((l.setWatches 0 0).warnReport).setInhibit true).has .warn = true := by
        change ((l.setWatches 0 0).latch .warn).has .warn = true
        rw [Line.has_latch]
        simp
      rw [latched]
      exact ⟨rfl, rfl, rfl, rfl⟩
    · exact ⟨noted rfl, rfl, rfl, rfl⟩

end Sys2Proof.Machine

/-! PROOFS. The tension report and the close of a sample at settled positions (R39, R44, R48, R52, R56, R59, R76, R79, R89):
settles O14. -/

namespace Sys2Proof.Machine

/-- A line forms its tension from a load (R21 to R25). -/
def Line.measured (load : Nat) (l : Line) : Line :=
  { l with tension := l.tension.sample l.applied.filterShift load }

/-- The tending watch of a line that is not LOCKED is not stepped (R32). -/
theorem evaluated_unlocked {l : Line} (stopped : Bool) (load : Nat) (h : l.control.state ≠ .locked) :
    l.evaluated stopped load = (l.measured load).tensionReport stopped .none := by
  unfold Line.evaluated
  dsimp only
  rw [if_neg h]
  rfl

section
variable {l : Line} {stopped : Bool} {o : TendOutcome}

theorem tensionReport_hauling (h : l.control.state = .hauling) :
    l.tensionReport stopped o
      = if l.applied.lock ≤ l.tension.reported then (l.idleIn .locked).remarked else l := by
  unfold Line.tensionReport
  rw [h, ← enter_locked]
  rfl

theorem tensionReport_rendering (h : l.control.state = .rendering) :
    l.tensionReport stopped o = if l.tension.reported ≤ l.applied.hold then l.idleIn .locked else l := by
  unfold Line.tensionReport
  rw [h, ← enter_locked]

theorem tensionReport_recovering (h : l.control.state = .recovering) :
    l.tensionReport stopped o = if l.applied.lock ≤ l.tension.reported then l.idleIn .locked else l := by
  unfold Line.tensionReport
  rw [h, ← enter_locked]

theorem tensionReport_snag (h : l.control.state = .deploying ∨ l.control.state = .rewinding) :
    l.tensionReport stopped o = if l.applied.snag < l.tension.reported then l.faultedBy .snag .snag else l := by
  have fault : l.fault .snag = l.faultedBy .snag .snag :=
    fault_drivePowered .snag (by rcases h with h | h <;> rw [h] <;> rfl)
  unfold Line.tensionReport
  rcases h with h | h <;> rw [h, ← fault]

theorem tensionReport_slacking (h : l.control.state = .slacking) : l.tensionReport stopped o = l.slackReport := by
  unfold Line.tensionReport
  rw [h]

/-- Slip end of a line that carries no fault (R89). -/
theorem tensionReport_slipHeld (h : l.control.state = .slipping) (returns : l.control.record.returnTo = none)
    (le : l.tension.reported ≤ l.applied.warn) : l.tensionReport stopped o = l.idleIn .held := by
  unfold Line.tensionReport
  rw [h, returns, ← enter_held]
  exact if_pos le

/-- Slip end of a line that carries a fault cause (R89). -/
theorem tensionReport_slipFaulted {c : FaultCause} (h : l.control.state = .slipping)
    (returns : l.control.record.returnTo = some c) (le : l.tension.reported ≤ l.applied.warn) :
    l.tensionReport stopped o = l.enterFaulted (some c) := by
  unfold Line.tensionReport
  rw [h, returns]
  exact if_pos le

theorem tensionReport_slips (h : l.control.state = .slipping) (lt : l.applied.warn < l.tension.reported) :
    l.tensionReport stopped o = l := by
  unfold Line.tensionReport
  rw [h]
  exact if_neg (not_le.2 lt)

theorem tensionReport_other
    (h : l.control.state ∈ [LineState.held, .stowed, .opened, .engaging, .opening, .faulted, .starting, .notFitted]) :
    l.tensionReport stopped o = l := by
  unfold Line.tensionReport
  generalize l.control.state = x at h
  cases x with
  | held | stowed | opened | engaging | opening | faulted | starting | notFitted => rfl
  | _ => simp at h

/-- A line's slack watch. -/
def Line.slackWatched (count : Nat) (l : Line) : Line := { l with control := { l.control with slackWatch := count } }

theorem slackReport_tight (h : l.applied.slack < l.tension.reported) : l.slackReport = l.slackWatched 0 := by
  unfold Line.slackReport
  rw [decide_eq_false (not_le.2 h), watchStep_unmet]
  exact if_neg fun h => h.1 rfl

/-- A slack watch that reaches its dwell, with the slack length paid out, opens the hook (R52). -/
theorem slackReport_slack {start : Int} (h : l.tension.reported ≤ l.applied.slack)
    (begun : l.control.record.slackStart = some start) (below : l.control.slackWatch ≤ l.applied.slackDwell) :
    l.slackReport
      = if l.applied.slackDwell ≤ l.control.slackWatch + 1 ∧ (l.applied.slackLength : Int) ≤ l.sense.payout - start then
          l.placed .opening { current := l.control.record.current, thenRewind := l.control.record.thenRewind } 0 .apply
            .openHook l.freshTimer
        else l.slackWatched (min (l.control.slackWatch + 1) l.applied.slackDwell) := by
  have opens (u : Line) (r : CommandRecord) : u.enter .opening r = u.placed .opening r 0 .apply .openHook u.freshTimer :=
    enter_eq_placed _ _ _ rfl rfl rfl rfl
  unfold Line.slackReport
  rw [decide_eq_true h, begun]
  by_cases short : l.control.slackWatch + 1 < l.applied.slackDwell
  · have unmet : ¬(l.applied.slackDwell ≤ l.control.slackWatch + 1
        ∧ (l.applied.slackLength : Int) ≤ l.sense.payout - start) := fun h => absurd h.1 (not_le.2 short)
    rw [watchStep_short short, if_neg unmet, min_eq_left short.le]
    exact if_neg fun h => h.1 rfl
  · have full : l.applied.slackDwell ≤ l.control.slackWatch + 1 := not_lt.1 short
    have met : (if l.control.slackWatch + 1 = l.applied.slackDwell then WatchOutcome.fired else .standing) ≠ .none := by
      split <;> nofun
    rw [watchStep_full full below, min_eq_right full]
    refine ite_congr (propext ⟨fun h => ⟨full, h.2⟩, fun h => ⟨met, h.2⟩⟩) (fun _ => opens _ _) fun _ => rfl

end

/-! ### The end of the sample -/

/-- The trip watch of a line neither fires nor stands at its tension (R86). -/
def Line.calm (l : Line) : Prop :=
  l.has .warn = true → l.tension.reported ≤ l.applied.trip ∨ l.protection.tripWatch + 1 < l.applied.tripDwell

/-- A tension report leaves what the protection stage reads. -/
theorem Line.calm_report {l : Line} (h : l.calm) (stopped : Bool) (o : TendOutcome) : (l.tensionReport stopped o).calm := by
  have alarms := Line.tensionReport_alarms stopped o l
  have measures := Line.tensionReport_measures stopped o l
  have applied : (l.tensionReport stopped o).applied = l.applied :=
    congrArg Prod.fst (Line.tensionReport_profiles stopped o l)
  rw [Line.alarms_eq_iff] at alarms
  rw [Line.measures_eq_iff] at measures
  unfold Line.calm
  rw [alarms.1, measures.2.1, measures.2.2.2.2, applied]
  exact h

theorem Line.close_has_warn (fitted : Bool) (l : Line) : (l.close fitted).has .warn = l.has .warn :=
  ((Line.alarms_eq_iff _ _).1 (Line.close_alarms fitted l)).1

/-- A line at rest after its tension report, at a sample at which the trip watch neither fires nor stands. -/
theorem Line.ends_still {e : Line} (calm : e.calm) (starting : e.control.state ≠ .starting)
    (still : e.control.state.drivePowered = false) :
    (e.guarded.close true).control = e.control.warned ((e.guarded.close true).has .warn) := by
  have hauling : e.control.state ≠ .hauling := fun h => by rw [h] at still; cases still
  have recovering : e.control.state ≠ .recovering := fun h => by rw [h] at still; cases still
  obtain ⟨control, -, -, -⟩ := Line.guarded_calm calm hauling recovering
  have state : e.guarded.control.state = e.control.state := (congrArg Control.state control :)
  rw [Line.close_still true (by rw [state]; exact starting) (by rw [state]; exact still)]
  exact control

/-- A SLACKING line after its tension report, at such a sample. -/
theorem Line.ends_slacking {e : Line} (calm : e.calm) (slacking : e.control.state = .slacking) :
    (e.guarded.close true).control
      = if e.applied.stallWindow ≤ e.control.stallCounter + 1 then
          (e.faultedBy .stall .stall).control.warned ((e.guarded.close true).has .warn)
        else e.stalling.control.warned ((e.guarded.close true).has .warn) := by
  obtain ⟨control, -, -, applied⟩ := Line.guarded_calm calm (slacking.trans_ne nofun) (slacking.trans_ne nofun)
  have state : e.guarded.control.state = .slacking := (congrArg Control.state control).trans slacking
  have count : e.guarded.control.stallCounter = e.control.stallCounter := (congrArg Control.stallCounter control :)
  rw [Line.close_has_warn, Line.close_driven true (by rw [state]; rfl) (fun h => nomatch state.symm.trans h), applied, count]
  split
  · unfold Line.faultedBy Line.idleIn Line.placed Control.warned
    dsimp only
    rw [control]
    unfold Control.warned
    dsimp only
    congr 1
    split
    · rw [BitVec.or_assoc, BitVec.or_comm Flag.warn.mask, ← BitVec.or_assoc]
    · rfl
  · unfold Line.stalling
    dsimp only
    rw [control]
    rfl

/-- Any line after its tension report, where T is at most W. -/
theorem Line.ends_quiet {e : Line} (warn : e.tension.reported ≤ e.applied.warn) (trip : e.applied.warn < e.applied.trip) :
    e.guarded.close true = (e.setWatches 0 0).close true := by
  rw [Line.guarded_quiet warn trip]

end Sys2Proof.Machine

/-! PROOFS. Settles O14. -/

namespace Sys2Proof.Machine

/-- A line with a fault cause. -/
def Line.caused (c : Option FaultCause) (l : Line) : Line := { l with control := { l.control with cause := c } }

theorem enterFaulted_eq (l : Line) (c : Option FaultCause) : l.enterFaulted c = (l.idleIn .faulted).caused c := by
  rw [Line.enterFaulted, enter_eq_idleIn l rfl rfl rfl]
  rfl

theorem profileTaken_order {p : Profile} (h : profileTaken p = true) :
    p.slack < p.recover ∧ p.recover < p.lock ∧ p.lock ≤ p.hold ∧ p.hold < p.render ∧ p.render ≤ p.warn ∧ p.warn < p.trip
      ∧ p.snag ≤ p.warn := by
  simp only [profileTaken, Bool.and_eq_true, decide_eq_true_eq] at h
  omega

theorem plainSample_iff (s : State) (n : LineNo) (sample : BitVec 12) (pins : SwitchPins) :
    s.plainSample n sample pins = true ↔
      s.running = true ∧ s.fitted n = true ∧ (s.line n).profileStands = true ∧ sampleValid sample = true
        ∧ (s.line n).sense.settled pins = true := by
  simp [State.plainSample, and_assoc]

/-- A line that has taken a load at settled positions, before its tension report. -/
def Line.read (pins : SwitchPins) (load : Nat) (l : Line) : Line := (l.plain pins true).measured load

/-- What the protection stage reads of a line after its tension report. -/
theorem evaluated_kept (stopped : Bool) (load : Nat) (pins : SwitchPins) (l : Line) :
    ((l.plain pins true).evaluated stopped load).tension.reported = (l.read pins load).tension.reported
      ∧ ((l.plain pins true).evaluated stopped load).applied = l.applied
      ∧ ((l.plain pins true).evaluated stopped load).has .warn = l.has .warn
      ∧ ((l.plain pins true).evaluated stopped load).has .trip = l.has .trip
      ∧ ((l.plain pins true).evaluated stopped load).protection.inhibit = l.protection.inhibit
      ∧ ((l.plain pins true).evaluated stopped load).protection.warnWatch = l.protection.warnWatch
      ∧ ((l.plain pins true).evaluated stopped load).protection.tripWatch = l.protection.tripWatch := by
  have measures := Line.evaluated_measures stopped load (l.plain pins true)
  have alarms := Line.evaluated_alarms stopped load (l.plain pins true)
  have applied := congrArg Prod.fst (Line.evaluated_profiles stopped load (l.plain pins true))
  rw [Line.measures_eq_iff] at measures
  rw [Line.alarms_eq_iff] at alarms
  obtain ⟨-, reported, -, warnWatch, tripWatch⟩ := measures
  obtain ⟨warn, trip, inhibit⟩ := alarms
  exact ⟨reported, applied, warn, trip, inhibit, warnWatch, tripWatch⟩

/-- The tension that a plain sample reports is the one of R24. -/
theorem read_reported (s : State) (n : LineNo) (sample : BitVec 12) (pins : SwitchPins) :
    ((s.line n).read pins (loadOf sample (s.setup n).zeroOffset)).tension.reported = s.reportedNext n sample :=
  (reportedNext_eq s n sample).symm

/-- The line of a plain sample event. -/
theorem plainSample_line {s : State} {n : LineNo} {sample : BitVec 12} {pins : SwitchPins}
    (plain : s.plainSample n sample pins = true) :
    (s.sampleEvent n sample pins).line n
      = (((s.line n).plain pins true).evaluated s.berth.stopped (loadOf sample (s.setup n).zeroOffset)).guarded.close true := by
  obtain ⟨-, fitted, stands, valid, settled⟩ := (plainSample_iff s n sample pins).1 plain
  rw [sampleEvent_sampled fitted stands, Line.sampled_plain settled valid]

/-- The line of a plain sample event, where it was not LOCKED before. -/
theorem plainSample_line_unlocked {s : State} {n : LineNo} {sample : BitVec 12} {pins : SwitchPins} {e : Line}
    (plain : s.plainSample n sample pins = true) (unlocked : (s.line n).control.state ≠ .locked)
    (report : ((s.line n).read pins (loadOf sample (s.setup n).zeroOffset)).tensionReport s.berth.stopped .none = e) :
    (s.sampleEvent n sample pins).line n = e.guarded.close true := by
  rw [plainSample_line plain, evaluated_unlocked (l := (s.line n).plain pins true) _ _ unlocked, ← report]
  rfl

/-- At T of at most W the sample leaves WARN (R84, R85). -/
theorem plainSample_has_warn {s : State} {n : LineNo} {sample : BitVec 12} {pins : SwitchPins}
    (plain : s.plainSample n sample pins = true) (order : (s.line n).applied.warn < (s.line n).applied.trip)
    (le : s.reportedNext n sample ≤ (s.line n).applied.warn) :
    ((s.sampleEvent n sample pins).line n).has .warn = (s.line n).has .warn := by
  obtain ⟨reported, applied, warn, -, -, -, -⟩ :=
    evaluated_kept s.berth.stopped (loadOf sample (s.setup n).zeroOffset) pins (s.line n)
  rw [read_reported] at reported
  rw [plainSample_line plain, Line.close_has_warn, Line.guarded_quiet (by rw [reported, applied]; exact le)
    (by rw [applied]; exact order)]
  exact warn

/-- How the sample of a line that was not LOCKED ends after its tension report, the trip watch neither firing nor standing:
`v` is the line that has taken the load, `f` the line after the event. -/
structure SampleEnds (stopped : Bool) (v f : Line) : Prop where
  still : ∀ {e : Line}, v.tensionReport stopped .none = e → e.control.state ≠ .starting →
    e.control.state.drivePowered = false → f.control = e.control.warned (f.has .warn)
  quiet : ∀ {e : Line}, v.tensionReport stopped .none = e → v.tension.reported ≤ v.applied.warn →
    f = (e.setWatches 0 0).close true
  slacking : ∀ {e : Line}, v.tensionReport stopped .none = e → e.control.state = .slacking →
    f.control
      = if e.applied.stallWindow ≤ e.control.stallCounter + 1 then
          (e.faultedBy .stall .stall).control.warned (f.has .warn)
        else e.stalling.control.warned (f.has .warn)

theorem SampleEnds.of_report {stopped : Bool} {v : Line} (calm : v.calm) (order : v.applied.warn < v.applied.trip) :
    SampleEnds stopped v ((v.tensionReport stopped .none).guarded.close true) := by
  have after := Line.calm_report calm stopped .none
  have reported := ((Line.measures_eq_iff _ _).1 (Line.tensionReport_measures stopped .none v)).2.1
  have applied : (v.tensionReport stopped .none).applied = v.applied :=
    congrArg Prod.fst (Line.tensionReport_profiles stopped .none v)
  refine ⟨fun report starting still => ?_, fun report le => ?_, fun report state => ?_⟩
  all_goals subst report
  · exact Line.ends_still after starting still
  · exact Line.ends_quiet (by rw [reported, applied]; exact le) (by rw [applied]; exact order)
  · exact Line.ends_slacking after state

theorem plainSample_ends {s : State} {n : LineNo} {sample : BitVec 12} {pins : SwitchPins}
    (plain : s.plainSample n sample pins = true)
    (calm : (s.line n).has .warn = true → s.reportedNext n sample ≤ (s.line n).applied.trip
      ∨ (s.line n).protection.tripWatch + 1 < (s.line n).applied.tripDwell)
    (taken : profileTaken (s.line n).applied = true) (unlocked : (s.line n).control.state ≠ .locked) :
    SampleEnds s.berth.stopped ((s.line n).read pins (loadOf sample (s.setup n).zeroOffset))
      ((s.sampleEvent n sample pins).line n) := by
  obtain ⟨-, -, -, -, -, trip, -⟩ := profileTaken_order taken
  rw [plainSample_line_unlocked plain unlocked rfl]
  refine .of_report ?_ trip
  unfold Line.calm
  rw [read_reported]
  exact calm

end Sys2Proof.Machine

namespace Sys2Proof

open Machine

/-- Settles O14: the tension report of each state (`tensionReport_hauling` and its like), and what the protection stage and
the close leave of it (`Line.ends_still`, `Line.ends_slacking`, `Line.ends_quiet`). -/
theorem tensionReportEffects : Obligations.TensionReportEffects := by
  unfold Obligations.TensionReportEffects
  intro n sample pins s l p T warned
  refine ⟨fun plain calm taken below => ?counting, fun plain calm taken full => ?stalled,
    fun running fitted stands settled counting invalid full => ?invalid⟩
  case counting =>
    have warnKept := plainSample_has_warn plain (profileTaken_order taken).2.2.2.2.2.1
    have ends := plainSample_ends plain calm taken
    let v := l.read pins (loadOf sample (s.setup n).zeroOffset)
    have reads : v.tension.reported = T := read_reported s n sample pins
    obtain ⟨slackRecover, recoverLock, lockHold, holdRender, renderWarn, -, snagWarn⟩ := profileTaken_order taken
    refine ⟨_, whileRunning_running _ ((plainSample_iff s n sample pins).1 plain).1, ?_⟩
    generalize s.sampleEvent n sample pins = t at *
    have atMost {a : Nat} (le : T ≤ a) : v.tension.reported ≤ a := reads.trans_le le
    have above {a : Nat} (lt : a < T) : ¬v.tension.reported ≤ a := not_le.2 (reads ▸ lt)
    refine ⟨warnKept, fun state le => ?locks, fun state lt => ?hauls, fun state le => ?renderEnds, fun state lt => ?renders,
      fun state le => ?recoverEnds, fun state lt => ?recovers, fun state lt => ?snags, fun state le => ?drives,
      fun state le long => ?deployed, fun start state begun le below' => ?slack, fun state lt => ?tight,
      fun state le returns => ?slipHeld, fun c state le returns => ?slipFaulted, fun state => ?stands⟩
    case locks =>
      have report := (tensionReport_hauling (l := v) (stopped := s.berth.stopped) (o := .none) state).trans
        (if_pos (le.trans reads.ge))
      rw [(ends (state.trans_ne nofun)).still report nofun rfl]
      rfl
    case hauls =>
      have report := (tensionReport_hauling (l := v) (stopped := s.berth.stopped) (o := .none) state).trans
        (if_neg (not_le.2 (reads.trans_lt lt)))
      rw [(ends (state.trans_ne nofun)).quiet report (atMost (show T ≤ p.warn by omega)), Line.close_counting (l := v.setWatches 0 0) true
        (congrArg LineState.drivePowered state) (fun h => nomatch state.symm.trans h) below]
      rfl
    case renderEnds =>
      have report := (tensionReport_rendering (l := v) (stopped := s.berth.stopped) (o := .none) state).trans
        (if_pos (atMost le))
      rw [(ends (state.trans_ne nofun)).quiet report (atMost (show T ≤ p.warn by omega)),
        Line.close_still (l := (v.idleIn .locked).setWatches 0 0) true nofun rfl]
      rfl
    case renders =>
      have report := (tensionReport_rendering (l := v) (stopped := s.berth.stopped) (o := .none) state).trans
        (if_neg (above lt))
      rw [(ends (state.trans_ne nofun)).still report (state.trans_ne nofun) (congrArg LineState.drivePowered state)]
      exact state
    case recoverEnds =>
      have report := (tensionReport_recovering (l := v) (stopped := s.berth.stopped) (o := .none) state).trans
        (if_pos (le.trans reads.ge))
      rw [(ends (state.trans_ne nofun)).still report nofun rfl]
      rfl
    case recovers =>
      have report := (tensionReport_recovering (l := v) (stopped := s.berth.stopped) (o := .none) state).trans
        (if_neg (not_le.2 (reads.trans_lt lt)))
      rw [(ends (state.trans_ne nofun)).quiet report (atMost (show T ≤ p.warn by omega)), Line.close_counting (l := v.setWatches 0 0) true
        (congrArg LineState.drivePowered state) (fun h => nomatch state.symm.trans h) below]
      exact ⟨state, rfl⟩
    case snags =>
      have report := (tensionReport_snag (l := v) (stopped := s.berth.stopped) (o := .none) state).trans
        (if_pos (lt.trans_eq reads.symm))
      rw [(ends (state.elim (·.trans_ne nofun) (·.trans_ne nofun))).still report nofun rfl]
      rfl
    case drives =>
      have moving : l.control.state = .deploying ∨ l.control.state = .rewinding := state.imp_left And.left
      have report := (tensionReport_snag (l := v) (stopped := s.berth.stopped) (o := .none) moving).trans
        (if_neg (not_lt.2 (atMost le)))
      have driven : l.control.state.drivePowered = true := by rcases moving with h | h <;> rw [h] <;> rfl
      have short (deploying : l.control.state = .deploying) : l.sense.payout < l.applied.deployLength :=
        state.elim And.right fun h => nomatch deploying.symm.trans h
      rw [(ends (moving.elim (·.trans_ne nofun) (·.trans_ne nofun))).quiet report (atMost (show T ≤ p.warn by omega)),
        Line.close_counting (l := v.setWatches 0 0) true driven short below]
      rfl
    case deployed =>
      have report := (tensionReport_snag (l := v) (stopped := s.berth.stopped) (o := .none) (.inl state)).trans
        (if_neg (not_lt.2 (atMost le)))
      rw [(ends (state.trans_ne nofun)).quiet report (atMost (show T ≤ p.warn by omega)),
        Line.close_deployed (l := v.setWatches 0 0) true state long]
      rfl
    case slack =>
      have report := (tensionReport_slacking (l := v) (stopped := s.berth.stopped) (o := .none) state).trans
        (slackReport_slack (l := v) (atMost le) begun below')
      split
      next opens =>
        rw [(ends (state.trans_ne nofun)).quiet (report.trans (if_pos opens)) (atMost (show T ≤ p.warn by omega)),
          Line.close_still (l := (v.placed .opening _ _ _ _ _).setWatches 0 0) true nofun rfl]
        rfl
      next waits =>
        rw [(ends (state.trans_ne nofun)).quiet (report.trans (if_neg waits)) (atMost (show T ≤ p.warn by omega)),
          Line.close_counting (l := (v.slackWatched _).setWatches 0 0) true (congrArg LineState.drivePowered state)
            (fun h => nomatch state.symm.trans h) below]
        exact ⟨state, rfl⟩
    case tight =>
      have report := (tensionReport_slacking (l := v) (stopped := s.berth.stopped) (o := .none) state).trans
        (slackReport_tight (l := v) (lt.trans_eq reads.symm))
      rw [(ends (state.trans_ne nofun)).slacking report state]
      have waits : ¬(v.slackWatched 0).applied.stallWindow ≤ (v.slackWatched 0).control.stallCounter + 1 := not_le.2 below
      rw [if_neg waits]
      exact ⟨state, rfl⟩
    case slipHeld =>
      have report := tensionReport_slipHeld (l := v) (stopped := s.berth.stopped) (o := .none) state returns (atMost le)
      rw [(ends (state.trans_ne nofun)).quiet report (atMost le),
        Line.close_still (l := (v.idleIn .held).setWatches 0 0) true nofun rfl]
      rfl
    case slipFaulted =>
      have report := tensionReport_slipFaulted (l := v) (stopped := s.berth.stopped) (o := .none) state returns (atMost le)
      rw [enterFaulted_eq] at report
      rw [(ends (state.trans_ne nofun)).quiet report (atMost le),
        Line.close_still (l := ((v.idleIn .faulted).caused (some c)).setWatches 0 0) true nofun rfl]
      exact ⟨rfl, rfl, rfl, rfl⟩
    case stands =>
      have report : v.tensionReport s.berth.stopped .none = v := by
        rcases state with state | ⟨state, lt⟩
        · exact tensionReport_other (l := v) (List.mem_append_left [LineState.starting, .notFitted] state)
        · exact tensionReport_slips (l := v) state (lt.trans_eq reads.symm)
      have rests : l.control.state ≠ .locked ∧ l.control.state ≠ .starting ∧ l.control.state.drivePowered = false := by
        generalize l.control.state = x at state
        cases x <;> simp at state <;> decide
      rw [(ends rests.1).still report rests.2.1 rests.2.2]
      rfl
  case stalled =>
    have ends := plainSample_ends plain calm taken
    let v := l.read pins (loadOf sample (s.setup n).zeroOffset)
    have reads : v.tension.reported = T := read_reported s n sample pins
    obtain ⟨slackRecover, recoverLock, lockHold, holdRender, renderWarn, -, snagWarn⟩ := profileTaken_order taken
    refine ⟨_, whileRunning_running _ ((plainSample_iff s n sample pins).1 plain).1, ?_⟩
    generalize s.sampleEvent n sample pins = t at *
    have atMost {a : Nat} (le : T ≤ a) : v.tension.reported ≤ a := reads.trans_le le
    refine ⟨fun state le => ?locks, fun state le => ?recoverEnds, fun state lt => ?inward, fun state le => ?rewinds,
      fun state lt => ?tight, fun start state begun le below => ?slack, fun state le short => ?deploys,
      fun state le long => ?deployed, fun state lt => ?snags⟩
    case locks =>
      have report := (tensionReport_hauling (l := v) (stopped := s.berth.stopped) (o := .none) state).trans
        (if_pos (le.trans reads.ge))
      rw [(ends (state.trans_ne nofun)).still report nofun rfl]
      rfl
    case recoverEnds =>
      have report := (tensionReport_recovering (l := v) (stopped := s.berth.stopped) (o := .none) state).trans
        (if_pos (le.trans reads.ge))
      rw [(ends (state.trans_ne nofun)).still report nofun rfl]
      rfl
    case inward =>
      have report : v.tensionReport s.berth.stopped .none = v := by
        rcases state with state | state
        · exact (tensionReport_hauling (l := v) state).trans (if_neg (not_le.2 (reads.trans_lt lt)))
        · exact (tensionReport_recovering (l := v) state).trans (if_neg (not_le.2 (reads.trans_lt lt)))
      rw [(ends (state.elim (·.trans_ne nofun) (·.trans_ne nofun))).quiet report (atMost (show T ≤ p.warn by omega)),
        Line.close_stalled (l := v.setWatches 0 0) true
          (state.elim (congrArg LineState.drivePowered ·) (congrArg LineState.drivePowered ·))
          (fun h => state.elim (fun state => nomatch state.symm.trans h) fun state => nomatch state.symm.trans h) full]
      rfl
    case rewinds =>
      have report := (tensionReport_snag (l := v) (stopped := s.berth.stopped) (o := .none) (.inr state)).trans
        (if_neg (not_lt.2 (atMost le)))
      rw [(ends (state.trans_ne nofun)).quiet report (atMost (show T ≤ p.warn by omega)),
        Line.close_stalled (l := v.setWatches 0 0) true (congrArg LineState.drivePowered state)
          (fun h => nomatch state.symm.trans h) full]
      rfl
    case tight =>
      have report := (tensionReport_slacking (l := v) (stopped := s.berth.stopped) (o := .none) state).trans
        (slackReport_tight (l := v) (lt.trans_eq reads.symm))
      have stalls : (v.slackWatched 0).applied.stallWindow ≤ (v.slackWatched 0).control.stallCounter + 1 := full
      rw [(ends (state.trans_ne nofun)).slacking report state, if_pos stalls]
      rfl
    case slack =>
      have report := (tensionReport_slacking (l := v) (stopped := s.berth.stopped) (o := .none) state).trans
        (slackReport_slack (l := v) (atMost le) begun below)
      split
      next opens =>
        rw [(ends (state.trans_ne nofun)).quiet (report.trans (if_pos opens)) (atMost (show T ≤ p.warn by omega)),
          Line.close_still (l := (v.placed .opening _ _ _ _ _).setWatches 0 0) true nofun rfl]
        rfl
      next waits =>
        rw [(ends (state.trans_ne nofun)).quiet (report.trans (if_neg waits)) (atMost (show T ≤ p.warn by omega)),
          Line.close_stalled (l := (v.slackWatched _).setWatches 0 0) true (congrArg LineState.drivePowered state)
            (fun h => nomatch state.symm.trans h) full]
        rfl
    case deploys =>
      have report := (tensionReport_snag (l := v) (stopped := s.berth.stopped) (o := .none) (.inl state)).trans
        (if_neg (not_lt.2 (atMost le)))
      rw [(ends (state.trans_ne nofun)).quiet report (atMost (show T ≤ p.warn by omega)),
        Line.close_stalled (l := v.setWatches 0 0) true (congrArg LineState.drivePowered state) (fun _ => short) full]
      rfl
    case deployed =>
      have report := (tensionReport_snag (l := v) (stopped := s.berth.stopped) (o := .none) (.inl state)).trans
        (if_neg (not_lt.2 (atMost le)))
      rw [(ends (state.trans_ne nofun)).quiet report (atMost (show T ≤ p.warn by omega)),
        Line.close_deployed (l := v.setWatches 0 0) true state long]
      rfl
    case snags =>
      have report := (tensionReport_snag (l := v) (stopped := s.berth.stopped) (o := .none) state).trans
        (if_pos (lt.trans_eq reads.symm))
      rw [(ends (state.elim (·.trans_ne nofun) (·.trans_ne nofun))).still report nofun rfl]
      rfl
  case invalid =>
    refine ⟨_, whileRunning_running _ running, fun state => ?_⟩
    have driven : l.control.state.drivePowered = true := by
      rcases state with state | ⟨state, -⟩
      · generalize l.control.state = x at state
        cases x <;> simp at state <;> rfl
      · exact congrArg LineState.drivePowered state
    have short (deploying : l.control.state = .deploying) : l.sense.payout < l.applied.deployLength :=
      state.elim (fun other => by rw [deploying] at other; simp at other) And.right
    rw [sampleEvent_sampled fitted stands, Line.sampled_invalid settled ((sampleValid_eq_false sample).2 invalid) counting,
      Line.close_stalled (l := l.plain pins false) true driven short full]
    rfl

end Sys2Proof

/-! PROOFS. Tending of a LOCKED line at a sample (R29, R31, R69 to R73): settles O13. -/

namespace Sys2Proof.Machine

/-- A line with its tending watch in a direction at a count. -/
def Line.tended (d : Option TendDir) (count : Nat) (l : Line) : Line :=
  { l with tension := { l.tension with tendDir := d, tendCount := count } }

section
variable {l : Line} (stopped : Bool) (load : Nat) (locked : l.control.state = .locked)
include locked

/-- The tending watch of a LOCKED line is stepped before its tension report (R31, R32). -/
theorem evaluated_locked :
    l.evaluated stopped load
      = Line.tensionReport stopped ((l.measured load).tension.tendStep l.applied).2
          { l with tension := ((l.measured load).tension.tendStep l.applied).1 } := by
  unfold Line.evaluated
  dsimp only
  rw [if_pos locked]
  rfl

theorem tensionReport_locked_none (d : Option TendDir) (count : Nat) :
    (l.tended d count).tensionReport stopped .none = l.tended d count := by
  unfold Line.tensionReport
  rw [show (l.tended d count).control.state = .locked from locked]

/-- Between the thresholds the tending watch returns to 0 (R31). -/
theorem evaluated_between (above : l.applied.recover ≤ (l.measured load).tension.reported)
    (below : (l.measured load).tension.reported ≤ l.applied.render) :
    l.evaluated stopped load = (l.measured load).tended none 0 := by
  have step : (l.measured load).tension.tendStep l.applied
      = ({ (l.measured load).tension with tendDir := none, tendCount := 0 }, .none) :=
    (if_neg (not_lt.2 below)).trans (if_neg (not_lt.2 above))
  rw [evaluated_locked stopped load locked, step]
  exact tensionReport_locked_none (l := l.measured load) stopped locked none 0

/-- A watch short of its dwell counts on (R31). -/
theorem evaluated_render_short (met : l.applied.render < (l.measured load).tension.reported)
    (short : l.tension.countIn .render + 1 < l.applied.renderDwell) :
    l.evaluated stopped load = (l.measured load).tended (some .render) (l.tension.countIn .render + 1) := by
  have step : (l.measured load).tension.tendStep l.applied
      = ({ (l.measured load).tension with tendDir := some .render, tendCount := l.tension.countIn .render + 1 }, .none) := by
    refine (if_pos met).trans ?_
    rw [show (l.measured load).tension.countIn .render = l.tension.countIn .render from rfl, watchStep_short short]
    rfl
  rw [evaluated_locked stopped load locked, step]
  exact tensionReport_locked_none (l := l.measured load) stopped locked _ _

theorem evaluated_recover_short (met : (l.measured load).tension.reported < l.applied.recover)
    (apart : l.applied.recover ≤ l.applied.render) (short : l.tension.countIn .recover + 1 < l.applied.recoverDwell) :
    l.evaluated stopped load = (l.measured load).tended (some .recover) (l.tension.countIn .recover + 1) := by
  have step : (l.measured load).tension.tendStep l.applied
      = ({ (l.measured load).tension with tendDir := some .recover, tendCount := l.tension.countIn .recover + 1 }, .none) := by
    refine (if_neg (not_lt.2 (met.le.trans apart))).trans ((if_pos met).trans ?_)
    rw [show (l.measured load).tension.countIn .recover = l.tension.countIn .recover from rfl, watchStep_short short]
    rfl
  rw [evaluated_locked stopped load locked, step]
  exact tensionReport_locked_none (l := l.measured load) stopped locked _ _

/-- A watch that fires or stands is put to the render entry test (R70). -/
theorem evaluated_render_full (met : l.applied.render < (l.measured load).tension.reported)
    (full : l.applied.renderDwell ≤ l.tension.countIn .render + 1)
    (below : l.tension.countIn .render ≤ l.applied.renderDwell) :
    l.evaluated stopped load
      = ((l.measured load).tended (some .render) l.applied.renderDwell).renderEntry
          (l.tension.countIn .render + 1 = l.applied.renderDwell) := by
  have step : (l.measured load).tension.tendStep l.applied
      = ({ (l.measured load).tension with tendDir := some .render, tendCount := l.applied.renderDwell },
        tendOutcome .render (if l.tension.countIn .render + 1 = l.applied.renderDwell then .fired else .standing)) := by
    refine (if_pos met).trans ?_
    rw [show (l.measured load).tension.countIn .render = l.tension.countIn .render from rfl, watchStep_full full below]
  rw [evaluated_locked stopped load locked, step]
  unfold Line.tensionReport
  dsimp only
  rw [locked]
  by_cases fires : l.tension.countIn .render + 1 = l.applied.renderDwell
  · rw [if_pos fires, decide_eq_true fires]
    rfl
  · rw [if_neg fires, decide_eq_false fires]
    rfl

/-- A watch that fires or stands is put to the recover entry test (R71). -/
theorem evaluated_recover_full (met : (l.measured load).tension.reported < l.applied.recover)
    (apart : l.applied.recover ≤ l.applied.render) (full : l.applied.recoverDwell ≤ l.tension.countIn .recover + 1)
    (below : l.tension.countIn .recover ≤ l.applied.recoverDwell) :
    l.evaluated stopped load
      = ((l.measured load).tended (some .recover) l.applied.recoverDwell).recoverEntry stopped
          (l.tension.countIn .recover + 1 = l.applied.recoverDwell) := by
  have step : (l.measured load).tension.tendStep l.applied
      = ({ (l.measured load).tension with tendDir := some .recover, tendCount := l.applied.recoverDwell },
        tendOutcome .recover (if l.tension.countIn .recover + 1 = l.applied.recoverDwell then .fired else .standing)) := by
    refine (if_neg (not_lt.2 (met.le.trans apart))).trans ((if_pos met).trans ?_)
    rw [show (l.measured load).tension.countIn .recover = l.tension.countIn .recover from rfl, watchStep_full full below]
  rw [evaluated_locked stopped load locked, step]
  unfold Line.tensionReport
  dsimp only
  rw [locked]
  by_cases fires : l.tension.countIn .recover + 1 = l.applied.recoverDwell
  · rw [if_pos fires, decide_eq_true fires]
    rfl
  · rw [if_neg fires, decide_eq_false fires]
    rfl

end

section
variable {l : Line} {mark : Int} (marked : l.control.lockMark = some mark)
include marked

theorem renderLimit_marked : l.renderLimit = decide (l.sense.payout - mark < l.applied.allowance) := by
  rw [Line.renderLimit, Line.excursion, marked]
  rfl

theorem recoverLimit_marked : l.recoverLimit = decide (-(l.applied.allowance : Int) < l.sense.payout - mark) := by
  rw [Line.recoverLimit, Line.excursion, marked]
  rfl

theorem renderEntry_within (h : l.sense.payout - mark < l.applied.allowance) (fired : Bool) :
    l.renderEntry fired = l.placed .rendering {} 0 .slip .none none := by
  unfold Line.renderEntry
  rw [renderLimit_marked marked, decide_eq_true h, if_pos rfl]
  exact enter_eq_placed _ _ _ rfl rfl rfl rfl

theorem renderEntry_beyond (h : l.applied.allowance ≤ l.sense.payout - mark) (fired : Bool) :
    l.renderEntry fired = if fired then l.latch .allow else l := by
  unfold Line.renderEntry
  rw [renderLimit_marked marked, decide_eq_false (not_lt.2 h), if_neg Bool.false_ne_true]

theorem recoverEntry_within {stopped : Bool} (h : -(l.applied.allowance : Int) < l.sense.payout - mark)
    (free : l.protection.inhibit = false) (going : stopped = false) (fired : Bool) :
    l.recoverEntry stopped fired = l.placed .recovering {} (-(l.applied.recoverSpeed : Int)) .release .none none := by
  unfold Line.recoverEntry
  rw [recoverLimit_marked marked, decide_eq_true h, free, going]
  exact enter_eq_placed _ _ _ rfl rfl rfl rfl

/-- A recover entry that is blocked, or beyond the limit, leaves the line LOCKED; ALLOW latches where the watch fires beyond
the limit (R71, R73). -/
theorem recoverEntry_blocked {stopped : Bool}
    (h : l.sense.payout - mark ≤ -(l.applied.allowance : Int) ∨ l.protection.inhibit = true ∨ stopped = true) (fired : Bool) :
    l.recoverEntry stopped fired
      = if fired = true ∧ l.sense.payout - mark ≤ -(l.applied.allowance : Int) then l.latch .allow else l := by
  unfold Line.recoverEntry
  rw [recoverLimit_marked marked]
  by_cases beyond : l.sense.payout - mark ≤ -(l.applied.allowance : Int)
  · rw [decide_eq_false (not_lt.2 beyond), if_pos (by rfl)]
    exact ite_congr (propext ⟨fun f => ⟨f, beyond⟩, And.left⟩) (fun _ => rfl) fun _ => rfl
  · have blocked : (l.protection.inhibit || stopped) = true := by simpa [beyond] using h
    have latches : ¬(fired = true ∧ l.sense.payout - mark ≤ -(l.applied.allowance : Int)) := fun f => beyond f.2
    rw [decide_eq_true (lt_of_not_ge beyond), blocked, if_neg latches]
    rfl

end

/-- The Tension Evaluator's items after a sample at which the trip watch neither fires nor stands. -/
theorem Line.ends_tension {e : Line} (calm : e.calm) (hauling : e.control.state ≠ .hauling)
    (recovering : e.control.state ≠ .recovering) : (e.guarded.close true).tension = e.tension := by
  obtain ⟨-, -, tension, -⟩ := Line.guarded_calm calm hauling recovering
  rw [Line.close_tension, tension]

end Sys2Proof.Machine

namespace Sys2Proof

open Machine

/-- Settles O13: the tending watch of a LOCKED line (`evaluated_between` and its like) with the entry tests, and what the
protection stage and the close leave of them. -/
theorem tendingEntry : Obligations.TendingEntry := by
  unfold Obligations.TendingEntry
  intro n sample pins s mark l p T e count plain calm taken locked marked renderBelow recoverBelow
  obtain ⟨slackRecover, recoverLock, lockHold, holdRender, renderWarn, warnTrip, snagWarn⟩ := profileTaken_order taken
  refine ⟨_, whileRunning_running _ ((plainSample_iff s n sample pins).1 plain).1, ?_⟩
  have warnKept := plainSample_has_warn plain warnTrip
  have line := plainSample_line plain
  have kept := evaluated_kept s.berth.stopped (loadOf sample (s.setup n).zeroOffset) pins l
  generalize s.sampleEvent n sample pins = t at *
  intro warned
  let m := l.plain pins true
  let v := l.read pins (loadOf sample (s.setup n).zeroOffset)
  have reads : v.tension.reported = T := read_reported s n sample pins
  have below {a : Nat} (le : T ≤ a) : v.tension.reported ≤ a := reads.trans_le le
  have above {a : Nat} (lt : a < T) : a < v.tension.reported := lt.trans_eq reads.symm
  have countBelow (d : TendDir) {dwell : Nat} (h : l.tension.tendDir = some d → l.tension.tendCount ≤ dwell) :
      m.tension.countIn d ≤ dwell := by
    unfold Tension.countIn
    split
    next same => exact h same
    next => exact Nat.zero_le dwell
  -- How the sample ends, from the line `u` after its tension report.
  have still {u : Line} (report : m.evaluated s.berth.stopped (loadOf sample (s.setup n).zeroOffset) = u)
      (starting : u.control.state ≠ .starting) (undriven : u.control.state.drivePowered = false) :
      (t.line n).control = u.control.warned ((t.line n).has .warn) ∧ (t.line n).tension = u.tension := by
    have after : u.calm := by
      rw [← report]
      obtain ⟨reported, applied, warn, -, -, -, tripWatch⟩ := kept
      unfold Line.calm
      rw [reported, applied, warn, tripWatch, reads]
      exact calm
    have hauling : u.control.state ≠ .hauling := fun h => by rw [h] at undriven; cases undriven
    have recovering : u.control.state ≠ .recovering := fun h => by rw [h] at undriven; cases undriven
    rw [line, report]
    exact ⟨Line.ends_still after starting undriven, Line.ends_tension after hauling recovering⟩
  have quiet {u : Line} (report : m.evaluated s.berth.stopped (loadOf sample (s.setup n).zeroOffset) = u)
      (le : T ≤ p.warn) : t.line n = (u.setWatches 0 0).close true := by
    obtain ⟨reported, applied, -⟩ := kept
    rw [line, report, Line.ends_quiet]
    · rw [← report, reported, applied, reads]
      exact le
    · rw [← report, applied]
      exact warnTrip
  refine ⟨warnKept, fun ge le => ?between, fun met short => ?renderShort, fun met full within => ?renders,
    fun met full beyond => ?renderBlocked, fun met short => ?recoverShort, fun met full within free going => ?recovers,
    fun met full blocked => ?recoverBlocked⟩
  case between =>
    have report : m.evaluated s.berth.stopped (loadOf sample (s.setup n).zeroOffset) = v.tended none 0 :=
      evaluated_between (l := m) _ _ locked (ge.trans_eq reads.symm) (below le)
    have state : ((v.tended none 0).setWatches 0 0).control.state = .locked := locked
    rw [quiet report (le.trans renderWarn), Line.close_still true (state.trans_ne nofun) (congrArg LineState.drivePowered state)]
    exact ⟨locked, rfl, rfl, rfl⟩
  case renderShort =>
    have report : m.evaluated s.berth.stopped (loadOf sample (s.setup n).zeroOffset)
        = v.tended (some .render) (count .render) := evaluated_render_short (l := m) _ _ locked (above met) short
    obtain ⟨control, tension⟩ := still report (locked.trans_ne nofun) (congrArg LineState.drivePowered locked)
    rw [control, tension]
    exact ⟨locked, rfl, rfl, rfl⟩
  case renders =>
    have report := (evaluated_render_full (l := m) s.berth.stopped (loadOf sample (s.setup n).zeroOffset) locked (above met)
      full (countBelow .render renderBelow)).trans (renderEntry_within (l := v.tended (some .render) p.renderDwell) marked within _)
    obtain ⟨control, tension⟩ := still report nofun rfl
    rw [control, tension]
    have leaves : (v.tended (some .render) p.renderDwell).control.state = .locked ∨ LineState.rendering = .locked := .inl locked
    refine ⟨rfl, ?_⟩
    unfold Line.placed
    dsimp only
    rw [if_pos leaves]
    exact ⟨rfl, rfl⟩
  case renderBlocked =>
    have report := (evaluated_render_full (l := m) s.berth.stopped (loadOf sample (s.setup n).zeroOffset) locked (above met)
      full (countBelow .render renderBelow)).trans (renderEntry_beyond (l := v.tended (some .render) p.renderDwell) marked beyond _)
    by_cases fires : count .render = p.renderDwell
    · have latches := report.trans (if_pos (decide_eq_true fires))
      obtain ⟨control, tension⟩ := still latches (locked.trans_ne nofun) (congrArg LineState.drivePowered locked)
      rw [control, tension, if_pos fires]
      exact ⟨locked, rfl, rfl, rfl⟩
    · have stands := report.trans (if_neg fun f => fires (of_decide_eq_true f))
      obtain ⟨control, tension⟩ := still stands (locked.trans_ne nofun) (congrArg LineState.drivePowered locked)
      rw [control, tension, if_neg fires]
      exact ⟨locked, rfl, rfl, rfl⟩
  case recoverShort =>
    have report : m.evaluated s.berth.stopped (loadOf sample (s.setup n).zeroOffset)
        = v.tended (some .recover) (count .recover) :=
      evaluated_recover_short (l := m) _ _ locked (reads.trans_lt met) (show p.recover ≤ p.render by omega) short
    have state : ((v.tended (some .recover) (count .recover)).setWatches 0 0).control.state = .locked := locked
    rw [quiet report (show T ≤ p.warn by omega),
      Line.close_still true (state.trans_ne nofun) (congrArg LineState.drivePowered state)]
    exact ⟨locked, rfl, rfl, rfl⟩
  case recovers =>
    have report := (evaluated_recover_full (l := m) s.berth.stopped (loadOf sample (s.setup n).zeroOffset) locked
      (reads.trans_lt met) (show p.recover ≤ p.render by omega) full (countBelow .recover recoverBelow)).trans
      (recoverEntry_within (l := v.tended (some .recover) p.recoverDwell) marked within free going _)
    rw [quiet report (show T ≤ p.warn by omega), Line.close_counting
      (l := ((v.tended (some .recover) p.recoverDwell).placed .recovering _ _ _ _ _).setWatches 0 0) true rfl
      (fun h => nomatch h) (profileTaken_stallWindow taken)]
    exact ⟨rfl, rfl, rfl, marked, rfl⟩
  case recoverBlocked =>
    have report := (evaluated_recover_full (l := m) s.berth.stopped (loadOf sample (s.setup n).zeroOffset) locked
      (reads.trans_lt met) (show p.recover ≤ p.render by omega) full (countBelow .recover recoverBelow)).trans
      (recoverEntry_blocked (l := v.tended (some .recover) p.recoverDwell) marked blocked _)
    by_cases latches : count .recover = p.recoverDwell ∧ e ≤ -(p.allowance : Int)
    · have state : (((v.tended (some .recover) p.recoverDwell).latch .allow).setWatches 0 0).control.state = .locked := locked
      rw [quiet (report.trans (if_pos ⟨decide_eq_true latches.1, latches.2⟩)) (show T ≤ p.warn by omega),
        Line.close_still true (state.trans_ne nofun) (congrArg LineState.drivePowered state), if_pos latches]
      exact ⟨locked, rfl, rfl, rfl⟩
    · have state : ((v.tended (some .recover) p.recoverDwell).setWatches 0 0).control.state = .locked := locked
      rw [quiet (report.trans (if_neg fun f => latches ⟨of_decide_eq_true f.1, f.2⟩)) (show T ≤ p.warn by omega),
        Line.close_still true (state.trans_ne nofun) (congrArg LineState.drivePowered state), if_neg latches]
      exact ⟨locked, rfl, rfl, rfl⟩

end Sys2Proof

/-! PROOFS. The trip watch, the TRIP latch and the trip report (R29, R86 to R88): settles O18. -/

namespace Sys2Proof.Machine

section
variable {l : Line}

/-! ### The trip report of each state -/

theorem tripReport_slips
    (h : l.control.state ∈ [LineState.hauling, .locked, .rendering, .recovering, .held, .slacking]) :
    l.tripReport = (l.latch .trip).placed .slipping {} 0 .slip .none none := by
  have unfaulted : l.control.state ≠ .faulted := fun x => by rw [x] at h; simp at h
  have slip : (l.latch .trip).slip = (l.latch .trip).placed .slipping {} 0 .slip .none none := by
    unfold Line.slip
    rw [if_neg (show (l.latch .trip).control.state ≠ .faulted from unfaulted)]
    exact enter_eq_placed _ _ _ rfl rfl rfl rfl
  unfold Line.tripReport
  generalize l.control.state = x at h
  cases x with
  | hauling | locked | rendering | recovering | held | slacking => exact slip
  | _ => simp at h

/-- A FAULTED line with its hook CLOSED slips, and carries its cause (R88). -/
theorem tripReport_carries {c : FaultCause} (h : l.control.state = .faulted) (cause : l.control.cause = some c)
    (closed : l.sense.hook = .closed) :
    l.tripReport = (l.latch .trip).placed .slipping { returnTo := some c } 0 .slip .none none := by
  have slip : (l.latch .trip).slip = (l.latch .trip).placed .slipping { returnTo := some c } 0 .slip .none none := by
    unfold Line.slip
    rw [if_pos (show (l.latch .trip).control.state = .faulted from h), show (l.latch .trip).control.cause = some c from cause]
    exact enter_eq_placed _ _ _ rfl rfl rfl rfl
  unfold Line.tripReport
  rw [h]
  exact (if_pos closed).trans slip

theorem tripReport_engaging (h : l.control.state = .engaging) :
    l.tripReport
      = { l.latch .trip with
          control := { (l.latch .trip).control with record := { l.control.record with tripDeferred := true } } } := by
  unfold Line.tripReport
  rw [h]
  rfl

theorem tripReport_latches
    (h : l.control.state ∈ [LineState.slipping, .opening, .starting, .notFitted, .stowed, .opened, .deploying, .rewinding]
      ∨ (l.control.state = .faulted ∧ l.sense.hook ≠ .closed)) : l.tripReport = l.latch .trip := by
  unfold Line.tripReport
  rcases h with h | ⟨h, away⟩
  · generalize l.control.state = x at h
    cases x with
    | slipping | opening | starting | notFitted | stowed | opened | deploying | rewinding => rfl
    | _ => simp at h
  · rw [h]
    exact if_neg away

/-- A trip report leaves no line hauling or recovering (R88). -/
theorem tripReport_still (l : Line) :
    l.tripReport.control.state ≠ .hauling ∧ l.tripReport.control.state ≠ .recovering := by
  have slips : (l.latch .trip).slip.control.state = .slipping := rfl
  unfold Line.tripReport
  generalize x_eq : l.control.state = x
  have latched : (l.latch .trip).control.state = x := x_eq
  cases x with
  | hauling | locked | rendering | recovering | held | slacking => exact ⟨nofun, nofun⟩
  | faulted =>
    dsimp only
    split
    · exact ⟨nofun, nofun⟩
    · rw [latched]; exact ⟨nofun, nofun⟩
  | _ =>
    dsimp only
    rw [latched]
    exact ⟨nofun, nofun⟩

/-! ### The trip watch -/

/-- The trip watch of a line steps (R29). -/
theorem guarded_tripWatch (warned : l.has .warn = true) (below : l.protection.tripWatch ≤ l.applied.tripDwell) :
    l.guarded.protection.warnWatch = 0
      ∧ l.guarded.protection.tripWatch
        = if l.applied.trip < l.tension.reported then min (l.protection.tripWatch + 1) l.applied.tripDwell else 0 := by
  have measures := Line.guarded_measures l
  rw [if_pos warned, Line.measures_eq_iff] at measures
  obtain ⟨-, -, -, warnWatch, tripWatch⟩ := measures
  refine ⟨warnWatch, tripWatch.trans ?_⟩
  change (watchStep _ _ _).1 = _
  by_cases met : l.applied.trip < l.tension.reported
  · rw [if_pos met, decide_eq_true met]
    by_cases short : l.protection.tripWatch + 1 < l.applied.tripDwell
    · rw [watchStep_short short, min_eq_left short.le]
    · rw [watchStep_full (not_lt.1 short) below, min_eq_right (not_lt.1 short)]
  · rw [if_neg met, decide_eq_false met, watchStep_unmet]

/-- The trip watch fires or stands at its dwell (R86). -/
def Line.trips (l : Line) : Prop :=
  l.applied.trip < l.tension.reported ∧ l.applied.tripDwell ≤ l.protection.tripWatch + 1

theorem guarded_untripped (warned : l.has .warn = true) (untripped : ¬l.trips) :
    ∃ w, l.guarded = l.setWatches 0 w := by
  have quiet : (watchStep l.applied.tripDwell l.protection.tripWatch (l.applied.trip < l.tension.reported)).2 = .none := by
    by_cases met : l.applied.trip < l.tension.reported
    · have short : l.protection.tripWatch + 1 < l.applied.tripDwell := lt_of_not_ge fun full => untripped ⟨met, full⟩
      rw [decide_eq_true met, watchStep_short short]
    · rw [decide_eq_false met, watchStep_unmet]
  refine ⟨(watchStep l.applied.tripDwell l.protection.tripWatch (l.applied.trip < l.tension.reported)).1, ?_⟩
  unfold Line.guarded
  rw [if_pos warned]
  exact if_pos quiet

/-- Where the trip watch fires or stands the line takes the trip report (R86, R88). -/
theorem guarded_tripped (warned : l.has .warn = true) (trips : l.trips)
    (below : l.protection.tripWatch ≤ l.applied.tripDwell) :
    l.guarded.control = (l.setWatches 0 l.applied.tripDwell).tripReport.control := by
  have step := watchStep_full trips.2 below
  rw [← decide_eq_true trips.1] at step
  obtain ⟨hauling, recovering⟩ := tripReport_still (l.setWatches 0 l.applied.tripDwell)
  unfold Line.guarded
  rw [if_pos warned]
  dsimp only
  rw [step, if_neg (by dsimp only; split <;> nofun)]
  split
  · rfl
  · rw [Line.inhibited_still hauling recovering]
    rfl

theorem tripReport_has_trip (l : Line) : l.tripReport.has .trip = true := by
  have latched : (l.latch .trip).has .trip = true := by rw [Line.has_latch]; simp
  have slips : (l.latch .trip).slip.has .trip = true := (Line.enter_has _ _ _ _).trans latched
  unfold Line.tripReport
  generalize l.control.state = x
  cases x with
  | hauling | locked | rendering | recovering | held | slacking => exact slips
  | faulted =>
    dsimp only
    split
    exacts [slips, latched]
  | _ => exact latched

end

/-- A tension report leaves a LOCKED line tending (R70, R71). -/
theorem tensionReport_locked {l : Line} {stopped : Bool} {o : TendOutcome} (locked : l.control.state = .locked) :
    (l.tensionReport stopped o).control.state = .locked ∨ (l.tensionReport stopped o).control.state = .rendering
      ∨ (l.tensionReport stopped o).control.state = .recovering := by
  have render (fired : Bool) : (l.renderEntry fired).control.state = .locked
      ∨ (l.renderEntry fired).control.state = .rendering ∨ (l.renderEntry fired).control.state = .recovering := by
    unfold Line.renderEntry
    split_ifs
    exacts [.inr (.inl rfl), .inl locked, .inl locked]
  have recover (fired : Bool) : (l.recoverEntry stopped fired).control.state = .locked
      ∨ (l.recoverEntry stopped fired).control.state = .rendering
      ∨ (l.recoverEntry stopped fired).control.state = .recovering := by
    unfold Line.recoverEntry
    split_ifs
    exacts [.inl locked, .inl locked, .inl locked, .inr (.inr rfl)]
  unfold Line.tensionReport
  rw [locked]
  dsimp only
  split
  · exact .inl locked
  · exact render _
  · exact render _
  · exact recover _
  · exact recover _

/-- A tension report above the trip threshold leaves an attached line attached and not slipping. -/
theorem tensionReport_attached {l : Line} {stopped : Bool} {o : TendOutcome}
    (h : l.control.state ∈ [LineState.hauling, .locked, .rendering, .recovering, .held, .slacking])
    (slack : l.applied.slack < l.tension.reported) :
    (l.tensionReport stopped o).control.state ∈ [LineState.hauling, .locked, .rendering, .recovering, .held, .slacking] := by
  generalize x_eq : l.control.state = x at h
  cases x with
  | hauling =>
    rw [tensionReport_hauling x_eq]
    split
    · exact mem_of_state (y := .locked) rfl (by decide)
    · rw [x_eq]; decide
  | rendering =>
    rw [tensionReport_rendering x_eq]
    split
    · exact mem_of_state (y := .locked) rfl (by decide)
    · rw [x_eq]; decide
  | recovering =>
    rw [tensionReport_recovering x_eq]
    split
    · exact mem_of_state (y := .locked) rfl (by decide)
    · rw [x_eq]; decide
  | slacking =>
    rw [tensionReport_slacking x_eq, slackReport_tight slack]
    exact mem_of_state x_eq (by decide)
  | held =>
    rw [tensionReport_other (mem_of_state x_eq (by decide)), x_eq]
    decide
  | locked =>
    exact (tensionReport_locked x_eq).elim (fun h => mem_of_state h (by decide))
      (·.elim (fun h => mem_of_state h (by decide)) fun h => mem_of_state h (by decide))
  | _ => simp at h

/-- The states that a tension report takes a line to, beside the one that it had (R28). -/
theorem tensionReport_state (l : Line) (stopped : Bool) (o : TendOutcome) :
    (l.tensionReport stopped o).control.state = l.control.state
      ∨ (l.tensionReport stopped o).control.state ∈ [LineState.locked, .rendering, .recovering, .faulted, .opening, .held] := by
  generalize x_eq : l.control.state = x
  cases x with
  | hauling =>
    rw [tensionReport_hauling x_eq]
    split
    exacts [.inr (mem_of_state (y := .locked) rfl (by decide)), .inl x_eq]
  | rendering =>
    rw [tensionReport_rendering x_eq]
    split
    exacts [.inr (mem_of_state (y := .locked) rfl (by decide)), .inl x_eq]
  | recovering =>
    rw [tensionReport_recovering x_eq]
    split
    exacts [.inr (mem_of_state (y := .locked) rfl (by decide)), .inl x_eq]
  | locked =>
    exact .inr ((tensionReport_locked x_eq).elim (fun h => mem_of_state h (by decide))
      (·.elim (fun h => mem_of_state h (by decide)) fun h => mem_of_state h (by decide)))
  | deploying =>
    rw [tensionReport_snag (.inl x_eq)]
    split
    exacts [.inr (mem_of_state (y := .faulted) rfl (by decide)), .inl x_eq]
  | rewinding =>
    rw [tensionReport_snag (.inr x_eq)]
    split
    exacts [.inr (mem_of_state (y := .faulted) rfl (by decide)), .inl x_eq]
  | slacking =>
    rw [tensionReport_slacking x_eq]
    unfold Line.slackReport
    dsimp only
    split
    exacts [.inr (mem_of_state (y := .opening) rfl (by decide)), .inl x_eq]
  | slipping =>
    by_cases le : l.tension.reported ≤ l.applied.warn
    · cases returns : l.control.record.returnTo with
      | none =>
        rw [tensionReport_slipHeld x_eq returns le]
        exact .inr (mem_of_state (y := .held) rfl (by decide))
      | some c =>
        rw [tensionReport_slipFaulted x_eq returns le]
        exact .inr (mem_of_state (y := .faulted) rfl (by decide))
    · rw [tensionReport_slips x_eq (not_le.1 le)]
      exact .inl x_eq
  | held | stowed | opened | engaging | opening | faulted | starting | notFitted =>
    rw [tensionReport_other (mem_of_state x_eq (by decide))]
    exact .inl x_eq

/-- No tension report brings a line to SLIPPING. -/
theorem tensionReport_unslipping {l : Line} (h : l.control.state ≠ .slipping) (stopped : Bool) (o : TendOutcome) :
    (l.tensionReport stopped o).control.state ≠ .slipping := by
  rcases tensionReport_state l stopped o with same | other
  · rw [same]
    exact h
  · exact fun slipping => absurd (slipping ▸ other) (by decide)

/-- The states that the close takes a line to, beside the one that it had (R39). -/
theorem close_state (fitted : Bool) (l : Line) :
    (l.close fitted).control.state = l.control.state
      ∨ (l.close fitted).control.state ∈ [LineState.notFitted, .faulted, .stowed, .opened, .held] := by
  by_cases starting : l.control.state = .starting
  · by_cases early : l.control.startingCount < 7
    · rw [Line.close_starting fitted starting early]
      exact .inl rfl
    · rw [Line.close_derived fitted starting (by omega)]
      unfold Line.derivedAs
      split_ifs
      exacts [.inr (mem_of_state (y := .notFitted) rfl (by decide)), .inr (mem_of_state (y := .faulted) rfl (by decide)),
        .inr (mem_of_state (y := .stowed) rfl (by decide)), .inr (mem_of_state (y := .opened) rfl (by decide)),
        .inr (mem_of_state (y := .held) rfl (by decide)), .inr (mem_of_state (y := .faulted) rfl (by decide))]
  · cases driven : l.control.state.drivePowered with
    | false =>
      rw [Line.close_still fitted starting driven]
      exact .inl rfl
    | true =>
      by_cases deployed : l.control.state = .deploying ∧ (l.applied.deployLength : Int) ≤ l.sense.payout
      · rw [Line.close_deployed fitted deployed.1 deployed.2]
        exact .inr (mem_of_state (y := .opened) rfl (by decide))
      · rw [Line.close_driven fitted driven fun h => lt_of_not_ge fun long => deployed ⟨h, long⟩]
        split_ifs
        exacts [.inr (mem_of_state (y := .faulted) rfl (by decide)), .inl rfl]

/-- No close brings a line to a state that is not one of those. -/
theorem close_elsewhere {l : Line} {x : LineState} (fitted : Bool) (h : l.control.state ≠ x)
    (other : x ∉ [LineState.notFitted, .faulted, .stowed, .opened, .held]) : (l.close fitted).control.state ≠ x := by
  rcases close_state fitted l with same | rest
  · rw [same]
    exact h
  · exact fun there => other (there ▸ rest)

theorem evaluated_unslipping {l : Line} (h : l.control.state ≠ .slipping) (stopped : Bool) (load : Nat) :
    (l.evaluated stopped load).control.state ≠ .slipping := by
  have report (e : Tension) := tensionReport_unslipping (l := { l with tension := e }) h stopped
  exact report _ _

theorem evaluated_attached {l : Line} {stopped : Bool} {load : Nat}
    (h : l.control.state ∈ [LineState.hauling, .locked, .rendering, .recovering, .held, .slacking])
    (slack : l.applied.slack < (l.measured load).tension.reported) :
    (l.evaluated stopped load).control.state ∈ [LineState.hauling, .locked, .rendering, .recovering, .held, .slacking] := by
  by_cases locked : l.control.state = .locked
  · have report (e : Tension) (o : TendOutcome) :
        (Line.tensionReport stopped o { l with tension := e }).control.state
          ∈ [LineState.hauling, .locked, .rendering, .recovering, .held, .slacking] :=
      (tensionReport_locked (l := { l with tension := e }) locked).elim (fun h => mem_of_state h (by decide))
        (·.elim (fun h => mem_of_state h (by decide)) fun h => mem_of_state h (by decide))
    exact report _ _
  · rw [evaluated_unlocked stopped load locked]
    exact tensionReport_attached (l := l.measured load) h slack

end Sys2Proof.Machine

namespace Sys2Proof

open Machine

/-- Settles O18: the trip watch (`guarded_tripWatch`), and where it fires or stands the trip report of each state. -/
theorem tripReport : Obligations.TripReport := by
  unfold Obligations.TripReport
  intro n sample pins s l x p T fires plain taken warned below
  obtain ⟨slackRecover, recoverLock, lockHold, holdRender, renderWarn, warnTrip, snagWarn⟩ := profileTaken_order taken
  obtain ⟨running, -, -, -, settled⟩ := (plainSample_iff s n sample pins).1 plain
  refine ⟨_, whileRunning_running _ running, ?_⟩
  have line := plainSample_line plain
  have kept := evaluated_kept s.berth.stopped (loadOf sample (s.setup n).zeroOffset) pins l
  generalize s.sampleEvent n sample pins = t at *
  let v := l.read pins (loadOf sample (s.setup n).zeroOffset)
  have reads : v.tension.reported = T := read_reported s n sample pins
  have hook : v.sense.hook = l.sense.hook := (Sense.sampleSwitches_settled settled).1
  have unlocked (h : x ≠ .locked) : (l.plain pins true).evaluated s.berth.stopped (loadOf sample (s.setup n).zeroOffset)
      = v.tensionReport s.berth.stopped .none := evaluated_unlocked (l := l.plain pins true) _ _ h
  have attached (h : x ∈ [LineState.hauling, .locked, .rendering, .recovering, .held, .slacking]) (above : p.slack < T) :=
    evaluated_attached (l := l.plain pins true) (stopped := s.berth.stopped) (load := loadOf sample (s.setup n).zeroOffset) h
      (above.trans_eq reads.symm)
  have unslipping (h : x ≠ .slipping) := evaluated_unslipping (l := l.plain pins true) h s.berth.stopped
    (loadOf sample (s.setup n).zeroOffset)
  generalize (l.plain pins true).evaluated s.berth.stopped (loadOf sample (s.setup n).zeroOffset) = u at *
  obtain ⟨reported, applied, warn, trip, inhibit, warnWatch, tripWatch⟩ := kept
  rw [show (l.read pins (loadOf sample (s.setup n).zeroOffset)).tension.reported = T from reads] at reported
  have tripsIff : u.trips ↔ fires := by
    unfold Line.trips
    rw [reported, applied, tripWatch]
  have uBelow : u.protection.tripWatch ≤ u.applied.tripDwell := by
    rw [tripWatch, applied]
    exact below
  obtain ⟨warnZero, tripStep⟩ := guarded_tripWatch (l := u) (warn.trans warned) uBelow
  rw [reported, applied, tripWatch] at tripStep
  have measures := Line.close_measures true u.guarded
  rw [Line.measures_eq_iff, ← line] at measures
  obtain ⟨-, -, -, endWarn, endTrip⟩ := measures
  rw [warnZero] at endWarn
  rw [tripStep] at endTrip
  have hasTrip : (t.line n).has .trip = u.guarded.has .trip := by
    rw [line]
    exact ((Line.alarms_eq_iff _ _).1 (Line.close_alarms true u.guarded)).2.1
  have untripped (h : ¬fires) : ∃ w, u.guarded = u.setWatches 0 w :=
    guarded_untripped (warn.trans warned) fun trips => h (tripsIff.1 trips)
  have tripped (h : fires) : u.guarded.control = (u.setWatches 0 u.applied.tripDwell).tripReport.control :=
    guarded_tripped (warn.trans warned) (tripsIff.2 h) uBelow
  refine ⟨endWarn, fun le => endTrip.trans (if_neg (not_lt.2 le)), fun lt => endTrip.trans (if_pos lt),
    fun quiet => ⟨?keepsTrip, fun other => ?unslips⟩, fun quiet state => ?stands, fun fired => ?latches,
    fun fired state => ?slips, fun c fired state cause closed => ?carries, fun fired state => ?defers,
    fun fired state => ?rests, fun fired state early => ?starting, fun fired state away => ?snags⟩
  case keepsTrip =>
    obtain ⟨w, guarded⟩ := untripped quiet
    rw [hasTrip, guarded]
    exact trip
  case unslips =>
    obtain ⟨w, guarded⟩ := untripped quiet
    rw [line, guarded]
    exact close_elsewhere (l := u.setWatches 0 w) true (unslipping other) (by decide)
  case stands =>
    obtain ⟨w, guarded⟩ := untripped quiet
    have rests : x ≠ .locked ∧ x ≠ .starting ∧ x.drivePowered = false := by
      generalize x = x' at state
      cases x' <;> simp at state <;> decide
    have report : u = v := by
      rw [unlocked rests.1]
      rcases state with state | ⟨state, lt⟩
      · exact tensionReport_other (l := v) (List.mem_append_left [LineState.starting, .notFitted] state)
      · exact tensionReport_slips (l := v) state (lt.trans_eq reads.symm)
    have final : t.line n = v.setWatches 0 w := by
      rw [line, guarded, report]
      exact Line.close_still (l := v.setWatches 0 w) true rests.2.1 rests.2.2
    rw [final]
    rfl
  case latches =>
    rw [hasTrip, Line.has, tripped fired]
    exact tripReport_has_trip _
  case slips =>
    have slipped := (tripped fired).trans (congrArg Line.control (tripReport_slips
      (l := u.setWatches 0 u.applied.tripDwell) (attached state (show p.slack < T by obtain ⟨met, -⟩ := fired; omega))))
    have still : u.guarded.control.state = .slipping := congrArg Control.state slipped
    rw [line, Line.close_still true (still.trans_ne nofun) (congrArg LineState.drivePowered still), slipped]
    exact ⟨rfl, rfl, rfl, rfl, rfl, rfl⟩
  case carries =>
    have report : u = v := by
      rw [unlocked (state.trans_ne nofun)]
      exact tensionReport_other (l := v) (mem_of_state (show v.control.state = _ from state) (by decide))
    rw [report] at tripped
    have slipped := (tripped fired).trans (congrArg Line.control (tripReport_carries
      (l := v.setWatches 0 v.applied.tripDwell) state cause (hook.trans closed)))
    have still : v.guarded.control.state = .slipping := congrArg Control.state slipped
    rw [line, report, Line.close_still true (still.trans_ne nofun) (congrArg LineState.drivePowered still), slipped]
    exact ⟨rfl, rfl, rfl⟩
  case defers =>
    have report : u = v := by
      rw [unlocked (state.trans_ne nofun)]
      exact tensionReport_other (l := v) (mem_of_state (show v.control.state = _ from state) (by decide))
    rw [report] at tripped
    have deferred := (tripped fired).trans (congrArg Line.control (tripReport_engaging
      (l := v.setWatches 0 v.applied.tripDwell) state))
    have still : v.guarded.control.state = .engaging := (congrArg Control.state deferred).trans state
    rw [line, report, Line.close_still true (still.trans_ne nofun) (congrArg LineState.drivePowered still)]
    exact ⟨still, (congrArg (fun c : Control => c.record.tripDeferred) deferred :)⟩
  case rests =>
    have rest : x ≠ .locked ∧ x ≠ .starting ∧ x.drivePowered = false := by
      generalize x = x' at state
      cases x' <;> simp at state <;> decide
    have report : u = v := by
      rw [unlocked rest.1]
      rcases state with state | ⟨state, -⟩
      · generalize x_eq : x = x' at state
        cases x' with
        | stowed | opened | opening =>
          exact tensionReport_other (l := v) (mem_of_state (show v.control.state = _ from x_eq) (by decide))
        | slipping => exact tensionReport_slips (l := v) x_eq (reads ▸ (show p.warn < T by obtain ⟨met, -⟩ := fired; omega))
        | _ => simp at state
      · exact tensionReport_other (l := v) (mem_of_state (show v.control.state = _ from state) (by decide))
    rw [report] at tripped
    have listed : (v.control.state ∈ [LineState.slipping, .opening, .starting, .notFitted, .stowed, .opened, .deploying,
        .rewinding]) ∨ (v.control.state = .faulted ∧ v.sense.hook ≠ .closed) := by
      refine state.imp (fun listed => ?_) fun ⟨faulted, away⟩ => ⟨faulted, fun closed => away (hook.symm.trans closed)⟩
      have same : v.control.state = x := rfl
      rw [same]
      generalize x = x' at listed
      cases x' <;> simp at listed <;> decide
    have latched := (tripped fired).trans (congrArg Line.control (tripReport_latches
      (l := v.setWatches 0 v.applied.tripDwell) listed))
    have still : v.guarded.control.state = x := (congrArg Control.state latched :)
    rw [line, report, Line.close_still true (by rw [still]; exact rest.2.1) (by rw [still]; exact rest.2.2), latched]
    rfl
  case starting =>
    have report : u = v := by
      rw [unlocked (state.trans_ne nofun)]
      exact tensionReport_other (l := v) (mem_of_state (show v.control.state = _ from state) (by decide))
    rw [report] at tripped
    have latched := (tripped fired).trans (congrArg Line.control (tripReport_latches
      (l := v.setWatches 0 v.applied.tripDwell) (.inl (mem_of_state (show v.control.state = _ from state) (by decide)))))
    have still : v.guarded.control.state = .starting := (congrArg Control.state latched).trans state
    have count : v.guarded.control.startingCount = l.control.startingCount := (congrArg Control.startingCount latched :)
    rw [line, report, Line.close_starting true still (by rw [count]; exact early)]
    exact still
  case snags =>
    have report : u = v.faultedBy .snag .snag := by
      rw [unlocked (state.elim (·.trans_ne nofun) (·.trans_ne nofun))]
      exact (tensionReport_snag (l := v) state).trans (if_pos (reads ▸ (show p.snag < T by obtain ⟨met, -⟩ := fired; omega)))
    rw [report] at tripped
    have latched := (tripped fired).trans (congrArg Line.control (tripReport_latches
      (l := (v.faultedBy .snag .snag).setWatches 0 v.applied.tripDwell) (.inr ⟨rfl, fun closed => away (hook.symm.trans closed)⟩)))
    have still : (v.faultedBy .snag .snag).guarded.control.state = .faulted := congrArg Control.state latched
    rw [line, report, Line.close_still true (still.trans_ne nofun) (congrArg LineState.drivePowered still), latched]
    rfl

end Sys2Proof

/-! PROOFS. The warn watch, the WARN latch, and the haul inhibits that follow it (R84, R85, R91, R92): settles O17. -/

namespace Sys2Proof.Machine

/-! ### Stages that stay with their line -/

/-- From `s` to `t` line `n` alone is worked, the Group Table and the Berth Action Unit standing, and where no entry is
marked and watching the authority records and the events handed over stand. -/
structure Alone (n : LineNo) (s t : State) : Prop where
  steady : Steady s t
  others : ∀ m, m ≠ n → t.line m = s.line m
  table : t.table = s.table

theorem Alone.refl (n : LineNo) (s : State) : Alone n s s := ⟨.refl s, fun _ _ => rfl, rfl⟩

theorem Alone.trans {n : LineNo} {s t u : State} (h : Alone n s t) (h' : Alone n t u) : Alone n s u :=
  ⟨h.steady.trans h'.steady, fun m other => (h'.others m other).trans (h.others m other), h'.table.trans h.table⟩

theorem putLine_alone (n : LineNo) (l : Line) (s : State) : Alone n s (s.putLine n l) :=
  ⟨putLine_steady n l s, fun _ other => State.line_putLine_ne s l other, rfl⟩

theorem onLine_alone (n : LineNo) (f : Line → Line) (s : State) : Alone n s (s.onLine n f) :=
  ⟨onLine_steady n f s, fun m other => by rw [onLine_line, if_neg other], onLine_table n f s⟩

theorem Alone.ite {n : LineNo} {c : Prop} [Decidable c] {s t u : State} (ht : Alone n s t) (hu : Alone n s u) :
    Alone n s (if c then t else u) := by
  split
  exacts [ht, hu]

theorem sensorStage_alone (n : LineNo) (sample : BitVec 12) (s : State) : Alone n s (s.sensorStage n sample) := by
  unfold State.sensorStage
  exact .ite ((putLine_alone n _ s).trans (onLine_alone n _ _)) (putLine_alone n _ s)

theorem evaluated_alone (n : LineNo) (sample : BitVec 12) (s : State) : Alone n s (s.evaluated n sample) := by
  unfold State.evaluated
  exact (putLine_alone n _ s).trans (onLine_alone n _ _)

/-- Switch readings that change no hook position reach no other block (R141). -/
theorem switchStage_alone {n : LineNo} {pins : SwitchPins} {s : State}
    (hook : ((s.line n).sense.sampleSwitches pins).hook = (s.line n).sense.hook) : Alone n s (s.switchStage n pins) := by
  unfold State.switchStage
  extract_lets old new _ s1 s2 s3
  have second : Alone n s s2 := by
    unfold s2
    rw [if_pos hook]
    exact putLine_alone n _ s
  have third : Alone n s s3 := .ite (second.trans (onLine_alone n _ _)) second
  exact .ite (third.trans (onLine_alone n _ _)) third

/-! ### The sample event up to the protection stage -/

/-- The part at a valid sample of line `n`, whose profile stands, before the protection stage. -/
def State.reading (n : LineNo) (sample : BitVec 12) (pins : SwitchPins) (s : State) : State :=
  (((s.putLine n (s.line n).advanceHookTimer).switchStage n pins).sensorStage n sample).evaluated n sample

section
variable {s : State} {n : LineNo} {sample : BitVec 12} {pins : SwitchPins}

theorem sampleEvent_reading (fitted : s.fitted n = true) (stands : (s.line n).profileStands = true)
    (valid : sampleValid sample = true) :
    s.sampleEvent n sample pins = ((s.reading n sample pins).protectionStage n).onLine n (Line.close true) := by
  have same : (s.putLine n (s.line n).advanceHookTimer).profileStage n = s.putLine n (s.line n).advanceHookTimer :=
    profileStage_stands (by rw [State.line_putLine_self]; exact stands)
  unfold State.sampleEvent
  dsimp only
  rw [if_pos fitted, same, tensionStage_valid n sample _ valid, fitted]
  rfl

theorem reading_stageOnly : StageOnly n s (s.reading n sample pins) := by
  have evaluated (u : State) : StageOnly n u (u.evaluated n sample) :=
    (putLine_stageOnly n _ u).trans (onLine_stageOnly n _ _)
  exact (((putLine_stageOnly n _ s).trans (switchStage_stageOnly n pins _)).trans (sensorStage_stageOnly n sample _)).trans
    (evaluated _)

/-- The line before the protection stage has WARN, TRIP, its inhibit, its profile and its watches as before, and the tension
of R24. -/
theorem reading_line (valid : sampleValid sample = true) :
    ((s.reading n sample pins).line n).alarms = (s.line n).alarms
      ∧ ((s.reading n sample pins).line n).applied = (s.line n).applied
      ∧ ((s.reading n sample pins).line n).tension.reported = s.reportedNext n sample
      ∧ ((s.reading n sample pins).line n).protection.warnWatch = (s.line n).protection.warnWatch := by
  have first := switchStage_sensed n pins (s.putLine n (s.line n).advanceHookTimer)
  have frame := switchStage_stageOnly n pins (s.putLine n (s.line n).advanceHookTimer)
  rw [State.line_putLine_self] at first
  unfold State.reading
  generalize (s.putLine n (s.line n).advanceHookTimer).switchStage n pins = u at *
  have second := sensorStage_loadTested n sample u
  have frame' := sensorStage_stageOnly n sample u
  have setup : (u.sensorStage n sample).setup n = s.setup n := by
    rw [State.setup, frame'.table, frame.table]
    rfl
  generalize u.sensorStage n sample = v at *
  rw [valid, first] at second
  have third : (v.evaluated n sample).line n = (v.line n).evaluated v.berth.stopped (loadOf sample (v.setup n).zeroOffset) :=
    evaluated_line n sample v
  have alarms : (v.line n).alarms = (s.line n).alarms := by
    rw [second, Line.loadTested_alarms, Line.sensed_alarms]
    rfl
  have applied : (v.line n).applied = (s.line n).applied := by
    rw [second]
    exact Line.tested_applied _ pins true (s.line n).advanceHookTimer
  have sensed := Line.sensed_measures (s.putLine n (s.line n).advanceHookTimer).berth pins (s.line n).advanceHookTimer
  have tested := Line.loadTested_measures true
    ((s.line n).advanceHookTimer.sensed (s.putLine n (s.line n).advanceHookTimer).berth pins)
  rw [Line.measures_eq_iff] at sensed tested
  rw [← second] at tested
  obtain ⟨filtered, -, -, warnWatch, -⟩ := sensed
  obtain ⟨filtered', -, -, warnWatch', -⟩ := tested
  have evaluated := Line.evaluated_measures v.berth.stopped (loadOf sample (v.setup n).zeroOffset) (v.line n)
  have applied' := congrArg Prod.fst (Line.evaluated_profiles v.berth.stopped (loadOf sample (v.setup n).zeroOffset) (v.line n))
  rw [Line.measures_eq_iff] at evaluated
  obtain ⟨-, reported, -, warnWatch'', -⟩ := evaluated
  rw [third]
  refine ⟨(Line.evaluated_alarms ..).trans alarms, Eq.trans applied' applied, reported.trans ?_,
    warnWatch''.trans (warnWatch'.trans warnWatch)⟩
  rw [reportedNext_eq, ← setup, ← applied]
  change filteredAfter _ (v.line n).tension.filtered _ / 16 = _
  rw [filtered'.trans filtered]
  rfl

theorem reading_alone (settled : (s.line n).sense.settled pins = true) : Alone n s (s.reading n sample pins) := by
  have hook : (((s.putLine n (s.line n).advanceHookTimer).line n).sense.sampleSwitches pins).hook
      = ((s.putLine n (s.line n).advanceHookTimer).line n).sense.hook := by
    rw [State.line_putLine_self]
    exact (Sense.sampleSwitches_settled settled).1
  exact (((putLine_alone n _ s).trans (switchStage_alone hook)).trans (sensorStage_alone n sample _)).trans
    (evaluated_alone n sample _)

end

/-! ### The protection stage of a line whose WARN is clear -/

/-- Line `n` latches WARN, its watches at 0 (R85). -/
def State.warnLatched (n : LineNo) (s : State) : State :=
  (s.putLine n ((s.line n).setWatches 0 0)).onLine n Line.warnReport

theorem warnLatched_alone (n : LineNo) (s : State) : Alone n s (s.warnLatched n) :=
  (putLine_alone n _ s).trans (onLine_alone n _ _)

theorem warnLatched_line (n : LineNo) (s : State) : (s.warnLatched n).line n = ((s.line n).setWatches 0 0).warnReport := by
  unfold State.warnLatched
  rw [onLine_line_self, State.line_putLine_self]

section
variable {s : State} {n : LineNo} (clear : (s.line n).has .warn = false)
include clear

theorem protectionStage_unmet (le : (s.line n).tension.reported ≤ (s.line n).applied.warn) :
    s.protectionStage n = s.putLine n ((s.line n).setWatches 0 0) := by
  unfold State.protectionStage
  dsimp only
  rw [clear, decide_eq_false (not_lt.2 le), watchStep_unmet]
  rfl

theorem protectionStage_counts (lt : (s.line n).applied.warn < (s.line n).tension.reported)
    (short : (s.line n).protection.warnWatch + 1 < (s.line n).applied.warnDwell) :
    s.protectionStage n = s.putLine n ((s.line n).setWatches ((s.line n).protection.warnWatch + 1) 0) := by
  unfold State.protectionStage
  dsimp only
  rw [clear, decide_eq_true lt, watchStep_short short]
  rfl

theorem protectionStage_latches (lt : (s.line n).applied.warn < (s.line n).tension.reported)
    (full : (s.line n).protection.warnWatch + 1 = (s.line n).applied.warnDwell) :
    s.protectionStage n = (s.warnLatched n).afterLatch n := by
  unfold State.protectionStage
  dsimp only
  rw [clear, decide_eq_true lt, watchStep_full full.ge (by omega), if_pos full, if_neg Bool.false_ne_true, if_pos rfl]
  unfold State.warnLatched
  rfl

end

/-! ### The inhibits after the latch -/

/-- After the re-evaluation that follows a latch every inhibit is what R91 gives. -/
theorem afterLatch_inhibit (n m : LineNo) (s : State) :
    ((s.afterLatch n).line m).protection.inhibit = s.inhibitOf m := by
  have inhibit : ((s.reevaluateInhibits (some n)).line m).protection.inhibit = s.inhibitOf m := by
    rw [(reevaluateInhibits_spec (some n) s).2 m]
    rfl
  unfold State.afterLatch
  dsimp only
  split
  · rw [onLine_line]
    split
    next same =>
      rw [← inhibit, same]
      exact ((Line.alarms_eq_iff _ _).1 (Line.inhibitOnset_alarms _)).2.2
    next => exact inhibit
  · exact inhibit

theorem afterLatch_due {n : LineNo} {s : State} (quiet : s.quiet) :
    (s.afterLatch n).due = s.due ++ s.inhibitEvents (s.reevaluateInhibits (some n)) (some n) := by
  have due := reevaluateInhibits_due (some n) s
  obtain ⟨only, -⟩ := reevaluateInhibits_spec (some n) s
  unfold State.afterLatch
  dsimp only
  split
  · rw [((onLine_steady n Line.inhibitOnset _).quiet (State.quiet_of_records only.records quiet)).2, due]
  · exact due

end Sys2Proof.Machine

/-! PROOFS. Settles O17. -/

namespace Sys2Proof.Machine

theorem afterLatch_measures (n : LineNo) (s : State) :
    ((s.afterLatch n).line n).measures = (s.line n).measures := by
  rw [afterLatch_line]
  split
  · exact Line.inhibitOnset_measures _
  · rfl

theorem afterLatch_has_warn (n : LineNo) (s : State) : ((s.afterLatch n).line n).has .warn = (s.line n).has .warn := by
  rw [afterLatch_line]
  split
  · exact ((Line.alarms_eq_iff _ _).1 (Line.inhibitOnset_alarms _)).1
  · rfl

/-- No line hauls or recovers after its own inhibit's onset (R93). -/
theorem inhibitOnset_still (l : Line) :
    l.inhibitOnset.control.state ≠ .hauling ∧ l.inhibitOnset.control.state ≠ .recovering := by
  unfold Line.inhibitOnset
  generalize x_eq : l.control.state = x
  cases x with
  | hauling | recovering => exact ⟨nofun, nofun⟩
  | _ =>
    dsimp only
    rw [x_eq]
    exact ⟨nofun, nofun⟩

/-- One more line overloaded brings into force the inhibits within its scope, and no other (R91). -/
theorem inhibitOf_latched {s t : State} {n m : LineNo} (table : t.table = s.table)
    (others : ∀ k, k ≠ n → t.line k = s.line k) (fitted : s.fitted n = true) (overloaded : (t.line n).overloaded = true)
    (clear : s.inhibitOf m = false) :
    t.inhibitOf m = (s.fitted m && (s.table.settings.scope == .berth || (s.setup m).group == (s.setup n).group)) := by
  have scopes (k : LineNo) : ((s.setup m).group == (s.setup k).group) = ((s.setup k).group == (s.setup m).group) :=
    Bool.beq_comm ..
  rw [Bool.eq_iff_iff, Bool.and_eq_true, scopes n]
  simp only [State.inhibitOf, State.fitted, State.setup, table, Bool.and_eq_true, List.any_eq_true] at fitted clear ⊢
  constructor
  · rintro ⟨here, k, hk, ⟨there, scope⟩, over'⟩
    refine ⟨here, ?_⟩
    by_cases same : k = n
    · rw [same] at scope
      exact scope
    · rw [others k same] at over'
      have inForce : s.inhibitOf m = true := by
        simp only [State.inhibitOf, State.fitted, State.setup, Bool.and_eq_true, List.any_eq_true]
        exact ⟨here, k, hk, ⟨there, scope⟩, over'⟩
      unfold State.inhibitOf State.fitted State.setup at inForce
      rw [clear] at inForce
      cases inForce
  · rintro ⟨here, scope⟩
    exact ⟨here, n, mem_allLines n, ⟨fitted, scope⟩, overloaded⟩

theorem afterLatch_records {n : LineNo} {s : State} (quiet : s.quiet) : (s.afterLatch n).records = s.records := by
  obtain ⟨only, -⟩ := reevaluateInhibits_spec (some n) s
  unfold State.afterLatch
  dsimp only
  split
  · exact ((onLine_steady n Line.inhibitOnset _).quiet (State.quiet_of_records only.records quiet)).1.trans only.records
  · exact only.records

/-- The inhibit events of a latch of line `n`: an onset for each other line whose inhibit it brings into force (R92). -/
theorem inhibitEvents_latched {s t : State} {n : LineNo} (table : t.table = s.table)
    (others : ∀ m, m ≠ n → t.line m = s.line m) (agree : s.inhibitsAgree) (fitted : s.fitted n = true)
    (overloaded : (t.line n).overloaded = true) :
    t.inhibitEvents (t.reevaluateInhibits (some n)) (some n)
      = (allLines.filter fun m => m != n && s.fitted m && !(s.line m).protection.inhibit
          && (s.table.settings.scope == .berth || (s.setup m).group == (s.setup n).group)).map DueEvent.inhibitOnset := by
  have new (m : LineNo) : ((t.reevaluateInhibits (some n)).line m).protection.inhibit = t.inhibitOf m := by
    rw [(reevaluateInhibits_spec (some n) t).2 m]
    rfl
  have grows (m : LineNo) : s.inhibitOf m = true → t.inhibitOf m = true := by
    refine inhibitOf_mono table.symm fun k over' => ?_
    by_cases same : k = n
    · rw [same]
      exact overloaded
    · rw [others k same]
      exact over'
  have changes (m : LineNo) :
      (some n != some m && (t.line m).protection.inhibit != ((t.reevaluateInhibits (some n)).line m).protection.inhibit)
        = (m != n && s.fitted m && !(s.line m).protection.inhibit
          && (s.table.settings.scope == .berth || (s.setup m).group == (s.setup n).group)) := by
    rw [new, (inhibitsAgree_iff s).1 agree m]
    by_cases same : m = n
    · simp [same]
    · rw [others m same, (inhibitsAgree_iff s).1 agree m]
      have other : (some n != some m) = true := by simpa using Ne.symm same
      have other' : (m != n) = true := by simpa using same
      rw [other, other']
      cases was : s.inhibitOf m with
      | true =>
        rw [grows m was]
        simp
      | false =>
        rw [inhibitOf_latched table others fitted overloaded was]
        simp
  unfold State.inhibitEvents
  rw [List.filter_congr fun m _ => changes m]
  refine List.map_congr_left fun m hm => ?_
  rw [List.mem_filter, Bool.and_eq_true, Bool.and_eq_true, Bool.and_eq_true, Bool.not_eq_true',
    (inhibitsAgree_iff s).1 agree m] at hm
  obtain ⟨-, ⟨⟨-, there⟩, free⟩, scope⟩ := hm
  rw [new, inhibitOf_latched table others fitted overloaded free, there, scope]
  rfl

end Sys2Proof.Machine

namespace Sys2Proof

open Machine

/-- Settles O17: the protection stage of a line whose WARN is clear (`protectionStage_latches` and its like), and the
re-evaluation of the inhibits that follows a latch. -/
theorem warnWatch : Obligations.WarnWatch := by
  unfold Obligations.WarnWatch
  intro n sample pins s l T running fitted stands valid clear below
  refine ⟨_, whileRunning_running _ running, ?_⟩
  have line : (s.sampleEvent n sample pins).line n
      = ((s.reading n sample pins).protectionStage n |>.line n).close true := by
    rw [sampleEvent_reading fitted stands valid, onLine_line_self]
  have whole := sampleEvent_reading (pins := pins) fitted stands valid
  generalize s.sampleEvent n sample pins = t at *
  have frame := reading_stageOnly (s := s) (n := n) (sample := sample) (pins := pins)
  have alone := reading_alone (s := s) (n := n) (sample := sample) (pins := pins)
  obtain ⟨alarms, applied, reported, watch⟩ := reading_line (s := s) (n := n) (sample := sample) (pins := pins) valid
  generalize s.reading n sample pins = q at *
  obtain ⟨warn, -, inhibit⟩ := (Line.alarms_eq_iff _ _).1 alarms
  have clear' : (q.line n).has .warn = false := warn.trans clear
  have measures := Line.close_measures true ((q.protectionStage n).line n)
  have hasWarn := Line.close_has_warn true ((q.protectionStage n).line n)
  rw [← line] at measures hasWarn
  rw [Line.measures_eq_iff] at measures
  obtain ⟨-, -, -, endWarn, endTrip⟩ := measures
  -- The latch, where W has been exceeded for the dwell.
  have latches (lt : l.applied.warn < T) (full : l.protection.warnWatch + 1 = l.applied.warnDwell) :
      q.protectionStage n = (q.warnLatched n).afterLatch n :=
    protectionStage_latches clear' (by rw [applied, reported]; exact lt) (by rw [applied, watch]; exact full)
  have latched : ((q.warnLatched n).line n).has .warn = true := by
    rw [warnLatched_line, Line.warnReport, Line.has_latch]
    simp
  have overloaded : ((q.warnLatched n).line n).overloaded = true := by rw [Line.overloaded, latched]; rfl
  have table : (q.warnLatched n).table = s.table := (warnLatched_alone n q).table.trans frame.table
  have fitted' : (q.warnLatched n).fitted n = true := by rw [State.fitted, State.setup, table]; exact fitted
  have latchMeasures : (((q.warnLatched n).afterLatch n).line n).measures = Line.measures ((q.line n).setWatches 0 0) := by
    rw [afterLatch_measures, warnLatched_line]
    rfl
  rw [Line.measures_eq_iff] at latchMeasures
  obtain ⟨-, -, -, latchWarn, latchTrip⟩ := latchMeasures
  refine ⟨?tripWatch, fun le => ?unmet, fun lt short => ?counts, fun lt full => ?latches, fun lt full agree none settled => ?due⟩
  case tripWatch =>
    rw [endTrip]
    by_cases lt : l.applied.warn < T
    · by_cases short : l.protection.warnWatch + 1 < l.applied.warnDwell
      · rw [protectionStage_counts clear' (by rw [applied, reported]; exact lt) (by rw [applied, watch]; exact short),
          State.line_putLine_self]
        rfl
      · rw [latches lt (by omega)]
        exact latchTrip
    · rw [protectionStage_unmet clear' (by rw [applied, reported]; exact not_lt.1 lt), State.line_putLine_self]
      rfl
  case unmet =>
    rw [endWarn, hasWarn, protectionStage_unmet clear' (by rw [applied, reported]; exact le), State.line_putLine_self]
    exact ⟨clear', rfl⟩
  case counts =>
    rw [endWarn, hasWarn, protectionStage_counts clear' (by rw [applied, reported]; exact lt)
      (by rw [applied, watch]; exact short), State.line_putLine_self]
    exact ⟨clear', congrArg (· + 1) watch⟩
  case latches =>
    have stage := latches lt full
    rw [endWarn, hasWarn, stage, afterLatch_has_warn]
    refine ⟨latched, latchWarn, fun free => ?_, fun m there scope => ?_⟩
    · have onset : (!((q.warnLatched n).line n).protection.inhibit && (q.warnLatched n).inhibitOf n) = true := by
        rw [inhibitOf_overloaded fitted' overloaded, warnLatched_line]
        change (!(q.line n).protection.inhibit && true) = true
        rw [inhibit, free]
        rfl
      have line' := afterLatch_line n (q.warnLatched n)
      rw [if_pos onset] at line'
      rw [line, stage, line']
      obtain ⟨hauling, recovering⟩ := inhibitOnset_still (((q.warnLatched n).line n).setInhibit ((q.warnLatched n).inhibitOf n))
      exact ⟨close_elsewhere true hauling (by decide), close_elsewhere true recovering (by decide)⟩
    · have same : (t.line m).protection.inhibit = (((q.warnLatched n).afterLatch n).line m).protection.inhibit := by
        rw [whole, stage, onLine_line]
        split
        next here =>
          rw [here]
          exact ((Line.alarms_eq_iff _ _).1 (Line.close_alarms _ _)).2.2
        next => rfl
      rw [same, afterLatch_inhibit, State.inhibitOf, Bool.and_eq_true, List.any_eq_true]
      rw [State.fitted, State.setup] at there fitted'
      simp only [State.fitted, State.setup, table] at scope ⊢
      refine ⟨there, n, mem_allLines n, ?_⟩
      rw [overloaded, Bool.and_true, Bool.and_eq_true, Bool.or_eq_true, beq_iff_eq, beq_iff_eq]
      refine ⟨fitted, scope.imp_right fun same => same.symm⟩
  case due =>
    have quiet : s.quiet := noWatched_quiet none
    have within : Alone n s (q.warnLatched n) := (alone settled).trans (warnLatched_alone n q)
    obtain ⟨records, due⟩ := within.steady.quiet quiet
    have quiet' : (q.warnLatched n).quiet := State.quiet_of_records records quiet
    have stage := latches lt full
    have quiet'' : ((q.warnLatched n).afterLatch n).quiet :=
      State.quiet_of_records (afterLatch_records quiet') quiet'
    rw [whole, ((onLine_steady n (Line.close true) _).quiet (stage ▸ quiet'')).2, stage, afterLatch_due quiet', due,
      inhibitEvents_latched table within.others agree fitted overloaded]

end Sys2Proof

/-! PROOFS. A profile that comes into use at the start of a sample event (R26, R83, R102, R105), and the step of the part
(R55, R142, R143): settles O50. -/

namespace Sys2Proof.Machine

/-! ### A profile that comes into use -/

/-- A line with the profile of a new group (R105). -/
def Line.joinedTo (q : Profile) (l : Line) : Line := { l with applied := q, joined := none }

/-- A line with its group's profile as written, its watches returned to 0 (R26, R52, R96, R102). -/
def Line.fresh (p : Profile) (l : Line) : Line :=
  { l.zeroTending with
    protection := { l.protection with warnWatch := 0, tripWatch := 0 }
    control := { l.control with slackWatch := 0 }
    applied := p
    profileDue := false
    joined := none }

/-- A drive-powered line takes the speed of its state from a profile (R38). -/
def Line.redriven (p : Profile) (l : Line) : Line :=
  if l.control.state.drivePowered then l.setDrive (driveDemand p l.control.state) else l

/-- The new allowance ends the tending of a line (R83). -/
def Line.overrun (p : Profile) (l : Line) : Prop :=
  (l.control.state = .rendering ∧ (l.fresh p).renderLimit = false)
    ∨ (l.control.state = .recovering ∧ (l.fresh p).recoverLimit = false)

theorem Line.useJoined_eq (q : Profile) (l : Line) : l.useJoined q = (l.joinedTo q).redriven q := rfl

theorem Line.applyProfile_overrun {p : Profile} {l : Line} (h : l.overrun p) :
    l.applyProfile p = ((l.fresh p).latch .allow).idleIn .locked := by
  have entered : ((l.fresh p).latch .allow).enter .locked {} = ((l.fresh p).latch .allow).idleIn .locked := enter_locked _
  obtain ⟨rendering, limit⟩ | ⟨recovering, limit⟩ := h
  · exact (if_pos ⟨rendering, by rw [Bool.not_eq_true']; exact limit⟩).trans entered
  · have not_rendering : ¬l.control.state = .rendering := recovering.trans_ne nofun
    exact (if_neg fun h => not_rendering h.1).trans
      ((if_pos ⟨recovering, by rw [Bool.not_eq_true']; exact limit⟩).trans entered)

theorem Line.applyProfile_continues {p : Profile} {l : Line} (h : ¬l.overrun p) :
    l.applyProfile p = (l.fresh p).redriven p := by
  have rendering : ¬(l.control.state = .rendering ∧ (!(l.fresh p).renderLimit) = true) := by
    rw [Bool.not_eq_true']
    exact fun over' => h (.inl over')
  have recovering : ¬(l.control.state = .recovering ∧ (!(l.fresh p).recoverLimit) = true) := by
    rw [Bool.not_eq_true']
    exact fun over' => h (.inr over')
  exact (if_neg rendering).trans (if_neg recovering)

theorem Line.redriven_still {p : Profile} {l : Line} (still : l.control.state.drivePowered = false) : l.redriven p = l :=
  if_neg (by rw [still]; nofun)

theorem Line.profiled_due {l : Line} (due : l.profileDue = true) (p : Profile) : l.profiled p = l.applyProfile p := if_pos due

theorem Line.profiled_joined {l : Line} {q : Profile} (due : l.profileDue = false) (joined : l.joined = some q) (p : Profile) :
    l.profiled p = l.useJoined q := by
  unfold Line.profiled
  rw [due, joined]
  rfl

/-- Of a line that neither tends nor drives a profile moves neither the state nor the hook timer nor a position. -/
theorem Line.profiled_still {l : Line} (still : l.control.state.drivePowered = false) (tending : l.control.state ≠ .rendering)
    (p : Profile) :
    (l.profiled p).control.state = l.control.state ∧ (l.profiled p).control.hookTimer = l.control.hookTimer
      ∧ (l.profiled p).sense = l.sense := by
  have ends : ¬l.overrun p := by
    rintro (⟨rendering, -⟩ | ⟨recovering, -⟩)
    · exact tending rendering
    · rw [recovering] at still
      cases still
  unfold Line.profiled
  split
  · rw [Line.applyProfile_continues ends, Line.redriven_still (l := l.fresh p) still]
    exact ⟨rfl, rfl, rfl⟩
  · split
    next q _ =>
      rw [Line.useJoined_eq, Line.redriven_still (l := l.joinedTo q) still]
      exact ⟨rfl, rfl, rfl⟩
    next => exact ⟨rfl, rfl, rfl⟩

/-- An invalid sample below the eighth, at settled positions, of a line with the profile that it works by. -/
theorem Line.sampledOn_invalid {l : Line} {sample : BitVec 12} {pins : SwitchPins} (b : BerthAction) (zeroOffset : Nat)
    (settled : l.sense.settled pins = true) (invalid : sampleValid sample = false) (counting : l.sense.invalidCount < 7) :
    l.sampledOn b zeroOffset sample pins = ((l.switched pins).loadCounted false).close true := by
  unfold Line.sampledOn Line.unclosed
  dsimp only
  rw [if_neg (by rw [invalid]; nofun), invalid, Line.sensed_settled b settled,
    Line.loadTested_counting (l := l.switched pins) counting]

/-! ### The step of the part -/

theorem hookTimeOut_iff (l : Line) :
    l.hookTimeOut = true ↔ ∃ timer, l.control.hookTimer = some timer ∧ timer.limit ≤ timer.elapsed := by
  unfold Line.hookTimeOut
  split
  next timer there => simp [there]
  next none => simp [none]

section
variable {s : State} (pending : s.pending = []) (running : s.running = true)
include pending running

/-- The oldest event handed over comes first. -/
theorem step_due {d : DueEvent} {rest : List DueEvent} (due : s.due = d :: rest) : step s = exec d.command s := by
  unfold step State.ownEvent
  rw [pending, if_pos running, due]

/-- Where none is handed over, the lowest line whose hook timer has run its time (R55). -/
theorem step_hookTimeOut {n : LineNo} (due : s.due = []) (out : (s.line n).hookTimeOut = true)
    (lowest : ∀ m, m < n → (s.line m).hookTimeOut = false) : step s = exec (.hookTimerExpiry n) s := by
  unfold step State.ownEvent
  rw [pending, if_pos running, due]
  dsimp only
  rw [allLines_find.2 ⟨out, lowest⟩]
  rfl

/-- With nothing else to take, a sample period of the stagger timer passes (R143). -/
theorem step_idle (due : s.due = []) (none : ∀ n, (s.line n).hookTimeOut = false) : step s = .next s.staggerTick := by
  unfold step State.ownEvent
  rw [pending, if_pos running, due]
  dsimp only
  rw [List.find?_eq_none.2 fun n _ => by rw [none n]; exact Bool.false_ne_true]
  exact congrArg Host.Outcome.next (if_pos running)

end

end Sys2Proof.Machine

namespace Sys2Proof

open Machine

/-- Settles O50: `step_due`, `step_hookTimeOut` and `step_idle`, and the hook timer of a sample. -/
theorem stepRunsFrontCommand : Obligations.StepRunsFrontCommand := by
  unfold Obligations.StepRunsFrontCommand
  refine ⟨fun _ _ _ => rfl, fun s pending halted => ?halted, fun s pending running => ⟨fun d rest due => ?_, fun due => ?_⟩,
    fun n pins timer s running fitted settled timed there counting => ?_⟩
  case halted =>
    unfold step
    rw [pending, halted]
    rfl
  · rw [step_due pending running due]
    cases d <;> rfl
  · have quiet (n : LineNo) (h : ¬∃ timer, (s.line n).control.hookTimer = some timer ∧ timer.limit ≤ timer.elapsed) :
        (s.line n).hookTimeOut = false := by
      rw [← Bool.not_eq_true, hookTimeOut_iff]
      exact h
    refine ⟨fun n out lowest => ?_, fun none => ?_⟩
    · exact step_hookTimeOut pending running due ((hookTimeOut_iff _).2 out) fun m lt => quiet m (lowest m lt)
    · rw [step_idle pending running due fun n => quiet n (none n)]
      refine ⟨fun idle => ?_, fun timer there => ⟨fun short => ?_, fun full => ?_⟩⟩
      · unfold State.staggerTick
        rw [idle]
      · unfold State.staggerTick
        rw [there]
        dsimp only
        rw [if_neg (not_le.2 short)]
      · unfold State.staggerTick
        rw [there]
        dsimp only
        rw [if_pos full]
        refine congrArg Host.Outcome.next (Eq.symm ((if_pos running).trans (if_pos ?_)))
        rw [there]
        rfl
  · refine ⟨_, whileRunning_running _ running, ?_⟩
    have still : (s.line n).advanceHookTimer.control.state.drivePowered = false := by
      obtain engaging | opening := timed
      · exact congrArg LineState.drivePowered engaging
      · exact congrArg LineState.drivePowered opening
    have waits : (s.line n).control.state ≠ .rendering ∧ (s.line n).control.state ≠ .starting := by
      obtain engaging | opening := timed
      · exact ⟨engaging.trans_ne nofun, engaging.trans_ne nofun⟩
      · exact ⟨opening.trans_ne nofun, opening.trans_ne nofun⟩
    obtain ⟨tending, starting⟩ := waits
    have profiled := Line.profiled_still (l := (s.line n).advanceHookTimer) still tending (s.profile (s.setup n).group)
    have event := sampleEvent_profiled fitted 4095#12 pins
    generalize (s.line n).advanceHookTimer.profiled (s.profile (s.setup n).group) = m at *
    obtain ⟨state, hookTimer, sense⟩ := profiled
    rw [event, Line.sampledOn_invalid s.berth _ (by rw [sense]; exact settled) rfl (by rw [sense]; exact counting),
      Line.close_still (l := (m.switched pins).loadCounted false) true (state.trans_ne starting)
        ((congrArg LineState.drivePowered state).trans still)]
    refine ⟨state, hookTimer.trans ?_⟩
    change Option.map _ (s.line n).control.hookTimer = _
    rw [there]
    rfl

end Sys2Proof

/-! PROOFS. The sample event at which a profile comes into use (R26, R27, R83, R102, R105): settles O19. -/

namespace Sys2Proof.Machine

/-! ### What a profile does to a line -/

theorem drives_iff_mem (x : LineState) :
    x.drivePowered = true ↔ x ∈ [LineState.deploying, .slacking, .hauling, .recovering, .rewinding] := by
  cases x <;> decide

/-- A line takes the speed of its state, with the sign that its direction lead keeps (R15, R38). -/
theorem Line.redriven_speed (p : Profile) (m : Line) {d : Int}
    (speed : d = if m.control.state.drivePowered then driveDemand p m.control.state else m.control.drive) :
    m.redriven p =
      { m with
        sense :=
          if m.control.state ∈ [LineState.deploying, .slacking, .hauling, .recovering, .rewinding] ∧ d ≠ 0 then
            { m.sense with heaving := decide (d < 0) }
          else m.sense
        control := { m.control with drive := d } } := by
  unfold Line.redriven
  by_cases driven : m.control.state.drivePowered = true
  · have listed := (drives_iff_mem m.control.state).1 driven
    rw [if_pos driven] at speed ⊢
    subst speed
    unfold Line.setDrive
    by_cases zero : driveDemand p m.control.state = 0
    · rw [if_pos zero, if_neg (not_and_of_not_right _ (not_not_intro zero))]
    · rw [if_neg zero, if_pos (And.intro listed zero)]
  · have unlisted := mt (drives_iff_mem m.control.state).2 driven
    rw [if_neg driven] at speed ⊢
    rw [if_neg fun h => unlisted h.1, speed]

theorem Line.redriven_advanceHookTimer (p : Profile) (m : Line) :
    m.advanceHookTimer.redriven p = (m.redriven p).advanceHookTimer := by
  unfold Line.redriven
  split
  next driven =>
    have driven' : m.control.state.drivePowered = true := driven
    rw [if_pos driven']
    rfl
  next still =>
    have still' : ¬m.control.state.drivePowered = true := still
    rw [if_neg still']

/-- What a speed leaves of a line. -/
theorem Line.redriven_frame (p : Profile) (m : Line) :
    (m.redriven p).tension = m.tension ∧ (m.redriven p).protection = m.protection ∧ (m.redriven p).applied = m.applied
      ∧ (m.redriven p).profileDue = m.profileDue ∧ (m.redriven p).joined = m.joined
      ∧ (m.redriven p).switches = m.switches ∧ (m.redriven p).sense.payout = m.sense.payout
      ∧ (m.redriven p).sense.invalidCount = m.sense.invalidCount
      ∧ (m.redriven p).control = { m.control with drive := (m.redriven p).control.drive } := by
  unfold Line.redriven
  split
  · exact ⟨rfl, rfl, rfl, rfl, rfl, rfl, rfl, rfl, rfl⟩
  · exact ⟨rfl, rfl, rfl, rfl, rfl, rfl, rfl, rfl, rfl⟩

theorem Line.redriven_drive {p : Profile} {m : Line} (driven : m.control.state.drivePowered = true) :
    (m.redriven p).control.drive = driveDemand p m.control.state := by
  unfold Line.redriven
  rw [if_pos driven]
  rfl

theorem Line.renderLimit_mark {l : Line} {mark : Int} (there : l.control.lockMark = some mark) :
    l.renderLimit = false ↔ (l.applied.allowance : Int) ≤ l.sense.payout - mark := by
  rw [← Bool.not_eq_true', renderLimit_of_mark there]

theorem Line.recoverLimit_mark {l : Line} {mark : Int} (there : l.control.lockMark = some mark) :
    l.recoverLimit = false ↔ l.sense.payout - mark ≤ -(l.applied.allowance : Int) := by
  rw [← Bool.not_eq_true', recoverLimit_of_mark there]

/-- The new allowance ends the tending of a line with lock mark `mark` (R69, R83). -/
theorem Line.overrun_mark {p : Profile} {l : Line} {mark : Int} (there : l.control.lockMark = some mark) :
    l.overrun p ↔ (l.control.state = .rendering ∧ (p.allowance : Int) ≤ l.sense.payout - mark)
      ∨ (l.control.state = .recovering ∧ l.sense.payout - mark ≤ -(p.allowance : Int)) :=
  or_congr (and_congr_right fun _ => Line.renderLimit_mark (l := l.fresh p) there)
    (and_congr_right fun _ => Line.recoverLimit_mark (l := l.fresh p) there)

/-! ### The sample event of a line with a new profile -/

theorem notable_same {a b : Control} (state : b.state = a.state) (flags : b.flags = a.flags) (cause : b.cause = a.cause)
    (mark : b.lockMark = a.lockMark) : notable a b = false := by
  simp [notable, state, flags, cause, mark]

/-- A change that R65 does not name reaches no other block. -/
theorem onLine_unnotable {n : LineNo} {f : Line → Line} {s : State}
    (unnotable : notable (s.line n).control (f (s.line n)).control = false) : s.onLine n f = s.putLine n (f (s.line n)) := by
  have state : (s.line n).control.state = (f (s.line n)).control.state := by
    unfold notable at unnotable
    simp only [Bool.or_eq_false_iff, bne_eq_false_iff_eq] at unnotable
    exact unnotable.1.1.1
  unfold State.onLine
  dsimp only
  rw [unnotable, if_pos state]
  rfl

theorem putLine_line_self (s : State) (n : LineNo) : s.putLine n (s.line n) = s := by
  simp [State.putLine, State.line]

theorem profileStage_unnotable {n : LineNo} {s : State}
    (unnotable : notable (s.line n).control ((s.line n).profiled (s.profile (s.setup n).group)).control = false) :
    s.profileStage n = s.putLine n ((s.line n).profiled (s.profile (s.setup n).group)) := by
  cases due : (s.line n).profileDue with
  | true =>
    rw [Line.profiled_due due] at unnotable ⊢
    unfold State.profileStage
    rw [if_pos due]
    exact onLine_unnotable unnotable
  | false =>
    cases joined : (s.line n).joined with
    | some q =>
      rw [Line.profiled_joined due joined] at unnotable ⊢
      unfold State.profileStage
      rw [due, joined]
      exact onLine_unnotable unnotable
    | none =>
      have stands : (s.line n).profileStands = true := by
        unfold Line.profileStands
        rw [due, joined]
        rfl
      rw [Line.profiled_stands stands, profileStage_stands stands, putLine_line_self]

/-- A sample event at which a profile comes into use is that of the line which works by it already. -/
theorem sampleEvent_profile {s : State} {n : LineNo} {m : Line} (fitted : s.fitted n = true) (stands : m.profileStands = true)
    (profiled : (s.line n).advanceHookTimer.profiled (s.profile (s.setup n).group) = m.advanceHookTimer)
    (unnotable : notable (s.line n).control m.control = false) (sample : BitVec 12) (pins : SwitchPins) :
    s.sampleEvent n sample pins = (s.putLine n m).sampleEvent n sample pins := by
  have own : (s.putLine n (s.line n).advanceHookTimer).profileStage n = s.putLine n m.advanceHookTimer := by
    have same := profileStage_unnotable (n := n) (s := s.putLine n (s.line n).advanceHookTimer) (by
      rw [State.line_putLine_self]
      exact (congrArg (fun l : Line => notable (s.line n).control l.control) profiled).trans unnotable)
    rw [State.line_putLine_self, putLine_putLine] at same
    exact same.trans (congrArg (s.putLine n) profiled)
  have other : ((s.putLine n m).putLine n ((s.putLine n m).line n).advanceHookTimer).profileStage n
      = s.putLine n m.advanceHookTimer := by
    rw [profileStage_stands (by rw [State.line_putLine_self, State.line_putLine_self]; exact stands), putLine_putLine,
      State.line_putLine_self]
  have fitted' : (s.putLine n m).fitted n = true := fitted
  unfold State.sampleEvent
  dsimp only
  rw [if_pos fitted, if_pos fitted', own, other, fitted, fitted']

/-! ### The watches of a valid sample -/

theorem watchStep_fresh {dwell : Nat} (met : Bool) (h : 1 ≤ dwell) :
    (watchStep dwell 0 met).1 = (if met then 1 else 0) ∧ ((watchStep dwell 0 met).2 = .fired ↔ met = true ∧ dwell = 1) := by
  cases met with
  | false => exact ⟨rfl, nofun, fun h => nomatch h.1⟩
  | true =>
    by_cases one : dwell = 1
    · rw [one, watchStep_full (by decide) (by decide)]
      exact ⟨rfl, fun _ => ⟨rfl, rfl⟩, fun _ => rfl⟩
    · rw [watchStep_short (by omega)]
      exact ⟨rfl, nofun, fun h => absurd h.2 one⟩

theorem Line.inhibited_has_warn (l : Line) : l.inhibited.has .warn = l.has .warn := by
  unfold Line.inhibited
  split
  · rfl
  · exact ((Line.alarms_eq_iff _ _).1 (Line.inhibitOnset_alarms _)).1

theorem Line.guarded_has_warn {l : Line} (clear : l.has .warn = false) :
    l.guarded.has .warn = true
      ↔ (watchStep l.applied.warnDwell l.protection.warnWatch (l.applied.warn < l.tension.reported)).2 = .fired := by
  unfold Line.guarded
  rw [clear, if_neg Bool.false_ne_true]
  dsimp only
  split
  next fired =>
    rw [Line.inhibited_has_warn]
    simp [Line.warnReport, Line.has_latch, fired]
  next quiet =>
    have clear' : (l.setWatches (watchStep l.applied.warnDwell l.protection.warnWatch
      (l.applied.warn < l.tension.reported)).1 0).has .warn = false := clear
    rw [clear']
    exact ⟨nofun, fun fired => absurd fired quiet⟩

/-- The watches of the Protection Unit and WARN after a valid sample, from the watches before it and T after it (R85, R86). -/
theorem Line.sampledOn_watches (b : BerthAction) (zeroOffset : Nat) (pins : SwitchPins) (l : Line) {sample : BitVec 12}
    (valid : sampleValid sample = true) :
    let f := l.sampledOn b zeroOffset sample pins
    let warn := watchStep l.applied.warnDwell l.protection.warnWatch (l.applied.warn < f.tension.reported)
    (l.has .warn = true → f.protection.warnWatch = 0
        ∧ f.protection.tripWatch
          = (watchStep l.applied.tripDwell l.protection.tripWatch (l.applied.trip < f.tension.reported)).1)
      ∧ (l.has .warn = false → f.protection.tripWatch = 0 ∧ (f.has .warn = true ↔ warn.2 = .fired)
        ∧ f.protection.warnWatch = if warn.2 = .fired then 0 else warn.1) := by
  unfold Line.sampledOn Line.unclosed
  dsimp only
  rw [if_pos valid, valid]
  have sensed := Line.sensed_measures b pins l
  have tested := Line.loadTested_measures true (l.sensed b pins)
  have applied := Line.tested_applied b pins true l
  have alarms : ((l.sensed b pins).loadTested true).alarms = l.alarms := by
    rw [Line.loadTested_alarms, Line.sensed_alarms]
  rw [Line.measures_eq_iff] at sensed tested
  generalize (l.sensed b pins).loadTested true = v at *
  generalize l.sensed b pins = u at *
  obtain ⟨-, -, -, warnWatch, tripWatch⟩ := sensed
  obtain ⟨-, -, -, warnWatch', tripWatch'⟩ := tested
  have evaluated := Line.evaluated_measures b.stopped (loadOf sample zeroOffset) v
  have applied' := congrArg Prod.fst (Line.evaluated_profiles b.stopped (loadOf sample zeroOffset) v)
  have alarms' := Line.evaluated_alarms b.stopped (loadOf sample zeroOffset) v
  generalize v.evaluated b.stopped (loadOf sample zeroOffset) = e at *
  rw [Line.measures_eq_iff] at evaluated
  obtain ⟨-, -, -, warnWatch'', tripWatch''⟩ := evaluated
  have works : e.applied = l.applied := Eq.trans applied' applied
  have warned : e.has .warn = l.has .warn := ((Line.alarms_eq_iff _ _).1 (alarms'.trans alarms)).1
  have counted : e.protection.warnWatch = l.protection.warnWatch := warnWatch''.trans (warnWatch'.trans warnWatch)
  have counted' : e.protection.tripWatch = l.protection.tripWatch := tripWatch''.trans (tripWatch'.trans tripWatch)
  have closed : (e.guarded.close true).measures = e.guarded.measures := Line.close_measures ..
  have hasWarn := Line.close_has_warn true e.guarded
  rw [Line.measures_eq_iff] at closed
  obtain ⟨-, reported, -, endWarn, endTrip⟩ := closed
  have figures := Line.guarded_figures e
  have measures := Line.guarded_measures e
  rw [reported, figures.2.1, endWarn, endTrip, hasWarn, ← works, ← warned, ← counted, ← counted']
  refine ⟨fun latched => ?_, fun clear => ?_⟩
  · rw [if_pos latched, Line.measures_eq_iff] at measures
    obtain ⟨-, -, -, warnWatch, tripWatch⟩ := measures
    exact ⟨warnWatch, tripWatch⟩
  · have guarded := Line.guarded_has_warn clear
    rw [if_neg (by rw [clear]; nofun), Line.measures_eq_iff] at measures
    obtain ⟨-, -, -, warnWatch, tripWatch⟩ := measures
    exact ⟨tripWatch, guarded, warnWatch⟩

/-! ### The close of such a sample -/

theorem Line.close_profileDue (fitted : Bool) (l : Line) : (l.close fitted).profileDue = l.profileDue := by
  by_cases starting : l.control.state = .starting
  · by_cases early : l.control.startingCount < 7
    · rw [Line.close_starting fitted starting early]
      rfl
    · rw [Line.close_derived fitted starting (by omega)]
      unfold Line.derivedAs
      split_ifs <;> rfl
  · cases driven : l.control.state.drivePowered with
    | false => rw [Line.close_still fitted starting driven]
    | true =>
      by_cases deployed : l.control.state = .deploying ∧ (l.applied.deployLength : Int) ≤ l.sense.payout
      · rw [Line.close_deployed fitted deployed.1 deployed.2]
        rfl
      · rw [Line.close_driven fitted driven fun h => lt_of_not_ge fun long => deployed ⟨h, long⟩]
        split_ifs <;> rfl

/-- The close counts no slack (R39, R52). -/
theorem Line.close_slackWatch {fitted : Bool} {l : Line} (h : l.control.slackWatch = 0) :
    (l.close fitted).control.slackWatch = 0 := by
  by_cases starting : l.control.state = .starting
  · by_cases early : l.control.startingCount < 7
    · rw [Line.close_starting fitted starting early]
      exact h
    · rw [Line.close_derived fitted starting (by omega)]
      unfold Line.derivedAs
      split_ifs <;> rfl
  · cases driven : l.control.state.drivePowered with
    | false =>
      rw [Line.close_still fitted starting driven]
      exact h
    | true =>
      by_cases deployed : l.control.state = .deploying ∧ (l.applied.deployLength : Int) ≤ l.sense.payout
      · rw [Line.close_deployed fitted deployed.1 deployed.2]
        rfl
      · rw [Line.close_driven fitted driven fun h => lt_of_not_ge fun long => deployed ⟨h, long⟩]
        split_ifs
        exacts [rfl, h]

end Sys2Proof.Machine

/-! PROOFS. The line of an invalid sample at which a profile comes into use, and O19. -/

namespace Sys2Proof.Machine

/-- An invalid sample below the eighth at settled positions, by a line that has just taken a profile: the close alone is
left to it. -/
theorem sampleEvent_settled {s : State} {n : LineNo} {m : Line} {pins : SwitchPins} (fitted : s.fitted n = true)
    (profiled : (s.line n).advanceHookTimer.profiled (s.profile (s.setup n).group) = m)
    (switches : m.switches = (s.line n).switches) (count : m.sense.invalidCount = (s.line n).sense.invalidCount)
    (settled : (s.line n).sense.settled pins = true) (counting : (s.line n).sense.invalidCount < 7) :
    (s.sampleEvent n 4095#12 pins).line n = ((m.switched pins).loadCounted false).close true := by
  have settled' : m.sense.settled pins = true :=
    (congrArg (fun u : Sense => u.settled pins) switches).trans settled
  rw [sampleEvent_profiled fitted, profiled, Line.sampledOn_invalid s.berth _ settled' rfl (by rw [count]; exact counting)]

/-- What the close leaves of a line that has taken no load and no switch report. -/
theorem close_idle_frame (pins : SwitchPins) (m : Line) :
    (((m.switched pins).loadCounted false).close true).applied = m.applied
      ∧ (((m.switched pins).loadCounted false).close true).joined = m.joined
      ∧ (((m.switched pins).loadCounted false).close true).profileDue = m.profileDue
      ∧ (((m.switched pins).loadCounted false).close true).tension = m.tension
      ∧ (((m.switched pins).loadCounted false).close true).protection = m.protection := by
  have profiles : (((m.switched pins).loadCounted false).close true).profiles = m.profiles := Line.close_profiles ..
  have measures := Line.close_measures true ((m.switched pins).loadCounted false)
  have alarms := Line.close_alarms true ((m.switched pins).loadCounted false)
  rw [Line.measures_eq_iff] at measures
  rw [Line.alarms_eq_iff] at alarms
  obtain ⟨-, -, -, warn, trip⟩ := measures
  obtain ⟨-, -, inhibit⟩ := alarms
  refine ⟨congrArg Prod.fst profiles, congrArg Prod.snd profiles, Line.close_profileDue .., Line.close_tension .., ?_⟩
  generalize ((m.switched pins).loadCounted false).close true = f at *
  obtain ⟨_, _, ⟨warnWatch, tripWatch, inhibited⟩, _, _, _, _⟩ := f
  obtain rfl : warnWatch = _ := warn
  obtain rfl : tripWatch = _ := trip
  obtain rfl : inhibited = _ := inhibit
  rfl

/-- A drive-powered line that has just taken a profile and is short of its deploy length goes on, at its speed. -/
theorem close_idle_driven {m : Line} (pins : SwitchPins) (driven : m.control.state.drivePowered = true)
    (short : m.control.state = .deploying → m.sense.payout < m.applied.deployLength)
    (below : m.control.stallCounter + 1 < m.applied.stallWindow) :
    (((m.switched pins).loadCounted false).close true).control
      = { m.control with stallCounter := m.control.stallCounter + 1 } := by
  rw [Line.close_counting (l := (m.switched pins).loadCounted false) true driven short below]
  rfl

/-- What a profile write that is applied makes of F, T, the watches and the flags (R26, R96, R102). -/
theorem Line.applyProfile_figures (p : Profile) (l : Line) :
    (l.applyProfile p).tension = { l.tension with tendDir := none, tendCount := 0 }
      ∧ (l.applyProfile p).protection = { l.protection with warnWatch := 0, tripWatch := 0 }
      ∧ (l.applyProfile p).has .warn = l.has .warn ∧ (l.applyProfile p).applied = p := by
  by_cases over' : l.overrun p
  · rw [Line.applyProfile_overrun over']
    refine ⟨if_pos (.inr rfl), rfl, ?_, rfl⟩
    have latched : ((l.fresh p).latch .allow).has .warn = (l.fresh p).has .warn := by simp [Line.has_latch]
    exact latched
  · rw [Line.applyProfile_continues over']
    obtain ⟨tension, protection, applied, -, -, -, -, -, control⟩ := Line.redriven_frame p (l.fresh p)
    refine ⟨tension, protection, ?_, applied⟩
    unfold Line.has
    rw [control]
    rfl

/-- What a profile write that is applied leaves of a line, and that none waits after it. -/
theorem Line.applyProfile_frame (p : Profile) (l : Line) :
    (l.applyProfile p).switches = l.switches ∧ (l.applyProfile p).sense.invalidCount = l.sense.invalidCount
      ∧ (l.applyProfile p).sense.payout = l.sense.payout ∧ (l.applyProfile p).control.slackWatch = 0
      ∧ (l.applyProfile p).profileDue = false ∧ (l.applyProfile p).joined = none := by
  by_cases over' : l.overrun p
  · rw [Line.applyProfile_overrun over']
    exact ⟨rfl, rfl, rfl, rfl, rfl, rfl⟩
  · rw [Line.applyProfile_continues over']
    obtain ⟨-, -, -, due, joined, switches, payout, count, control⟩ := Line.redriven_frame p (l.fresh p)
    exact ⟨switches, count, payout, by rw [control]; rfl, due, joined⟩

/-- A line that rests is left as it is. -/
theorem close_idle_rests {m : Line} (pins : SwitchPins) (starting : m.control.state ≠ .starting)
    (still : m.control.state.drivePowered = false) :
    (((m.switched pins).loadCounted false).close true).control = m.control := by
  rw [Line.close_still (l := (m.switched pins).loadCounted false) true starting still]
  rfl

theorem profileTaken_dwells {p : Profile} (h : profileTaken p = true) : 1 ≤ p.warnDwell ∧ 1 ≤ p.tripDwell := by
  simp only [profileTaken, Bool.and_eq_true, decide_eq_true_eq] at h
  omega

theorem exec_sampleEvent {s : State} {n : LineNo} {sample : BitVec 12} {pins : SwitchPins} (running : s.running = true) :
    exec (.sampleEvent n sample pins) s = .next (s.sampleEvent n sample pins) := whileRunning_running _ running

end Sys2Proof.Machine

namespace Sys2Proof

open Machine

/-- Settles O19: `sampleEvent_profile` for the line that already works by its profile, `Line.sampledOn_figures` and
`Line.sampledOn_watches` for a valid sample, and `sampleEvent_settled` for an invalid one. -/
theorem profileApplied : Obligations.ProfileApplied := by
  unfold Obligations.ProfileApplied
  intro n pins s l p speed driven fresh ends running fitted
  have redriven (q : Profile) (m : Line) (state : m.control.state = l.control.state) (sense : m.sense = l.sense)
      (drive : m.control.drive = l.control.drive) : m.redriven q = driven q m := by
    have speeds : speed q = if m.control.state.drivePowered then driveDemand q m.control.state else m.control.drive := by
      rw [state, drive]
      unfold speed
      cases l.control.state <;> rfl
    rw [Line.redriven_speed q m speeds, state, sense]
  have overruns : ends → l.overrun p := fun ⟨mark, there, over'⟩ => (Line.overrun_mark there).2 over'
  have unmarked (h : ¬ends) (tending : l.control.state ∈ [LineState.rendering, .recovering] → l.control.lockMark ≠ none) :
      ¬l.overrun p := by
    intro over'
    have listed : l.control.state ∈ [LineState.rendering, .recovering] := by
      obtain ⟨state, -⟩ | ⟨state, -⟩ := over'
      · rw [state]; decide
      · rw [state]; decide
    obtain ⟨mark, there⟩ := Option.ne_none_iff_exists'.1 (tending listed)
    exact h ⟨mark, there, (Line.overrun_mark there).1 over'⟩
  have joinedLine (q : Profile) (due : l.profileDue = false) (joined : l.joined = some q) :
      l.advanceHookTimer.profiled p = ((l.joinedTo q).redriven q).advanceHookTimer := by
    rw [Line.profiled_joined (l := l.advanceHookTimer) due joined, Line.useJoined_eq, ← Line.redriven_advanceHookTimer]
    rfl
  have appliedLine (due : l.profileDue = true) (h : ¬l.overrun p) :
      l.advanceHookTimer.profiled p = ((l.fresh p).redriven p).advanceHookTimer := by
    rw [Line.profiled_due (l := l.advanceHookTimer) due, Line.applyProfile_continues (l := l.advanceHookTimer) h,
      ← Line.redriven_advanceHookTimer]
    rfl
  have endedLine (due : l.profileDue = true) (h : l.overrun p) :
      l.advanceHookTimer.profiled p = ((l.fresh p).latch .allow).idleIn .locked := by
    rw [Line.profiled_due (l := l.advanceHookTimer) due, Line.applyProfile_overrun (l := l.advanceHookTimer) h]
    rfl
  refine ⟨fun sample levels => ⟨fun q due joined => ?joins, fun due on tending => ?continues, fun due over' => ?ends,
    fun due taken valid => ?valid⟩, fun settled counting => ⟨fun q due joined below => ?joined, fun due taken below => ?applied⟩⟩
  case joins =>
    have same := redriven q (l.joinedTo q) rfl rfl rfl
    obtain ⟨-, -, -, stillDue, stillJoined, -, -, -, control⟩ := Line.redriven_frame q (l.joinedTo q)
    rw [exec_sampleEvent running, exec_sampleEvent (s := s.putLine n _) running,
      sampleEvent_profile (m := (l.joinedTo q).redriven q) fitted ?_ (joinedLine q due joined) ?_, same]
    · rfl
    · unfold Line.profileStands
      rw [stillDue, stillJoined]
      exact congrArg (fun b => !b && true) due
    · rw [control]
      exact notable_same rfl rfl rfl rfl
  case continues =>
    have same := redriven p (l.fresh p) rfl rfl rfl
    obtain ⟨-, -, -, stillDue, stillJoined, -, -, -, control⟩ := Line.redriven_frame p (l.fresh p)
    rw [exec_sampleEvent running, exec_sampleEvent (s := s.putLine n _) running,
      sampleEvent_profile (m := (l.fresh p).redriven p) fitted ?_ (appliedLine due (unmarked on tending)) ?_, same]
    · rfl
    · unfold Line.profileStands
      rw [stillDue, stillJoined]
      rfl
    · rw [control]
      exact notable_same rfl rfl rfl rfl
  case ends =>
    refine ⟨_, _, exec_sampleEvent running, exec_sampleEvent (s := s.putLine n _) running, ?_⟩
    have ended := endedLine due (overruns over')
    rw [sampleEvent_profiled fitted, sampleEvent_profiled (s := s.putLine n _) fitted, State.line_putLine_self, ended,
      Line.advanceHookTimer_stopped rfl, Line.profiled_stands rfl]
    have same : ((l.fresh p).latch .allow).idleIn .locked
        = { fresh with control := { (fresh.idleIn .locked).control with flags := l.control.flags ||| Flag.allow.mask } } := by
      have tension : (((l.fresh p).latch .allow).idleIn .locked).tension = fresh.tension := if_pos (.inr rfl)
      have split : ((l.fresh p).latch .allow).idleIn .locked
          = { fresh with
              tension := (((l.fresh p).latch .allow).idleIn .locked).tension
              control := { (fresh.idleIn .locked).control with flags := l.control.flags ||| Flag.allow.mask } } := rfl
      rw [split, tension]
    rw [same]
    rfl
  case valid =>
    intro load
    refine ⟨_, exec_sampleEvent running, ?_⟩
    have loads : ((loadOf sample (s.setup n).zeroOffset : Nat) : Int) = load := loadOf_eq ..
    have good := (sampleValid_iff sample).2 valid
    obtain ⟨tension, protection, alarms, works⟩ := Line.applyProfile_figures p l.advanceHookTimer
    rw [sampleEvent_profiled fitted, Line.profiled_due (l := l.advanceHookTimer) due]
    generalize l.advanceHookTimer.applyProfile p = m at *
    obtain ⟨filtered, -, -⟩ := (Line.sampledOn_figures s.berth (s.setup n).zeroOffset sample levels m).1 good
    obtain ⟨warned, clear⟩ := Line.sampledOn_watches s.berth (s.setup n).zeroOffset levels m good
    obtain ⟨warnDwell, tripDwell⟩ := profileTaken_dwells taken
    have seeds : m.tension.filtered = l.tension.filtered := (congrArg Tension.filtered tension :)
    have flag : m.has .warn = l.has .warn := alarms
    rw [works, protection] at warned clear
    rw [works, seeds] at filtered
    refine ⟨fun f seeded => ?_, fun unseeded => ?_, fun latched => ?_, fun unlatched => ?_⟩
    · rw [filtered, seeded, filteredAfter_some, loads]
    · rw [filtered, unseeded, filteredAfter_none, loads]
    · obtain ⟨warnWatch, tripWatch⟩ := warned (flag.trans latched)
      refine ⟨warnWatch, tripWatch.trans ((watchStep_fresh _ tripDwell).1.trans ?_)⟩
      simp only [decide_eq_true_eq]
    · obtain ⟨tripWatch, warn, warnWatch⟩ := clear (flag.trans unlatched)
      obtain ⟨count, fires⟩ := watchStep_fresh (decide (p.warn
        < (m.sampledOn s.berth (s.setup n).zeroOffset sample levels).tension.reported)) warnDwell
      rw [decide_eq_true_iff] at fires
      refine ⟨tripWatch, warn.trans fires, warnWatch.trans ?_⟩
      change (if (watchStep p.warnDwell 0 _).2 = .fired then 0 else (watchStep p.warnDwell 0 _).1) = _
      rw [count, ite_congr (propext fires) (fun _ => rfl) (fun _ => rfl)]
      simp only [decide_eq_true_eq]
      by_cases above : p.warn < (m.sampledOn s.berth (s.setup n).zeroOffset sample levels).tension.reported
      · by_cases one : p.warnDwell = 1
        · rw [if_pos ⟨above, one⟩, if_neg fun h => absurd h.2 (by omega)]
        · rw [if_neg fun h => one h.2, if_pos above, if_pos ⟨above, by omega⟩]
      · rw [if_neg fun h => above h.1, if_neg above, if_neg fun h => above h.1]
  case joined =>
    refine ⟨_, exec_sampleEvent running, ?_⟩
    obtain ⟨tension, protection, works, stillDue, stillJoined, switches, payout, count, control⟩ :=
      Line.redriven_frame q (l.advanceHookTimer.joinedTo q)
    have profiled : l.advanceHookTimer.profiled p = (l.advanceHookTimer.joinedTo q).redriven q := by
      rw [Line.profiled_joined (l := l.advanceHookTimer) due joined, Line.useJoined_eq]
    have drives := Line.redriven_drive (p := q) (m := l.advanceHookTimer.joinedTo q)
    have stands := Line.redriven_still (p := q) (l := l.advanceHookTimer.joinedTo q)
    rw [sampleEvent_settled fitted profiled switches count settled counting]
    generalize (l.advanceHookTimer.joinedTo q).redriven q = m at *
    obtain ⟨applied', joined', -, tension', protection'⟩ := close_idle_frame pins m
    have state : m.control.state = l.control.state := (congrArg Control.state control :)
    have below' : m.control.stallCounter + 1 < m.applied.stallWindow := by
      rw [works, control]
      exact below
    refine ⟨applied'.trans works, joined'.trans stillJoined, tension'.trans tension, protection'.trans protection,
      fun slacking => ?_, fun still timer => ?_, fun deploying short => ?_⟩
    · rw [close_idle_driven pins (by rw [state, slacking]; rfl)
        (fun h => nomatch slacking.symm.trans (state.symm.trans h)) below', control]
      rfl
    · have rests : l.control.state.drivePowered = false ∧ l.control.state ≠ .starting := by
        rw [List.mem_cons, List.mem_singleton] at still
        obtain stowed | opened := still
        · rw [stowed]; exact ⟨rfl, nofun⟩
        · rw [opened]; exact ⟨rfl, nofun⟩
      rw [close_idle_rests pins (state.trans_ne rests.2) (by rw [state]; exact rests.1), stands rests.1]
      exact (congrArg Line.control (Line.advanceHookTimer_stopped timer) :)
    · have driven : m.control.state.drivePowered = true := by rw [state, deploying]; rfl
      rw [close_idle_driven pins driven (fun _ => by rw [payout, works]; exact short) below']
      refine ⟨state.trans deploying, (drives (state ▸ driven)).trans ?_⟩
      exact congrArg (driveDemand q) deploying
  case applied =>
    refine ⟨_, exec_sampleEvent running, ?_⟩
    obtain ⟨tension, protection, -, works⟩ := Line.applyProfile_figures p l.advanceHookTimer
    obtain ⟨switches, count, payout, slackWatch, due', joined'⟩ := Line.applyProfile_frame p l.advanceHookTimer
    have profiled := Line.profiled_due (l := l.advanceHookTimer) due p
    have ended (over' : l.overrun p) := Line.applyProfile_overrun (l := l.advanceHookTimer) over'
    have goesOn (on : ¬l.overrun p) := Line.applyProfile_continues (l := l.advanceHookTimer) on
    rw [sampleEvent_settled fitted profiled switches count settled counting]
    generalize l.advanceHookTimer.applyProfile p = m at *
    have closed := close_idle_frame pins m
    obtain ⟨applied, joined, stillDue, tension', protection'⟩ := closed
    have limited (over' : l.overrun p) : ((m.switched pins).loadCounted false).close true
        = (m.switched pins).loadCounted false := by
      have locked : m.control.state = .locked := by rw [ended over']; rfl
      exact Line.close_still (l := (m.switched pins).loadCounted false) true (locked.trans_ne nofun)
        (congrArg LineState.drivePowered locked)
    have drives (on : ¬l.overrun p) (driven : l.control.state.drivePowered = true) (short : l.control.state ≠ .deploying) :
        (((m.switched pins).loadCounted false).close true).control.state = l.control.state
          ∧ (((m.switched pins).loadCounted false).close true).control.drive = driveDemand p l.control.state := by
      have frame := Line.redriven_frame p (l.advanceHookTimer.fresh p)
      have drive := Line.redriven_drive (p := p) (m := l.advanceHookTimer.fresh p) driven
      rw [← goesOn on] at frame drive
      obtain ⟨-, -, -, -, -, -, -, -, control⟩ := frame
      have state : m.control.state = l.control.state := (congrArg Control.state control :)
      rw [close_idle_driven pins (state ▸ driven) (fun h => absurd (state.symm.trans h) short)
        (by rw [works, control]; exact below)]
      exact ⟨state, drive⟩
    refine ⟨applied.trans works, stillDue.trans due', joined.trans joined', by rw [tension', tension], by rw [tension', tension],
      by rw [protection', protection], by rw [protection', protection], ?_, fun mark rendering there limit => ?_,
      fun mark recovering there limit => ?_, fun mark recovering there limit => ?_, fun slacking => ?_⟩
    · exact Line.close_slackWatch (l := (m.switched pins).loadCounted false) slackWatch
    · have over' := (Line.overrun_mark there).2 (.inl ⟨rendering, limit⟩)
      rw [limited over', ended over']
      exact ⟨rfl, rfl⟩
    · have over' := (Line.overrun_mark there).2 (.inr ⟨recovering, limit⟩)
      rw [limited over', ended over']
      exact ⟨rfl, rfl, rfl⟩
    · have on : ¬l.overrun p := by
        rw [Line.overrun_mark there]
        rintro (⟨rendering, -⟩ | ⟨-, over'⟩)
        · exact nomatch recovering.symm.trans rendering
        · exact absurd limit (not_lt.2 over')
      have kept := drives on (congrArg LineState.drivePowered recovering) (recovering.trans_ne nofun)
      rw [recovering] at kept
      exact kept
    · have on : ¬l.overrun p := by
        rintro (⟨rendering, -⟩ | ⟨recovering, -⟩)
        · exact nomatch slacking.symm.trans rendering
        · exact nomatch slacking.symm.trans recovering
      have kept := drives on (congrArg LineState.drivePowered slacking) (slacking.trans_ne nofun)
      rw [slacking] at kept
      exact kept

end Sys2Proof

/-! PROOFS. The watched sets that a line command records, and the entries that it removes (R123, R124, R127): settles O6. -/

namespace Sys2Proof.Machine

/-! ### One group's record -/

/-- A record with the watched set of a station's entry recorded (R123). -/
def GroupRecord.watching (st : Station) (ns : List LineNo) (r : GroupRecord) : GroupRecord :=
  { r with inService := r.inService.map fun e => if e.station = st then { e with watched := some ns } else e }

/-- A line command of station `st`, taken for the lines `ns` of a group, is recorded in that group (R123). -/
def GroupRecord.recordsFor (st : Station) (ns : List LineNo) (r : GroupRecord) : Bool :=
  match r.inService with
  | e :: _ => e.station == st && e.single && e.watched.isNone && !ns.isEmpty
  | [] => false

/-- A group's record after a line command of station `st` that is taken for its lines `ns`, which rest or not (R123,
R124). -/
def GroupRecord.recorded (lead rests : Bool) (st : Station) (ns : List LineNo) (r : GroupRecord) : GroupRecord :=
  if r.recordsFor st ns then if rests then (r.watching st ns).removed lead st else r.watching st ns else r

theorem GroupRecord.watching_holder (st : Station) (ns : List LineNo) (r : GroupRecord) : (r.watching st ns).holder = r.holder := by
  unfold GroupRecord.watching GroupRecord.holder
  cases r.inService with
  | nil => rfl
  | cons e es =>
    simp only [List.map_cons, List.head?_cons, Option.map_some]
    split <;> rfl

theorem GroupRecord.watching_listed (st : Station) (ns : List LineNo) (r : GroupRecord) (x : Station) (single : Bool) :
    listed (r.watching st ns).inService x single ↔ listed r.inService x single := by
  have kept (e : Entry) : (if e.station = st then { e with watched := some ns } else e).station = e.station
      ∧ (if e.station = st then { e with watched := some ns } else e).single = e.single := by
    split <;> exact ⟨rfl, rfl⟩
  unfold listed GroupRecord.watching
  simp only [List.mem_map, exists_exists_and_eq_and, kept]

/-- The recording of a watched set is no change that R130 names. -/
theorem GroupRecord.watching_noticeDue (st : Station) (ns : List LineNo) (r r' : GroupRecord) :
    (r.watching st ns).noticeDue r' ↔ r.noticeDue r' := by
  unfold GroupRecord.noticeDue
  simp only [GroupRecord.watching_holder, GroupRecord.watching_listed]
  rfl

theorem recordChanged_watching (st : Station) (ns : List LineNo) (r r' : GroupRecord) :
    recordChanged (r.watching st ns) r' = recordChanged r r' := by
  rw [Bool.eq_iff_iff, recordChanged_iff, recordChanged_iff, GroupRecord.watching_noticeDue]

/-- The active holder's entry is the first of the set. -/
theorem entryOf_holder {st : Station} {r : GroupRecord} {e : Entry} {others : List Entry} (serving : r.inService = e :: others)
    (station : e.station = st) : entryOf st r.inService = some e := by
  rw [serving, entryOf, List.find?_cons_of_pos (by rw [station]; exact beq_self_eq_true st)]

/-- The tests that the model makes before it records a watched set. -/
theorem recordsFor_eq (st : Station) (ns : List LineNo) (r : GroupRecord) {e : Entry} (found : entryOf st r.inService = some e) :
    (e.single && e.watched.isNone && r.holder == some st && !ns.isEmpty) = r.recordsFor st ns := by
  unfold GroupRecord.recordsFor GroupRecord.holder
  cases serving : r.inService with
  | nil =>
    rw [serving] at found
    cases found
  | cons a others =>
    by_cases station : a.station = st
    · rw [entryOf_holder serving station] at found
      obtain rfl := Option.some.inj found
      simp [station, Bool.and_comm, Bool.and_left_comm]
    · have other : (a.station == st) = false := beq_eq_false_iff_ne.2 station
      simp [other]

theorem recordsFor_none {st : Station} {r : GroupRecord} (none : entryOf st r.inService = none) (ns : List LineNo) :
    r.recordsFor st ns = false := by
  unfold GroupRecord.recordsFor
  cases serving : r.inService with
  | nil => rfl
  | cons a others =>
    have station : ¬a.station = st := fun same => by
      rw [entryOf_holder serving same] at none
      cases none
    simp [station]

/-! ### One group after another -/

/-- A watched set that is recorded ahead of a change of the same record is no change of its own (R130). -/
theorem setRecord_setWatched (g : GroupNo) (st : Station) (ns : List LineNo) (r : GroupRecord) (s : State) :
    (s.setWatched st g ns).setRecord g r = s.setRecord g r := by
  have record : (s.setWatched st g ns).record g = (s.record g).watching st ns := State.record_putRecord_self ..
  have put : (s.setWatched st g ns).putRecord g r = s.putRecord g r := by
    simp [State.setWatched, State.putRecord, Vector.set_set]
  have lines : (s.setWatched st g ns).groupLines g = s.groupLines g := rfl
  unfold State.setRecord
  dsimp only
  rw [record, put, lines, recordChanged_watching, GroupRecord.watching_holder]

theorem setWatched_eq_setRecord (st : Station) (g : GroupNo) (ns : List LineNo) (s : State) :
    s.setWatched st g ns = s.setRecord g ((s.record g).watching st ns) := by
  have unchanged : recordChanged (s.record g) ((s.record g).watching st ns) = false := by
    rw [← recordChanged_watching st ns, Bool.eq_false_iff, Ne, recordChanged_iff]
    exact GroupRecord.noticeDue_self _
  unfold State.setRecord
  dsimp only
  rw [unchanged, GroupRecord.watching_holder, if_pos rfl]
  rfl

/-- The recording in one group is one change of its record. -/
theorem recordWatchedIn_eq_setRecord (st : Station) (taken : List LineNo) (g : GroupNo) (s : State) :
    s.recordWatchedIn st taken g
      = s.setRecord g ((s.record g).recorded s.table.settings.vesselLead
          (s.allResting (taken.filter fun n => (s.setup n).group == g)) st
          (taken.filter fun n => (s.setup n).group == g)) := by
  unfold State.recordWatchedIn GroupRecord.recorded
  dsimp only
  generalize (taken.filter fun n => (s.setup n).group == g) = mine
  cases found : entryOf st (s.record g).inService with
  | none =>
    rw [recordsFor_none found, if_neg Bool.false_ne_true, State.setRecord_self]
  | some e =>
    dsimp only
    rw [State.holder, recordsFor_eq st mine _ found]
    cases (s.record g).recordsFor st mine with
    | false => rw [if_neg Bool.false_ne_true, if_neg Bool.false_ne_true, State.setRecord_self]
    | true =>
      rw [if_pos rfl, if_pos rfl]
      have rests : (s.setWatched st g mine).allResting mine = s.allResting mine := rfl
      have record : (s.setWatched st g mine).record g = (s.record g).watching st mine := State.record_putRecord_self ..
      rw [rests]
      cases s.allResting mine with
      | false => exact setWatched_eq_setRecord st g mine s
      | true =>
        rw [if_pos rfl, if_pos rfl, removeEntry_eq_setRecord, record, setRecord_setWatched]
        rfl

/-- The recording of the watched sets revises the records of all groups, one after another. -/
theorem recordWatched_eq_revise (st : Station) (taken : List LineNo) (s : State) :
    s.recordWatched st taken
      = s.revise (fun g => GroupRecord.recorded s.table.settings.vesselLead
          (s.allResting (taken.filter fun n => (s.setup n).group == g)) st
          (taken.filter fun n => (s.setup n).group == g)) allGroups := by
  have each : ∀ (gs : List GroupNo) (u : State), AuthorityOnly s u →
      gs.foldl (fun s g => s.recordWatchedIn st taken g) u
        = u.revise (fun g => GroupRecord.recorded s.table.settings.vesselLead
          (s.allResting (taken.filter fun n => (s.setup n).group == g)) st
          (taken.filter fun n => (s.setup n).group == g)) gs := by
    intro gs
    induction gs with
    | nil => exact fun _ _ => rfl
    | cons g gs ih =>
      intro u only
      have setup (n : LineNo) : u.setup n = s.setup n := by rw [State.setup, only.table]; rfl
      have rests (ns : List LineNo) : u.allResting ns = s.allResting ns := by
        simp only [State.allResting, only.line]
      rw [List.foldl_cons, recordWatchedIn_eq_setRecord, only.table]
      simp only [setup, rests]
      exact ih _ (only.trans (setRecord_authorityOnly g _ u))
  exact each allGroups s (.refl s)

end Sys2Proof.Machine

/-! PROOFS. What a line command makes of the authority records, the events handed over and the authority notices, where no
watched set was recorded before it (R123, R124, R130): settles O6. -/

namespace Sys2Proof.Machine

/-- The lines of a group for which a command with outcomes `out` is taken (R123). -/
def State.takenIn (s : State) (mask : Byte) (out : LineNo → ReplyCode) (g : GroupNo) : List LineNo :=
  allLines.filter fun n => mask.getLsbD n.val && (out n == .done || out n == .noChange) && (s.setup n).group == g

theorem takenLines_filter (s : State) (mask : Byte) (out : LineNo → ReplyCode) (g : GroupNo) :
    ((takenLines (maskLines mask) ((maskLines mask).map out)).filter fun n => (s.setup n).group == g) = s.takenIn mask out g := by
  have taken (c : ReplyCode) : c.isTaken = (c == .done || c == .noChange) := by cases c <;> rfl
  have zipped : ∀ ns : List LineNo, takenLines ns (ns.map out) = ns.filter fun n => (out n).isTaken := by
    intro ns
    unfold takenLines
    induction ns with
    | nil => rfl
    | cons n ns ih =>
      rw [List.map_cons, List.zip_cons_cons, List.filter_cons, List.filter_cons]
      split
      · rw [List.map_cons, ih]
      · exact ih
  rw [zipped, maskLines, List.filter_filter, List.filter_filter]
  unfold State.takenIn
  refine List.filter_congr fun n _ => ?_
  rw [taken]
  ac_rfl

/-- What the recording of the watched sets after a line command makes of the part: the records, the halts of the groups whose
active holder changes behind `first`, and the notices. -/
structure SingleRecorded (st : Station) (mine : GroupNo → List LineNo) (first : List DueEvent) (s t : State) : Prop where
  marks : s.groupNoticesMarked t
  due : t.due = s.due ++ first
    ++ allGroups.flatMap fun g => if t.holder g = s.holder g then [] else (s.groupLines g).map DueEvent.halt
  record : ∀ g, t.record g = (s.record g).recorded s.table.settings.vesselLead (t.allResting (mine g)) st (mine g)

/-- The watched sets recorded after work that has left the records as they were, and the reply (R123, R163). -/
theorem recordWatched_recorded {s u : State} {first : List DueEvent} (records : u.records = s.records)
    (table : u.table = s.table) (due : u.due = s.due ++ first)
    (marks : ∀ x, (u.link x).groupMarks = (s.link x).groupMarks) (present : ∀ x, u.present x = s.present x)
    (st : Station) (taken : List LineNo) (kind : Byte) (body : List Byte) :
    SingleRecorded st (fun g => taken.filter fun n => (s.setup n).group == g) first s
      ((u.recordWatched st taken).placeReply st kind body) := by
  have revised := revise_revised (fun g => GroupRecord.recorded u.table.settings.vesselLead
          (u.allResting (taken.filter fun n => (u.setup n).group == g)) st
          (taken.filter fun n => (u.setup n).group == g)) allGroups u (by decide)
  rw [← recordWatched_eq_revise] at revised
  have placed := revised.placeReply st kind body
  have setup (n : LineNo) : u.setup n = s.setup n := by rw [State.setup, table]; rfl
  have record (g : GroupNo) : u.record g = s.record g := by rw [State.record, records]; rfl
  have groupLines (g : GroupNo) : u.groupLines g = s.groupLines g := by
    unfold State.groupLines State.fitted
    simp only [setup]
  generalize u.recordWatched st taken = v at *
  have rests (ns : List LineNo) : (v.placeReply st kind body).allResting ns = u.allResting ns := by
    simp only [State.allResting, State.placeReply, State.line_onLink, revised.only.line]
  obtain ⟨due', -, -, -, -, marks', -⟩ := placed
  refine ⟨fun x g => ?_, ?_, fun g => ?_⟩
  · refine (marks' x g).trans ?_
    rw [marks, present, record]
  · rw [due', due]
    refine congrArg _ (List.flatMap_congr fun g _ => ?_)
    rw [groupLines, show u.holder g = s.holder g from congrArg GroupRecord.holder (record g)]
  · rw [rests, State.placeReply, State.record_onLink, revised.record, if_pos (mem_allGroups g), table, record]
    simp only [setup]

/-! ### The record after a command -/

theorem resting_iff (x : LineState) :
    x.resting = true ↔ x ∉ [LineState.deploying, .engaging, .hauling, .slacking, .opening, .rewinding] := by
  cases x <;> decide

theorem allResting_iff (s : State) (ns : List LineNo) :
    s.allResting ns = true
      ↔ ∀ n ∈ ns, (s.line n).control.state ∉ [LineState.deploying, .engaging, .hauling, .slacking, .opening, .rewinding] := by
  simp only [State.allResting, List.all_eq_true, resting_iff]

/-- Of a station's removal its watched set says nothing. -/
theorem watching_lacking (st : Station) (ns : List LineNo) (r : GroupRecord) : (r.watching st ns).lacking st = r.lacking st := by
  unfold GroupRecord.lacking GroupRecord.watching
  dsimp only
  refine congrArg (GroupRecord.mk · _) ?_
  induction r.inService with
  | nil => rfl
  | cons e es ih =>
    by_cases same : e.station = st
    · simpa [same] using ih
    · simpa [same] using ih

section
variable {lead : Bool} {here : Station → Bool} {r : GroupRecord} {st : Station} {ns : List LineNo} {e : Entry}
  {others : List Entry}

theorem recorded_untaken (rests : Bool) (h : r.recordsFor st ns = false) : r.recorded lead rests st ns = r :=
  if_neg (by rw [h]; nofun)

theorem recorded_rests (sound : r.Sound lead here) (h : r.recordsFor st ns = true) (entered : ∃ e ∈ r.entries, e.station = st) :
    (r.lacking st).reevaluatedTo lead (r.recorded lead true st ns) := by
  have recorded : r.recorded lead true st ns = (r.watching st ns).removed lead st := (if_pos h).trans (if_pos rfl)
  have sound' : (r.watching st ns).Sound lead here :=
    sound.mapServing (f := fun e => if e.station = st then { e with watched := some ns } else e) fun e => by split <;> rfl
  have entered' : ∃ e ∈ (r.watching st ns).entries, e.station = st := by
    obtain ⟨e, he, station⟩ := entered
    rw [GroupRecord.entries, List.mem_append] at he
    obtain he | he := he
    · exact ⟨_, List.mem_append_left _ (List.mem_map_of_mem he), by split <;> exact station⟩
    · exact ⟨e, List.mem_append_right _ he, station⟩
  have removed := (sound'.removed_cases st).1 entered'
  rw [watching_lacking] at removed
  rw [recorded]
  exact removed

/-- The holder's entry alone takes the watched set. -/
theorem recorded_moves (sound : r.Sound lead here) (h : r.recordsFor st ns = true) (serving : r.inService = e :: others)
    (station : e.station = st) :
    r.recorded lead false st ns = { r with inService := { e with watched := some ns } :: others } := by
  have recorded : r.recorded lead false st ns = r.watching st ns := (if_pos h).trans (if_neg Bool.false_ne_true)
  have once := ranked_nodup sound.servingRanked
  rw [serving, List.map_cons, List.nodup_cons] at once
  have kept : others.map (fun e => if e.station = st then { e with watched := some ns } else e) = others := by
    refine (List.map_congr_left fun e' he' => if_neg fun same => ?_).trans (List.map_id others)
    exact once.1 (station ▸ same ▸ List.mem_map_of_mem he')
  rw [recorded, GroupRecord.watching, serving, List.map_cons, kept, if_pos station]

end

end Sys2Proof.Machine

/-! PROOFS. Single-command authority at the request event of a line command (R123, R124, R127): settles O6. -/

namespace Sys2Proof.Machine

/-- A line command that changes its lines one by one (R43, R163). -/
theorem exec_lineCommand_recorded {s : State} {st : Station} {kind mask : Byte} {ok : Bool}
    {f : (LineNo → Bool) → LineNo → State → State × ReplyCode} {out : LineNo → ReplyCode} {g : LineNo → Line → Line}
    (accepted : s.accepts st = true) (hok : ok = true) (clear : (s.link st).restartInd = false) (quiet : s.quiet)
    (each : ∀ n u, SameFor s u n →
      f (s.permitted st) n u = if out n = .done then (u.onLine n (g n), .done) else (u, out n)) :
    ∃ t, whileRunning (State.requestEvent st ok (State.lineCommand st kind mask f)) s = .next t
      ∧ SingleRecorded st (s.takenIn mask out) [] s t := by
  refine ⟨_, request_taken accepted hok, ?_⟩
  obtain ⟨codes, -, taken⟩ := takeLines_spec (fun n u line table berth => each n u ⟨line, table, berth⟩) (maskLines mask) s
    (maskLines_nodup mask) (fun _ _ => rfl) (.refl s)
  obtain ⟨records, due, marks⟩ := taken.authority quiet
  unfold State.lineCommand State.restartSet
  rw [clear]
  simp only [Bool.false_eq_true, if_false]
  rw [codes]
  have recorded := recordWatched_recorded records taken.beside.table (due.trans (List.append_nil _).symm) marks
    taken.beside.present st (takenLines (maskLines mask) ((maskLines mask).map out)) kind
    ([ReplyCode.done.code, mask] ++ ((maskLines mask).map out).map ReplyCode.code)
  simp only [takenLines_filter] at recorded
  exact recorded

/-- QUICK RELEASE changes no line and hands its queue take over first (R140, R142). -/
theorem exec_quickRelease_recorded {s : State} {st : Station} (mask : Byte) (accepted : s.accepts st = true)
    (clear : (s.link st).restartInd = false) :
    ∃ t, exec (.quickRelease st mask) s = .next t
      ∧ SingleRecorded st (s.takenIn mask (quickReleaseOutcome s st))
          (if (∃ n : LineNo, mask.getLsbD n.val = true ∧ quickReleaseOutcome s st n = .done) ∧ s.berth.stagger = none
            ∧ DueEvent.queueTake ∉ s.due then [.queueTake] else []) s t := by
  refine ⟨_, (request_taken accepted rfl).trans (congrArg _ (lineCommand_quickRelease mask clear)), ?_⟩
  have joins : newEntries s.berth.queue (s.quickReleasing st mask) ≠ []
      ↔ ∃ n : LineNo, mask.getLsbD n.val = true ∧ quickReleaseOutcome s st n = .done := by
    rw [newEntries_quickReleasing, State.quickReleasing, Ne, List.filter_eq_nil_iff]
    simp [mem_maskLines]
  have appended := appendQueue_spec (s.quickReleasing st mask) s
  have due : (s.appendQueue (s.quickReleasing st mask)).due
      = s.due ++ if (∃ n : LineNo, mask.getLsbD n.val = true ∧ quickReleaseOutcome s st n = .done) ∧ s.berth.stagger = none
        ∧ DueEvent.queueTake ∉ s.due then [.queueTake] else [] := by
    rw [appended]
    refine (if_congr (and_congr_left' joins) rfl rfl).trans ?_
    split
    · rfl
    · exact (List.append_nil _).symm
  have recorded := recordWatched_recorded (by rw [appended]) (by rw [appended]) due (fun x => by rw [appendQueue_link])
    (fun x => by rw [appended]; rfl) st (takenLines (maskLines mask) ((maskLines mask).map (quickReleaseOutcome s st)))
    0x27#8 ([ReplyCode.done.code, mask] ++ ((maskLines mask).map (quickReleaseOutcome s st)).map ReplyCode.code)
  simp only [takenLines_filter] at recorded
  exact recorded

end Sys2Proof.Machine

namespace Sys2Proof

open Machine

/-- Settles O6: each command by `exec_lineCommand_recorded`, QUICK RELEASE by `exec_quickRelease_recorded`, and each group's
record by `recorded_untaken`, `recorded_rests` and `recorded_moves`. -/
theorem singleCommandRequest : Obligations.SingleCommandRequest := by
  unfold Obligations.SingleCommandRequest
  intro st mask option s accepted clear unwatched sound hoption c hc
  rw [State.authoritySound_iff] at sound
  rw [noWatched_iff] at unwatched
  have quiet : s.quiet := fun g e he => .inr (unwatched g e he)
  have ran : ∃ t, exec c.1 s = .next t
      ∧ SingleRecorded st (s.takenIn mask c.2)
          (if c.1 = .quickRelease st mask ∧ (∃ n : LineNo, mask.getLsbD n.val = true ∧ c.2 n = .done)
            ∧ s.berth.stagger = none ∧ DueEvent.queueTake ∉ s.due then [.queueTake] else []) s t := by
    simp only [List.mem_cons, List.not_mem_nil, or_false] at hc
    obtain rfl | rfl | rfl | rfl | rfl | rfl | rfl | rfl | rfl := hc
    case inr.inr.inr.inr.inr.inr.inr.inr =>
      simp only [true_and]
      exact exec_quickRelease_recorded mask accepted clear
    all_goals simp only [reduceCtorEq, false_and, if_false]
    · exact exec_lineCommand_recorded accepted rfl clear quiet fun n u h => deployLine_eq h
    · exact exec_lineCommand_recorded accepted rfl clear quiet fun n u h => engageLine_eq h
    · exact exec_lineCommand_recorded accepted rfl clear quiet fun n u h => lockLine_eq h
    · exact exec_lineCommand_recorded accepted rfl clear quiet fun n u h => holdLine_eq h
    · exact exec_lineCommand_recorded accepted rfl clear quiet fun n u h => markLine_eq h
    · exact exec_lineCommand_recorded accepted hoption clear quiet fun n u h => releaseLine_eq _ h
    · exact exec_lineCommand_recorded accepted rfl clear quiet fun n u h => rewindLine_eq h
    · exact exec_lineCommand_recorded accepted rfl clear quiet fun n u h => resetLineOne_eq h
  obtain ⟨t, next, recorded⟩ := ran
  refine ⟨t, next, recorded.marks, recorded.due, fun g => ?_⟩
  have record := recorded.record g
  have resting := allResting_iff t (s.takenIn mask c.2 g)
  intro taken rests
  have named : taken = s.takenIn mask c.2 g := rfl
  clear_value taken
  subst named
  split
  next e others serving =>
    have mem : e ∈ (s.record g).entries := List.mem_append_left _ (serving ▸ List.mem_cons_self)
    have records : (s.record g).recordsFor st (s.takenIn mask c.2 g) = true
        ↔ e.station = st ∧ e.single = true ∧ s.takenIn mask c.2 g ≠ [] := by
      unfold GroupRecord.recordsFor
      rw [serving]
      simp [unwatched g e mem, and_assoc]
    split
    next takes =>
      refine ⟨fun rest => ?_, fun moves => ?_⟩
      · rw [record, resting.2 rest]
        exact recorded_rests (sound g) (records.2 takes) ⟨e, mem, takes.1⟩
      · rw [record, Bool.eq_false_iff.2 (mt resting.1 moves)]
        exact recorded_moves (sound g) (records.2 takes) serving takes.1
    next refused =>
      rw [record]
      exact recorded_untaken _ (Bool.eq_false_iff.2 (mt records.1 refused))
  next serving =>
    rw [record]
    refine recorded_untaken _ ?_
    unfold GroupRecord.recordsFor
    rw [serving]

end Sys2Proof

/-! PROOFS. One marked entry that alone watches, and the single-command test of its lines (R124): for O7. -/

namespace Sys2Proof.Machine

/-! ### The single-command test -/

/-- Of a list's members one alone is worked, once. -/
theorem foldl_one {σ α : Type} {f : σ → α → σ} {P : σ → Prop} {a : α} :
    ∀ (l : List α) (s : σ), (∀ b ∈ l, b ≠ a → ∀ s, P s → f s b = s) → P s → P (f s a) → l.Nodup → a ∈ l →
      l.foldl f s = f s a
  | b :: l, s, idle, hs, ha, nodup, mem => by
    obtain ⟨fresh, nodup⟩ := List.nodup_cons.1 nodup
    have idle' : ∀ b ∈ l, b ≠ a → ∀ s, P s → f s b = s := fun c hc => idle c (List.mem_cons_of_mem _ hc)
    by_cases same : b = a
    · subst same
      have rest : ∀ (m : List α), (∀ c ∈ m, f (f s b) c = f s b) → m.foldl f (f s b) = f s b := by
        intro m
        induction m with
        | nil => exact fun _ => rfl
        | cons c m ih =>
          intro still
          rw [List.foldl_cons, still c List.mem_cons_self]
          exact ih fun d hd => still d (List.mem_cons_of_mem _ hd)
      rw [List.foldl_cons]
      exact rest l fun c hc => idle' c hc (fun same => fresh (same ▸ hc)) _ ha
    · rw [List.foldl_cons, idle b List.mem_cons_self same s hs]
      exact foldl_one l s idle' hs ha nodup ((List.mem_cons.1 mem).resolve_left (Ne.symm same))

/-- Entry `e` in service in group `g` is marked and watches the lines `ws`, and no other entry watches (R123). -/
structure Sole (g : GroupNo) (e : Entry) (ws : List LineNo) (s : State) : Prop where
  sound : ∀ g, (s.record g).Sound s.table.settings.vesselLead s.present
  mem : e ∈ (s.record g).inService
  single : e.single = true
  watched : e.watched = some ws
  only : ∀ x, ∀ e' ∈ (s.record x).entries, e'.watched ≠ none → x = g ∧ e' = e

section
variable {g : GroupNo} {e : Entry} {ws : List LineNo} {s u : State}

theorem Sole.of_same (h : Sole g e ws s) (records : u.records = s.records) (table : u.table = s.table)
    (present : ∀ x, u.present x = s.present x) : Sole g e ws u := by
  have record (x : GroupNo) : u.record x = s.record x := by rw [State.record, records]; rfl
  refine ⟨fun x => ?_, record g ▸ h.mem, h.single, h.watched, fun x => record x ▸ h.only x⟩
  rw [record, table]
  exact (h.sound x).mono fun y => (present y).trans

theorem Sole.entered (h : Sole g e ws s) : e ∈ (s.record g).entries := List.mem_append_left _ h.mem

theorem Sole.unwatched (h : Sole g e ws s) {x : GroupNo} {e' : Entry} (he : e' ∈ (s.record x).entries)
    (other : x ≠ g ∨ e' ≠ e) : e'.watched = none := by
  by_contra watches
  obtain ⟨group, entry⟩ := h.only x e' he watches
  exact other.elim (fun h => h group) fun h => h entry

/-- The test of the group's entries is that of the one that watches. -/
theorem Sole.testGroup (h : Sole g e ws s) (n : LineNo) :
    s.testGroup n g = if n ∈ ws ∧ s.allResting ws = true then s.removeEntry e.station g else s := by
  have once : (s.record g).entries.Nodup := (h.sound g).attended.once.of_map
  have test : ((e.watched.getD []).contains n && s.singleDone e) = true ↔ n ∈ ws ∧ s.allResting ws = true := by
    rw [State.singleDone, h.single, h.watched, Bool.and_eq_true, Option.getD_some, List.contains_iff_mem, Bool.true_and]
  have idle : ∀ e' ∈ (s.record g).entries, e' ≠ e → ∀ t : State, True →
      (if (e'.watched.getD []).contains n && t.singleDone e' then t.removeEntry e'.station g else t) = t := by
    intro e' he other t _
    rw [h.unwatched he (.inr other)]
    rfl
  unfold State.testGroup
  refine (foldl_one (P := fun _ => True) (s.record g).entries s idle trivial trivial once h.entered).trans ?_
  exact if_congr test rfl rfl

/-- The single-command test at a line is that of the one entry that watches (R124). -/
theorem Sole.singleTest (h : Sole g e ws s) (n : LineNo) :
    s.singleTest n = if n ∈ ws ∧ s.allResting ws = true then s.removeEntry e.station g else s := by
  have others : ∀ x ∈ allGroups, x ≠ g → ∀ t : State, (∀ y, y ≠ g → t.record y = s.record y) → t.testGroup n x = t := by
    intro x _ other t kept
    refine testGroup_eq_self n x t fun e' he => .inr ?_
    rw [kept x other] at he
    exact h.unwatched he (.inl other)
  have after : ∀ y, y ≠ g → (s.testGroup n g).record y = s.record y := by
    intro y other
    rw [h.testGroup]
    split
    · rw [removeEntry_record_eq, if_neg other]
    · rfl
  exact (foldl_one allGroups s others (fun _ _ => rfl) after (by decide) (mem_allGroups g)).trans (h.testGroup n)

/-- A change of a line's record, with the test that it makes where it changes the state. -/
theorem Sole.onLine (h : Sole g e ws s) (n : LineNo) (f : Line → Line) :
    s.onLine n f
      = if (f (s.line n)).control.state ≠ (s.line n).control.state ∧ n ∈ ws ∧ (s.onLine n f).allResting ws = true then
          (s.lineChanged n (f (s.line n))).removeEntry e.station g
        else s.lineChanged n (f (s.line n)) := by
  have changed : s.onLine n f
      = if (s.line n).control.state = (f (s.line n)).control.state then s.lineChanged n (f (s.line n))
        else (s.lineChanged n (f (s.line n))).singleTest n := rfl
  have line (m : LineNo) : (s.onLine n f).line m = (s.lineChanged n (f (s.line n))).line m :=
    (onLine_authorityOnly n f s).line m
  have rests : (s.onLine n f).allResting ws = (s.lineChanged n (f (s.line n))).allResting ws := by
    simp only [State.allResting, line]
  have beside := lineChanged_besideLines n (f (s.line n)) s
  have records : (s.lineChanged n (f (s.line n))).records = s.records := by
    unfold State.lineChanged
    split <;> rfl
  rw [rests, changed, (h.of_same records beside.table beside.present).singleTest]
  by_cases same : (f (s.line n)).control.state = (s.line n).control.state
  · rw [if_pos same.symm, if_neg fun h => h.1 same]
  · rw [if_neg (Ne.symm same)]
    exact if_congr ⟨fun h => ⟨same, h⟩, fun h => h.2⟩ rfl rfl

end

/-! ### Before and after the removal -/

/-- From `s` to `u` the Arbiter's items stand. -/
structure Kept (s u : State) : Prop where
  table : u.table = s.table
  present : ∀ x, u.present x = s.present x
  records : u.records = s.records
  marks : ∀ x, (u.link x).groupMarks = (s.link x).groupMarks

/-- From `s` to `u` the entry of station `st` has left group `g`, with the notice and the halts that follow (R120, R124,
R130). -/
structure Gone (g : GroupNo) (st : Station) (s u : State) : Prop where
  table : u.table = s.table
  present : ∀ x, u.present x = s.present x
  others : ∀ x, x ≠ g → u.record x = s.record x
  removed : u.record g = (s.record g).removed s.table.settings.vesselLead st
  marks : s.groupNoticesMarked u
  halts : u.holder g ≠ s.holder g → ∀ d ∈ (s.groupLines g).map DueEvent.halt, d ∈ u.due

theorem Kept.refl (s : State) : Kept s s := ⟨rfl, fun _ => rfl, rfl, fun _ => rfl⟩

theorem Kept.trans {s t u : State} (h : Kept s t) (h' : Kept t u) : Kept s u :=
  ⟨h'.table.trans h.table, fun x => (h'.present x).trans (h.present x), h'.records.trans h.records,
    fun x => (h'.marks x).trans (h.marks x)⟩

theorem Kept.record {s u : State} (h : Kept s u) (x : GroupNo) : u.record x = s.record x := by
  rw [State.record, h.records]
  rfl

theorem Kept.groupNoticesMarked {s u : State} (h : Kept s u) : s.groupNoticesMarked u := by
  intro x g
  rw [h.marks, h.record]
  simp [GroupRecord.noticeDue_self]

theorem Gone.then {g : GroupNo} {st : Station} {s t u : State} (h : Gone g st s t) (h' : Kept t u)
    (due : ∀ m, DueEvent.halt m ∈ t.due → DueEvent.halt m ∈ u.due) : Gone g st s u where
  table := h'.table.trans h.table
  present x := (h'.present x).trans (h.present x)
  others x other := (h'.record x).trans (h.others x other)
  removed := (h'.record g).trans h.removed
  marks x y := by
    rw [h'.marks, h'.record]
    exact h.marks x y
  halts changed d hd := by
    have before := h.halts (by rwa [State.holder, h'.record] at changed) d hd
    obtain ⟨m, -, rfl⟩ := List.mem_map.1 hd
    exact due m before

section
variable {g : GroupNo} {e : Entry} {ws : List LineNo} {s u : State}

theorem lineChanged_kept (n : LineNo) (l : Line) (s : State) : Kept s (s.lineChanged n l) := by
  have beside := lineChanged_besideLines n l s
  refine ⟨beside.table, beside.present, ?_, fun x => ?_⟩
  · unfold State.lineChanged
    split <;> rfl
  · unfold State.lineChanged
    split
    · exact markLine_groupMarks n _ x
    · rfl

theorem Kept.remove (kept : Kept s u) (st : Station) (g : GroupNo) : Gone g st s (u.removeEntry st g) := by
  have only := removeEntry_authorityOnly st g u
  have groupLines : u.groupLines g = s.groupLines g := by
    unfold State.groupLines State.fitted State.setup
    rw [kept.table]
  refine ⟨only.table.trans kept.table, fun x => (only.present x).trans (kept.present x), fun x other => ?_, ?_,
    fun x y => ?_, fun changed d hd => ?_⟩
  · rw [removeEntry_record_eq, if_neg other, kept.record]
  · rw [removeEntry_record_eq, if_pos rfl, kept.record, kept.table]
  · rw [(removeEntry_rescinds st g u).marks x y, kept.marks, kept.present, kept.record]
  · have holder : ¬(u.record g).holder = ((u.record g).removed u.table.settings.vesselLead st).holder := by
      rw [State.holder, State.holder, removeEntry_record_eq, if_pos rfl, ← kept.record] at changed
      exact Ne.symm changed
    rw [removeEntry_eq_setRecord, setRecord_due, if_neg holder, groupLines]
    exact List.mem_append_right _ hd

/-- The removal leaves no entry that watches. -/
theorem Gone.quiet (sole : Sole g e ws s) (gone : Gone g e.station s u) : u.quiet := by
  intro x e' he
  refine .inr ?_
  by_cases same : x = g
  · subst same
    rw [gone.removed] at he
    have absent := ((sole.sound x).removed e.station).present e' he
    have within := (GroupRecord.removed_rescinded s.table.settings.vesselLead e.station (s.record x)).within e' he
    refine sole.unwatched within (.inr fun same => ?_)
    rw [same] at absent
    simp at absent
  · rw [gone.others x same] at he
    exact sole.unwatched he (.inl same)

/-- A change of a line after the removal reaches no record. -/
theorem Gone.onLine (sole : Sole g e ws s) (gone : Gone g e.station s u) (n : LineNo) (f : Line → Line) :
    Gone g e.station s (u.onLine n f) := by
  obtain ⟨records, due, marks⟩ := onLine_sameAuthority n f u (gone.quiet sole)
  have beside := onLine_besideLines n f u
  exact gone.then ⟨beside.table, beside.present, records, marks⟩ fun _ hd => due ▸ hd

/-- A change of a line before the removal: the entry goes where the line's state changes, the line is watched and every
watched line then rests, and stands otherwise (R124). -/
theorem Kept.onLine (sole : Sole g e ws s) (kept : Kept s u) (n : LineNo) (f : Line → Line) :
    (Kept s (u.onLine n f)
        ∧ ¬((f (u.line n)).control.state ≠ (u.line n).control.state ∧ n ∈ ws ∧ (u.onLine n f).allResting ws = true))
      ∨ (Gone g e.station s (u.onLine n f) ∧ (f (u.line n)).control.state ≠ (u.line n).control.state
        ∧ n ∈ ws ∧ (u.onLine n f).allResting ws = true) := by
  have changed := (sole.of_same kept.records kept.table kept.present).onLine n f
  have kept' := kept.trans (lineChanged_kept n (f (u.line n)) u)
  by_cases test : (f (u.line n)).control.state ≠ (u.line n).control.state ∧ n ∈ ws ∧ (u.onLine n f).allResting ws = true
  · rw [if_pos test] at changed
    exact .inr ⟨changed ▸ kept'.remove e.station g, test⟩
  · rw [if_neg test] at changed
    exact .inl ⟨changed ▸ kept', test⟩

/-- A change of a line hands over the halts of a change of the active holder, and nothing else. -/
theorem Sole.onLine_due (sole : Sole g e ws s) (n : LineNo) (f : Line → Line) :
    (s.onLine n f).due
      = s.due ++ if (s.onLine n f).holder g = s.holder g then [] else (s.groupLines g).map DueEvent.halt := by
  have kept := lineChanged_kept n (f (s.line n)) s
  have due : (s.lineChanged n (f (s.line n))).due = s.due := by
    unfold State.lineChanged
    split <;> rfl
  have groupLines : (s.lineChanged n (f (s.line n))).groupLines g = s.groupLines g := by
    unfold State.groupLines State.fitted State.setup
    rw [kept.table]
  have changed := sole.onLine n f
  split at changed
  · rw [changed, removeEntry_eq_setRecord, setRecord_due, setRecord_holder, if_pos rfl, due, groupLines, kept.record,
      State.holder]
    by_cases same : (s.record g).holder = ((s.record g).removed (s.lineChanged n (f (s.line n))).table.settings.vesselLead
      e.station).holder
    · rw [if_pos same, if_pos same.symm, List.append_nil]
    · rw [if_neg same, if_neg (Ne.symm same)]
  · rw [changed, due, State.holder, kept.record, State.holder, if_pos rfl, List.append_nil]

end

end Sys2Proof.Machine

/-! PROOFS. The single-command test at the events of one watched line (R62, R63, R64, R93, R124): for O7. -/

namespace Sys2Proof.Machine

section
variable {g : GroupNo} {e : Entry} {ws : List LineNo} {n : LineNo} {s t u : State}

/-- The watching entry stands, line `n` having its state of before or a watched line moving, or it has gone and every watched
line rests. -/
def Watched (g : GroupNo) (e : Entry) (ws : List LineNo) (n : LineNo) (s t : State) : Prop :=
  (Kept s t ∧ ((t.line n).control.state = (s.line n).control.state ∨ t.allResting ws = false))
    ∨ (Gone g e.station s t ∧ t.allResting ws = true)

/-- What R124 says of an event of line `n`, of which every record but that of group `g` stands. -/
structure Tested (g : GroupNo) (e : Entry) (ws : List LineNo) (n : LineNo) (s t : State) : Prop where
  marks : s.groupNoticesMarked t
  others : ∀ x, x ≠ g → t.record x = s.record x
  removed : (t.line n).control.state ≠ (s.line n).control.state → t.allResting ws = true →
    ((s.record g).lacking e.station).reevaluatedTo s.table.settings.vesselLead (t.record g)
  moving : t.allResting ws = false → t.record g = s.record g
  halts : t.holder g ≠ s.holder g → ∀ d ∈ (s.groupLines g).map DueEvent.halt, d ∈ t.due

theorem Sole.removed (sole : Sole g e ws s) (gone : Gone g e.station s t) :
    ((s.record g).lacking e.station).reevaluatedTo s.table.settings.vesselLead (t.record g) := by
  rw [gone.removed]
  exact ((sole.sound g).removed_cases e.station).1 ⟨e, sole.entered, rfl⟩

theorem Watched.tested (sole : Sole g e ws s) (h : Watched g e ws n s t) : Tested g e ws n s t := by
  obtain ⟨kept, stays⟩ | ⟨gone, rests⟩ := h
  · have holder : t.holder g = s.holder g := congrArg GroupRecord.holder (kept.record g)
    refine ⟨kept.groupNoticesMarked, fun x _ => kept.record x, fun changed rests => ?_, fun _ => kept.record g,
      fun changed => absurd holder changed⟩
    obtain same | moves := stays
    · exact absurd same changed
    · rw [rests] at moves
      cases moves
  · refine ⟨gone.marks, gone.others, fun _ _ => sole.removed gone, fun moves => ?_, gone.halts⟩
    rw [rests] at moves
    cases moves

/-- Work that reaches neither a line's state nor the Arbiter. -/
structure Silent (t u : State) : Prop where
  kept : Kept t u
  states : ∀ m, (u.line m).control.state = (t.line m).control.state
  due : ∀ m, DueEvent.halt m ∈ t.due → DueEvent.halt m ∈ u.due

theorem Silent.allResting (h : Silent t u) (ns : List LineNo) : u.allResting ns = t.allResting ns := by
  simp only [State.allResting, h.states]

theorem Watched.silent (h : Watched g e ws n s t) (silent : Silent t u) : Watched g e ws n s u := by
  unfold Watched
  rw [silent.allResting, silent.states]
  refine h.imp (fun ⟨kept, stays⟩ => ⟨kept.trans silent.kept, stays⟩) fun ⟨gone, rests⟩ => ⟨gone.then silent.kept silent.due, rests⟩

/-- One change of a line from the state that the test started from. -/
theorem onLine_watched (sole : Sole g e ws s) (kept : Kept s u)
    (state : (u.line n).control.state = (s.line n).control.state) (f : Line → Line) (mem : n ∈ ws) :
    Watched g e ws n s (u.onLine n f)
      ∧ (((u.onLine n f).line n).control.state = (s.line n).control.state → (u.onLine n f).record g = s.record g) := by
  rw [onLine_line_self, ← state]
  obtain ⟨kept', test⟩ | ⟨gone, changed, -, rests⟩ := kept.onLine sole n f
  · refine ⟨.inl ⟨kept', ?_⟩, fun _ => kept'.record g⟩
    rw [onLine_line_self, ← state, ← Bool.not_eq_true]
    by_cases same : (f (u.line n)).control.state = (u.line n).control.state
    · exact .inl same
    · exact .inr fun rests => test ⟨same, mem, rests⟩
  · exact ⟨.inr ⟨gone, rests⟩, fun same => absurd same changed⟩

end

/-! ### Silent work -/

theorem Silent.refl (s : State) : Silent s s := ⟨.refl s, fun _ => rfl, fun _ => id⟩

theorem putLine_silent {n : LineNo} {l : Line} {s : State} (state : l.control.state = (s.line n).control.state) :
    Silent s (s.putLine n l) := by
  refine ⟨⟨rfl, fun _ => rfl, rfl, fun _ => rfl⟩, fun m => ?_, fun _ => id⟩
  rw [State.line_putLine]
  split
  next same => rw [state, same]
  next => rfl

theorem appendQueue_silent (ns : List LineNo) (s : State) : Silent s (s.appendQueue ns) := by
  rw [appendQueue_spec]
  refine ⟨⟨rfl, fun _ => rfl, rfl, fun _ => rfl⟩, fun _ => rfl, fun m hm => ?_⟩
  dsimp only
  split
  · exact List.mem_append_left _ hm
  · exact hm

theorem dueTake_silent (s : State) : Silent s s.dueTake := by
  unfold State.dueTake
  split
  · exact .refl s
  · exact ⟨⟨rfl, fun _ => rfl, rfl, fun _ => rfl⟩, fun _ => rfl, fun m hm => List.mem_append_left _ hm⟩

theorem reevaluateInhibits_silent (own : Option LineNo) (s : State) : Silent s (s.reevaluateInhibits own) := by
  obtain ⟨only, -⟩ := reevaluateInhibits_spec own s
  refine ⟨⟨only.table, fun x => ?_, only.records, fun x => ?_⟩, fun m => by rw [only.control], fun m hm => ?_⟩
  · rw [State.present, State.link, only.links]
    rfl
  · rw [State.link, only.links]
    rfl
  · rw [reevaluateInhibits_due]
    exact List.mem_append_left _ hm

/-! ### Single events -/

section
variable {g : GroupNo} {e : Entry} {ws : List LineNo} {n : LineNo} {s : State}

/-- A queue take opens its line, and hands nothing to the Arbiter afterwards (R142, R143). -/
theorem queueTake_watched (sole : Sole g e ws s) (mem : n ∈ ws) {others : List LineNo} {ds : List DueEvent}
    (head : s.berth.queue = n :: others) :
    let t := State.queueTake { s with due := ds }
    Watched g e ws n s t ∧ ((t.line n).control.state = (s.line n).control.state → t.record g = s.record g) := by
  have popped : Kept s (State.popQueue others { s with due := ds }) := ⟨rfl, fun _ => rfl, rfl, fun _ => rfl⟩
  have opened := onLine_watched sole popped rfl Line.queueHead mem
  have silent : Silent ((State.popQueue others { s with due := ds }).onLine n Line.queueHead)
      (State.queueTake { s with due := ds }) := by
    unfold State.queueTake
    dsimp only
    rw [head]
    dsimp only
    split
    · exact ⟨⟨rfl, fun _ => rfl, rfl, fun _ => rfl⟩, fun _ => rfl, fun _ => id⟩
    · split
      · exact .refl _
      · exact dueTake_silent _
  refine ⟨opened.1.silent silent, fun same => ?_⟩
  rw [silent.kept.record]
  exact opened.2 (by rw [← silent.states]; exact same)

/-- A count is one change of its line, if any (R10, R17). -/
theorem countEvent_watched (sole : Sole g e ws s) (mem : n ∈ ws) (turn : EncoderStep) :
    Watched g e ws n s (s.countEvent n turn)
      ∧ (((s.countEvent n turn).line n).control.state = (s.line n).control.state
        → (s.countEvent n turn).record g = s.record g) := by
  have still {t : State} (kept : Kept s t) (state : (t.line n).control.state = (s.line n).control.state) :
      Watched g e ws n s t ∧ ((t.line n).control.state = (s.line n).control.state → t.record g = s.record g) :=
    ⟨.inl ⟨kept, .inl state⟩, fun _ => kept.record g⟩
  cases fitted : s.fitted n with
  | false =>
    rw [countEvent_unfitted fitted turn]
    exact still (.refl s) rfl
  | true =>
    cases direction : countDirection (s.setup n).hand turn with
    | none =>
      have skipped : s.countEvent n turn = s.putLine n { s.line n with sense := (s.line n).sense.skip } := by
        rw [State.countEvent, if_pos fitted]
        dsimp only
        rw [direction]
      have silent := putLine_silent (s := s) (n := n) (l := { s.line n with sense := (s.line n).sense.skip }) rfl
      rw [skipped]
      exact still silent.kept (silent.states n)
    | some d =>
      have silent := putLine_silent (s := s) (n := n) (l := { s.line n with sense := (s.line n).sense.count d }) rfl
      rw [countEvent_counted fitted direction]
      exact onLine_watched sole silent.kept (silent.states n) _ mem

end

end Sys2Proof.Machine

/-! PROOFS. The single-command test at a sample event of a watched line (R39, R84, R124): for O7. -/

namespace Sys2Proof.Machine

/-! ### No report of a sample starts a resting line -/

/-- What happens to a line leaves it at rest where it rests (R37). -/
def KeepsRest (f : Line → Line) : Prop := ∀ l, l.control.state.resting = true → (f l).control.state.resting = true

theorem enter_state (x : LineState) (r : CommandRecord) (l : Line) : (l.enter x r).control.state = x := by
  unfold Line.enter
  split <;> rfl

theorem enter_resting {x : LineState} (rests : x.resting = true) (r : CommandRecord) (l : Line) :
    (l.enter x r).control.state.resting = true := by
  rw [enter_state]
  exact rests

theorem fault_keepsRest (c : FaultCause) : KeepsRest (Line.fault c) := by
  intro l rests
  have faulted : (l.enter .faulted {}).control.state.resting = true := enter_resting rfl {} l
  unfold Line.fault Line.enterFaulted
  split
  · exact rests
  · split <;> exact faulted

/-- A line that rests is neither ENGAGING nor OPENING, so that its hook position can only fault it. -/
theorem hookReport_keepsRest (b : BerthAction) (old new : HookPos) : KeepsRest (Line.hookReport b old new) := by
  intro l rests
  have same : l.hookReport b old new = l ∨ l.hookReport b old new = l.fault .hook := by
    unfold Line.hookReport
    generalize l.control.state = x at rests
    cases x with
    | engaging | opening => cases rests
    | starting | notFitted => exact .inl rfl
    | _ =>
      dsimp only
      split
      exacts [.inr rfl, .inl rfl]
  obtain same | faults := same
  · rw [same]
    exact rests
  · rw [faults]
    exact fault_keepsRest .hook l rests

theorem stowedReport_keepsRest : KeepsRest Line.stowedReport := by
  intro l rests
  rw [stowedReport_other fun rewinding => by rw [rewinding] at rests; cases rests]
  exact rests

theorem driveFaultReport_keepsRest : KeepsRest Line.driveFaultReport := by
  intro l rests
  have faults := fault_keepsRest .drive l rests
  unfold Line.driveFaultReport
  split
  exacts [rests, rests, faults]

theorem sensorFaultReport_keepsRest : KeepsRest Line.sensorFaultReport := by
  intro l rests
  have faults := fault_keepsRest .sensor l rests
  unfold Line.sensorFaultReport
  split
  exacts [rests, rests, faults]

theorem tensionReport_keepsRest (stopped : Bool) (o : TendOutcome) : KeepsRest (Line.tensionReport stopped o) := by
  intro l rests
  generalize x_eq : l.control.state = x at rests
  cases x with
  | hauling | deploying | rewinding | slacking | engaging | opening => cases rests
  | locked =>
    obtain h | h | h := tensionReport_locked (stopped := stopped) (o := o) x_eq <;> rw [h] <;> rfl
  | rendering =>
    rw [tensionReport_rendering x_eq]
    split
    exacts [rfl, x_eq ▸ rests]
  | recovering =>
    rw [tensionReport_recovering x_eq]
    split
    exacts [rfl, x_eq ▸ rests]
  | slipping =>
    by_cases le : l.tension.reported ≤ l.applied.warn
    · cases returns : l.control.record.returnTo with
      | none =>
        rw [tensionReport_slipHeld x_eq returns le]
        rfl
      | some c =>
        rw [tensionReport_slipFaulted x_eq returns le]
        exact enter_resting (x := .faulted) rfl {} l
    · rw [tensionReport_slips x_eq (not_le.1 le)]
      exact x_eq ▸ rests
  | _ =>
    rw [tensionReport_other (mem_of_state x_eq (by decide))]
    exact x_eq ▸ rests

theorem warnReport_keepsRest : KeepsRest Line.warnReport := fun _ => id

theorem tripReport_keepsRest : KeepsRest Line.tripReport := by
  intro l rests
  have slips : ((l.latch .trip).slip).control.state.resting = true := enter_resting rfl _ _
  have same : l.tripReport = l.latch .trip ∨ l.tripReport = (l.latch .trip).slip := by
    unfold Line.tripReport
    generalize l.control.state = x at rests
    cases x with
    | engaging => cases rests
    | hauling | locked | rendering | recovering | held | slacking => exact .inr rfl
    | faulted =>
      dsimp only
      split
      exacts [.inr rfl, .inl rfl]
    | _ => exact .inl rfl
  obtain latches | slipped := same
  · rw [latches]
    exact rests
  · rw [slipped]
    exact slips

theorem inhibitOnset_keepsRest : KeepsRest Line.inhibitOnset := by
  intro l rests
  unfold Line.inhibitOnset
  split
  exacts [enter_resting rfl _ l, enter_resting rfl _ l, rests]

theorem applyProfile_keepsRest (p : Profile) : KeepsRest (Line.applyProfile p) := by
  intro l rests
  by_cases over' : l.overrun p
  · rw [Line.applyProfile_overrun over']
    rfl
  · obtain ⟨-, -, -, -, -, -, -, -, control⟩ := Line.redriven_frame p (l.fresh p)
    rw [Line.applyProfile_continues over', control]
    exact rests

theorem useJoined_keepsRest (q : Profile) : KeepsRest (Line.useJoined q) := by
  intro l rests
  obtain ⟨-, -, -, -, -, -, -, -, control⟩ := Line.redriven_frame q (l.joinedTo q)
  rw [Line.useJoined_eq, control]
  exact rests

theorem close_keepsRest (fitted : Bool) : KeepsRest (Line.close fitted) := by
  intro l rests
  obtain same | arrives := close_state fitted l
  · rw [same]
    exact rests
  · generalize (l.close fitted).control.state = x at arrives
    simp only [List.mem_cons, List.not_mem_nil, or_false] at arrives
    obtain rfl | rfl | rfl | rfl | rfl := arrives <;> rfl

/-! ### The stages of a sample event -/

section
variable {g : GroupNo} {e : Entry} {ws : List LineNo} {n : LineNo} {s u : State} (sole : Sole g e ws s) (mem : n ∈ ws)
include sole mem

/-- A change of the watched line that starts no resting line. -/
theorem Watched.onLine (h : Watched g e ws n s u) {f : Line → Line} (keeps : KeepsRest f) :
    Watched g e ws n s (u.onLine n f) := by
  obtain ⟨kept, stays⟩ | ⟨gone, rests⟩ := h
  · obtain ⟨kept', test⟩ | ⟨gone, -, -, rests⟩ := kept.onLine sole n f
    · refine .inl ⟨kept', ?_⟩
      by_cases same : (f (u.line n)).control.state = (u.line n).control.state
      · have states (m : LineNo) : ((u.onLine n f).line m).control.state = (u.line m).control.state := by
          rw [onLine_line]
          split
          next here => rw [here, same]
          next => rfl
        simp only [State.allResting, states] at stays ⊢
        exact stays
      · refine .inr ?_
        rw [← Bool.not_eq_true]
        exact fun rests => test ⟨same, mem, rests⟩
    · exact .inr ⟨gone, rests⟩
  · refine .inr ⟨gone.onLine sole n f, ?_⟩
    rw [State.allResting, List.all_eq_true] at rests ⊢
    intro m hm
    rw [onLine_line]
    split
    next here => exact keeps _ (here ▸ rests m hm)
    next => exact rests m hm

omit sole mem in
theorem Watched.ite {c : Prop} [Decidable c] {t : State} (ht : Watched g e ws n s t) (hu : Watched g e ws n s u) :
    Watched g e ws n s (if c then t else u) := by
  split
  exacts [ht, hu]

omit sole mem in
theorem Watched.putLine (h : Watched g e ws n s u) {l : Line} (state : l.control.state = (u.line n).control.state) :
    Watched g e ws n s (u.putLine n l) := h.silent (putLine_silent state)

theorem Watched.profileStage (h : Watched g e ws n s u) : Watched g e ws n s (u.profileStage n) := by
  unfold State.profileStage
  refine .ite (h.onLine sole mem (applyProfile_keepsRest _)) ?_
  split
  · exact h.onLine sole mem (useJoined_keepsRest _)
  · exact h

theorem Watched.switchStage (h : Watched g e ws n s u) (pins : SwitchPins) : Watched g e ws n s (u.switchStage n pins) := by
  have changed (old new : HookPos) {t : State} (h : Watched g e ws n s t) : Watched g e ws n s (t.hookChange n old new) := by
    have reported := h.onLine sole mem (hookReport_keepsRest t.berth old new)
    exact .ite (reported.silent (appendQueue_silent [n] _)) reported
  unfold State.switchStage
  extract_lets old new _ s1 s2 s3
  have first : Watched g e ws n s s1 := h.putLine rfl
  have second : Watched g e ws n s s2 := .ite first (changed _ _ first)
  have third : Watched g e ws n s s3 := .ite (second.onLine sole mem stowedReport_keepsRest) second
  exact .ite (third.onLine sole mem driveFaultReport_keepsRest) third

theorem Watched.sensorStage (h : Watched g e ws n s u) (sample : BitVec 12) :
    Watched g e ws n s (u.sensorStage n sample) := by
  unfold State.sensorStage
  extract_lets new _ s1
  have counted : Watched g e ws n s s1 := h.putLine rfl
  exact .ite (counted.onLine sole mem sensorFaultReport_keepsRest) counted

theorem Watched.afterLatch (h : Watched g e ws n s u) : Watched g e ws n s (u.afterLatch n) := by
  have evaluated := h.silent (reevaluateInhibits_silent (some n) u)
  unfold State.afterLatch
  exact .ite (evaluated.onLine sole mem inhibitOnset_keepsRest) evaluated

theorem Watched.protectionStage (h : Watched g e ws n s u) : Watched g e ws n s (u.protectionStage n) := by
  have watches (warn trip : Nat) : Watched g e ws n s (u.putLine n ((u.line n).setWatches warn trip)) := h.putLine rfl
  unfold State.protectionStage
  extract_lets l p w1 s1 s2 w2
  refine .ite (.ite (watches _ _) (.ite ?_ ?_)) (.ite ?_ (watches _ _))
  · exact (watches _ _).onLine sole mem tripReport_keepsRest
  · exact ((watches _ _).onLine sole mem tripReport_keepsRest).afterLatch sole mem
  · exact ((watches _ _).onLine sole mem warnReport_keepsRest).afterLatch sole mem

theorem Watched.tensionStage (h : Watched g e ws n s u) (sample : BitVec 12) :
    Watched g e ws n s (u.tensionStage n sample) := by
  unfold State.tensionStage
  refine .ite ?_ h
  extract_lets l formed w s1
  have loaded : Watched g e ws n s s1 := h.putLine rfl
  exact (loaded.onLine sole mem (tensionReport_keepsRest _ _)).protectionStage sole mem

theorem sampleEvent_watched (sample : BitVec 12) (pins : SwitchPins) :
    Watched g e ws n s (s.sampleEvent n sample pins) := by
  have start : Watched g e ws n s s := .inl ⟨.refl s, .inl rfl⟩
  have timed : Watched g e ws n s (s.putLine n (s.line n).advanceHookTimer) := start.putLine rfl
  unfold State.sampleEvent
  refine Watched.onLine sole mem (.ite ?_ timed) (close_keepsRest _)
  exact (((timed.profileStage sole mem).switchStage sole mem pins).sensorStage sole mem sample).tensionStage sole mem sample

end

end Sys2Proof.Machine

/-! PROOFS. A sample event that leaves its watched line's state as it was (R28, R39, R124): for O7. -/

namespace Sys2Proof.Machine

section
variable {s : State} {n : LineNo} {sample : BitVec 12} {pins : SwitchPins}

theorem Silent.trans {t u v : State} (h : Silent t u) (h' : Silent u v) : Silent t v :=
  ⟨h.kept.trans h'.kept, fun m => (h'.states m).trans (h.states m), fun m hm => h'.due m (h.due m hm)⟩

/-- Switch readings that differ from no accepted position are reported to no block (R5, R8). -/
theorem switchStage_silent (settled : (s.line n).sense.settled pins = true) : Silent s (s.switchStage n pins) := by
  obtain ⟨hook, stowed, fault⟩ := Sense.sampleSwitches_settled settled
  unfold State.switchStage
  dsimp only
  rw [if_pos hook, stowed, fault, if_neg (fun h => h.2 h.1), if_neg (fun h => h.2 h.1)]
  exact putLine_silent rfl

theorem sensorStage_silent (valid : sampleValid sample = true) : Silent s (s.sensorStage n sample) := by
  unfold State.sensorStage
  rw [valid]
  dsimp only
  rw [if_neg (show ((s.line n).sense.sampleLoad true).invalidCount ≠ 8 from nofun)]
  exact putLine_silent rfl

/-- T at or below both thresholds returns the watches of the Protection Unit to 0 (R85, R86). -/
theorem protectionStage_quiet (warn : (s.line n).tension.reported ≤ (s.line n).applied.warn)
    (trip : (s.line n).tension.reported ≤ (s.line n).applied.trip) :
    s.protectionStage n = s.putLine n ((s.line n).setWatches 0 0) := by
  cases latched : (s.line n).has .warn with
  | false => exact protectionStage_unmet latched warn
  | true =>
    unfold State.protectionStage
    dsimp only
    rw [latched, decide_eq_false (not_lt.2 trip), watchStep_unmet]
    rfl

/-- A tension report and the close after it do not take a line away from its state and back (R28, R39). -/
theorem close_tensionReport_back {l m : Line} {stopped : Bool} {o : TendOutcome}
    (state : m.control.state = (l.tensionReport stopped o).control.state)
    (back : (m.close true).control.state = l.control.state) :
    (l.tensionReport stopped o).control.state = l.control.state := by
  by_contra changed
  by_cases stays : l.control.state ∈ [LineState.notFitted, .faulted, .stowed, .opened, .held]
  · refine changed (congrArg (fun l : Line => l.control.state) (tensionReport_other ?_))
    generalize l.control.state = x at stays
    simp only [List.mem_cons, List.not_mem_nil, or_false] at stays ⊢
    tauto
  · exact close_elsewhere true (fun same => changed (state.symm.trans same)) stays back

/-- The reading of a valid sample ends with the tension report of a line whose state is as it was. -/
theorem reading_onLine
    (silent : Silent s (((s.putLine n (s.line n).advanceHookTimer).switchStage n pins).sensorStage n sample)) :
    ∃ (b : State) (stopped : Bool) (o : TendOutcome), Silent s b
      ∧ s.reading n sample pins = b.onLine n (Line.tensionReport stopped o) := by
  unfold State.reading State.evaluated
  extract_lets l formed w
  exact ⟨_, _, w.2, silent.trans (putLine_silent (l := { l with tension := w.1 }) rfl), rfl⟩

/-- A calm sample that leaves the state of its line leaves the record. -/
theorem sampleEvent_calm {g : GroupNo} {e : Entry} {ws : List LineNo} (sole : Sole g e ws s)
    (calm : s.calmSample n sample pins = true)
    (same : ((s.sampleEvent n sample pins).line n).control.state = (s.line n).control.state) :
    Kept s (s.sampleEvent n sample pins) := by
  unfold State.calmSample at calm
  rw [Bool.and_eq_true, Bool.and_eq_true, decide_eq_true_iff, decide_eq_true_iff, plainSample_iff] at calm
  obtain ⟨⟨⟨-, fitted, stands, valid, settled⟩, warn⟩, trip⟩ := calm
  have whole := sampleEvent_reading (pins := pins) fitted stands valid
  obtain ⟨-, applied, reported, -⟩ := reading_line (s := s) (n := n) (sample := sample) (pins := pins) valid
  have quiet := protectionStage_quiet (s := s.reading n sample pins) (n := n) (by rw [reported, applied]; exact warn)
    (by rw [reported, applied]; exact trip)
  have timed : Silent s (s.putLine n (s.line n).advanceHookTimer) := putLine_silent rfl
  have switched := timed.trans (switchStage_silent (s := s.putLine n (s.line n).advanceHookTimer) (n := n) (pins := pins)
    (by rw [State.line_putLine_self]; exact settled))
  have counted := switched.trans (sensorStage_silent (n := n) valid)
  obtain ⟨b, stopped, o, start, stage⟩ := reading_onLine (s := s) (n := n) (sample := sample) (pins := pins) counted
  rw [whole, quiet, stage] at same ⊢
  have unchanged {u : State} (kept : Kept s u) (f : Line → Line)
      (state : (f (u.line n)).control.state = (u.line n).control.state) : Kept s (u.onLine n f) := by
    obtain ⟨kept', -⟩ | ⟨-, changed, -⟩ := kept.onLine sole n f
    exacts [kept', absurd state changed]
  rw [onLine_line_self, State.line_putLine_self, ← start.states] at same
  have back := close_tensionReport_back (l := b.line n) (stopped := stopped) (o := o) (by rw [onLine_line_self]; rfl) same
  have reported := unchanged start.kept (Line.tensionReport stopped o) back
  have watched := reported.trans (putLine_silent (s := b.onLine n (Line.tensionReport stopped o)) (n := n)
    (l := ((b.onLine n (Line.tensionReport stopped o)).line n).setWatches 0 0) rfl).kept
  refine unchanged watched (Line.close true) ?_
  rw [State.line_putLine_self]
  refine same.trans (back.symm.trans ?_)
  rw [onLine_line_self]
  rfl

end

end Sys2Proof.Machine

/-! PROOFS. A line command while a marked entry watches (R123, R124, R163): for O7. -/

namespace Sys2Proof.Machine

/-! ### The lines of a command -/

/-- What each line of a command keeps, all of them keep (R43, R163). -/
theorem takeLines_keeps {s : State} {f : LineNo → State → State × ReplyCode} {out : LineNo → ReplyCode}
    {change : LineNo → Line → Line} {P : State → Prop}
    (each : ∀ n u, SameFor s u n → f n u = if out n = .done then (u.onLine n (change n), .done) else (u, out n))
    (step : ∀ n u, u.line n = s.line n → out n = .done → P u → P (u.onLine n (change n))) :
    ∀ (ns : List LineNo) (u : State), ns.Nodup → (∀ n ∈ ns, u.line n = s.line n) → LinesTaken s u → P u →
      P (takeLines f ns u).1
  | [], _, _, _, _, hP => hP
  | n :: ns, u, nodup, lines, taken, hP => by
    obtain ⟨fresh, nodup⟩ := List.nodup_cons.1 nodup
    have line := lines n List.mem_cons_self
    have one := each n u ⟨line, taken.beside.table, taken.beside.berth⟩
    unfold takeLines
    rw [one]
    by_cases done : out n = .done
    · rw [if_pos done]
      refine takeLines_keeps each step ns _ nodup (fun m hm => ?_) (taken.onLine n (change n) line) (step n u line done hP)
      have other : m ≠ n := fun same => fresh (same ▸ hm)
      rw [onLine_line, if_neg other]
      exact lines m (List.mem_cons_of_mem _ hm)
    · rw [if_neg done]
      exact takeLines_keeps each step ns u nodup (fun m hm => lines m (List.mem_cons_of_mem _ hm)) taken hP

section
variable {g : GroupNo} {e : Entry} {ws : List LineNo} {s u : State}

/-- The watching entry stands and a watched line moves, or it has gone and every watched line rests. -/
def Resolved (g : GroupNo) (e : Entry) (ws : List LineNo) (s u : State) : Prop :=
  (Kept s u ∧ u.allResting ws = false) ∨ (Gone g e.station s u ∧ u.allResting ws = true)

theorem allResting_onLine {n : LineNo} {f : Line → Line} (same : n ∈ ws → (f (u.line n)).control.state = (u.line n).control.state) :
    (u.onLine n f).allResting ws = u.allResting ws := by
  have state (m : LineNo) (hm : m ∈ ws) : ((u.onLine n f).line m).control.state = (u.line m).control.state := by
    rw [onLine_line]
    split
    next here => rw [here, same (here ▸ hm)]
    next => rfl
  rw [Bool.eq_iff_iff, State.allResting, State.allResting, List.all_eq_true, List.all_eq_true]
  exact forall₂_congr fun m hm => by rw [state m hm]

/-- A command that brings its lines to rest: the last watched line that comes to rest removes the entry. -/
theorem Resolved.rests (sole : Sole g e ws s) (h : Resolved g e ws s u) {n : LineNo} {f : Line → Line}
    (rests : (f (u.line n)).control.state.resting = true) : Resolved g e ws s (u.onLine n f) := by
  obtain ⟨kept, moves⟩ | ⟨gone, resting⟩ := h
  · obtain ⟨kept', test⟩ | ⟨gone, -, -, resting⟩ := kept.onLine sole n f
    · refine .inl ⟨kept', ?_⟩
      by_cases changed : (f (u.line n)).control.state ≠ (u.line n).control.state ∧ n ∈ ws
      · rw [← Bool.not_eq_true]
        exact fun resting => test ⟨changed.1, changed.2, resting⟩
      · rw [allResting_onLine fun mem => by_contra fun other => changed ⟨other, mem⟩]
        exact moves
    · exact .inr ⟨gone, resting⟩
  · refine .inr ⟨gone.onLine sole n f, ?_⟩
    rw [State.allResting, List.all_eq_true] at resting ⊢
    intro m hm
    rw [onLine_line]
    split
    next => exact rests
    next => exact resting m hm

/-- A command that brings no moving line to rest leaves the entry while watched line `m` moves. -/
theorem Kept.moves (sole : Sole g e ws s) {m : LineNo} (mem : m ∈ ws)
    (h : Kept s u ∧ (u.line m).control.state.resting = false) {n : LineNo} {f : Line → Line}
    (starts : (u.line n).control.state.resting = false → (f (u.line n)).control.state.resting = false) :
    Kept s (u.onLine n f) ∧ ((u.onLine n f).line m).control.state.resting = false := by
  obtain ⟨kept, moves⟩ := h
  have moves' : ((u.onLine n f).line m).control.state.resting = false := by
    rw [onLine_line]
    split
    next same => exact starts (same ▸ moves)
    next => exact moves
  obtain ⟨kept', -⟩ | ⟨-, -, -, resting⟩ := kept.onLine sole n f
  · exact ⟨kept', moves'⟩
  · rw [State.allResting, List.all_eq_true] at resting
    rw [resting m mem] at moves'
    cases moves'

/-! ### The watched sets after the command -/

/-- What R124 says of a later line command, for the record of group `g`. -/
structure Commanded (g : GroupNo) (e : Entry) (ws : List LineNo) (s t : State) : Prop where
  marks : s.groupNoticesMarked t
  removed : t.allResting ws = true →
    ((s.record g).lacking e.station).reevaluatedTo s.table.settings.vesselLead (t.record g)
  moving : t.allResting ws = false → t.record g = s.record g
  halts : t.holder g ≠ s.holder g → ∀ d ∈ (s.groupLines g).map DueEvent.halt, d ∈ t.due

theorem Resolved.beside (h : Resolved g e ws s u) :
    u.table = s.table ∧ (∀ x, u.present x = s.present x) ∧ (∀ x, x ≠ g → u.record x = s.record x) ∧ s.groupNoticesMarked u := by
  obtain ⟨kept, -⟩ | ⟨gone, -⟩ := h
  · exact ⟨kept.table, kept.present, fun x _ => kept.record x, kept.groupNoticesMarked⟩
  · exact ⟨gone.table, gone.present, gone.others, gone.marks⟩

/-- The command records no watched set in the group of the watching entry, before its removal or after it (R123). -/
theorem Resolved.unrecorded (sole : Sole g e ws s) (alone : ∀ e' ∈ (s.record g).inService, e'.single = true → e' = e)
    (h : Resolved g e ws s u) {st : Station} {ns : List LineNo}
    (holds : u.allResting ws = true → ns ≠ [] → s.holder g = some st) : (u.record g).recordsFor st ns = false := by
  unfold GroupRecord.recordsFor
  cases serving : (u.record g).inService with
  | nil => rfl
  | cons a others =>
    have mem : a ∈ (u.record g).inService := serving ▸ List.mem_cons_self
    rw [← Bool.not_eq_true]
    simp only [Bool.and_eq_true, beq_iff_eq, Option.isNone_iff_eq_none, Bool.not_eq_true', List.isEmpty_eq_false_iff]
    rintro ⟨⟨⟨station, single⟩, unwatched⟩, taken⟩
    obtain ⟨kept, -⟩ | ⟨gone, rests⟩ := h
    · rw [kept.record] at mem
      rw [alone a mem single, sole.watched] at unwatched
      cases unwatched
    · rw [gone.removed] at mem
      have mem' := List.mem_append_left ((s.record g).removed s.table.settings.vesselLead e.station).waiting mem
      have absent := ((sole.sound g).removed e.station).present a mem'
      simp only [Bool.and_eq_true, bne_iff_ne] at absent
      obtain he | he := List.mem_append.1
        ((GroupRecord.removed_rescinded s.table.settings.vesselLead e.station (s.record g)).within a mem')
      · exact absent.2 (congrArg Entry.station (alone a he single))
      · obtain ⟨b, hb, same⟩ := GroupRecord.mem_of_holder (holds rests taken)
        exact (sole.sound g).apart b hb a he (same.trans station.symm)

theorem recordWatched_commanded (sole : Sole g e ws s) (alone : ∀ e' ∈ (s.record g).inService, e'.single = true → e' = e)
    (h : Resolved g e ws s u) (st : Station) (taken : List LineNo) (kind : Byte) (body : List Byte)
    (holds : u.allResting ws = true → (taken.filter fun n => (s.setup n).group == g) ≠ [] → s.holder g = some st) :
    Commanded g e ws s ((u.recordWatched st taken).placeReply st kind body) := by
  obtain ⟨table, present, others, marks⟩ := h.beside
  have recorded := recordWatched_recorded (s := u) rfl rfl (List.append_nil u.due).symm (fun _ => rfl) (fun _ => rfl) st taken kind
    body
  have setup (n : LineNo) : u.setup n = s.setup n := by rw [State.setup, table]; rfl
  simp only [setup] at recorded
  have stays := (recorded.record g).trans (recorded_untaken _ (h.unrecorded sole alone holds))
  have line (m : LineNo) : ((u.recordWatched st taken).placeReply st kind body).line m = u.line m :=
    (State.line_onLink ..).trans ((recordWatched_authorityOnly st taken u).line m)
  have rests : ((u.recordWatched st taken).placeReply st kind body).allResting ws = u.allResting ws := by
    simp only [State.allResting, line]
  generalize (u.recordWatched st taken).placeReply st kind body = t at *
  have dueKept (d : DueEvent) (hd : d ∈ u.due) : d ∈ t.due := by
    rw [recorded.due]
    exact List.mem_append_left _ (List.mem_append_left _ hd)
  refine ⟨fun x y => ?_, fun rest => ?_, fun move => ?_, fun changed d hd => ?_⟩
  · rw [recorded.marks x y, marks x y, present]
    by_cases same : y = g
    · rw [same, stays]
      simp [GroupRecord.noticeDue_self]
    · rw [others y same]
      simp [GroupRecord.noticeDue_self]
  · rw [stays]
    obtain ⟨-, moves⟩ | ⟨gone, -⟩ := h
    · rw [← rests, rest] at moves
      cases moves
    · exact sole.removed gone
  · rw [stays]
    obtain ⟨kept, -⟩ | ⟨-, resting⟩ := h
    · exact kept.record g
    · rw [← rests, move] at resting
      cases resting
  · have holder : t.holder g = u.holder g := congrArg GroupRecord.holder stays
    rw [holder] at changed
    obtain ⟨kept, -⟩ | ⟨gone, -⟩ := h
    · exact absurd (congrArg GroupRecord.holder (kept.record g)) changed
    · exact dueKept d (gone.halts changed d hd)

/-- A command whose lines keep `Resolved`. -/
theorem exec_lineCommand_commanded (sole : Sole g e ws s) (alone : ∀ e' ∈ (s.record g).inService, e'.single = true → e' = e)
    {st : Station} {kind mask : Byte} {ok : Bool}
    {f : (LineNo → Bool) → LineNo → State → State × ReplyCode} {out : LineNo → ReplyCode} {change : LineNo → Line → Line}
    (accepted : s.accepts st = true) (hok : ok = true) (clear : (s.link st).restartInd = false)
    (each : ∀ n u, SameFor s u n →
      f (s.permitted st) n u = if out n = .done then (u.onLine n (change n), .done) else (u, out n))
    (resolved : ∀ (ns : List LineNo), ns.Nodup → Resolved g e ws s (takeLines (f (s.permitted st)) ns s).1)
    (refused : ∀ n, s.holder (s.setup n).group ≠ some st → out n = .notHolder) :
    ∃ t, whileRunning (State.requestEvent st ok (State.lineCommand st kind mask f)) s = .next t
      ∧ Commanded g e ws s t := by
  refine ⟨_, request_taken accepted hok, ?_⟩
  have codes := (takeLines_spec (fun n u line table berth => each n u ⟨line, table, berth⟩) (maskLines mask) s
    (maskLines_nodup mask) (fun _ _ => rfl) (.refl s)).1
  have settled := resolved (maskLines mask) (maskLines_nodup mask)
  unfold State.lineCommand State.restartSet
  rw [clear]
  simp only [Bool.false_eq_true, if_false]
  rw [codes]
  refine recordWatched_commanded sole alone settled st _ kind _ fun _ taken => ?_
  rw [takenLines_filter] at taken
  obtain ⟨n, mem⟩ := List.exists_mem_of_ne_nil _ taken
  have takes := (List.mem_filter.1 mem).2
  simp only [Bool.and_eq_true, Bool.or_eq_true, beq_iff_eq] at takes
  obtain ⟨⟨-, outcome⟩, rfl⟩ := takes
  by_contra other
  rw [refused n other] at outcome
  obtain h | h := outcome <;> cases h

/-- A command that brings to rest each line that it changes. -/
theorem exec_resting_commanded (sole : Sole g e ws s) (alone : ∀ e' ∈ (s.record g).inService, e'.single = true → e' = e)
    (moves : s.allResting ws = false) {st : Station} {kind mask : Byte} {ok : Bool}
    {f : (LineNo → Bool) → LineNo → State → State × ReplyCode} {out : LineNo → ReplyCode} {change : LineNo → Line → Line}
    (accepted : s.accepts st = true) (hok : ok = true) (clear : (s.link st).restartInd = false)
    (each : ∀ n u, SameFor s u n →
      f (s.permitted st) n u = if out n = .done then (u.onLine n (change n), .done) else (u, out n))
    (refused : ∀ n, s.holder (s.setup n).group ≠ some st → out n = .notHolder)
    (rests : ∀ n, out n = .done → (change n (s.line n)).control.state.resting = true) :
    ∃ t, whileRunning (State.requestEvent st ok (State.lineCommand st kind mask f)) s = .next t
      ∧ Commanded g e ws s t := by
  refine exec_lineCommand_commanded sole alone accepted hok clear each (fun ns nodup => ?_) refused
  refine takeLines_keeps each (fun n u line done h => h.rests sole ?_) ns s nodup (fun _ _ => rfl) (.refl s)
    (.inl ⟨.refl s, moves⟩)
  rw [line]
  exact rests n done

/-- A command that brings no moving line to rest. -/
theorem exec_moving_commanded (sole : Sole g e ws s) (alone : ∀ e' ∈ (s.record g).inService, e'.single = true → e' = e)
    {m : LineNo} (mem : m ∈ ws) (moves : (s.line m).control.state.resting = false) {st : Station} {kind mask : Byte} {ok : Bool}
    {f : (LineNo → Bool) → LineNo → State → State × ReplyCode} {out : LineNo → ReplyCode} {change : LineNo → Line → Line}
    (accepted : s.accepts st = true) (hok : ok = true) (clear : (s.link st).restartInd = false)
    (each : ∀ n u, SameFor s u n →
      f (s.permitted st) n u = if out n = .done then (u.onLine n (change n), .done) else (u, out n))
    (refused : ∀ n, s.holder (s.setup n).group ≠ some st → out n = .notHolder)
    (starts : ∀ n, out n = .done → (s.line n).control.state.resting = false →
      (change n (s.line n)).control.state.resting = false) :
    ∃ t, whileRunning (State.requestEvent st ok (State.lineCommand st kind mask f)) s = .next t
      ∧ Commanded g e ws s t := by
  have moving {u : State} (h : (u.line m).control.state.resting = false) : u.allResting ws = false := by
    rw [← Bool.not_eq_true, State.allResting, List.all_eq_true]
    intro rests
    rw [rests m mem] at h
    cases h
  refine exec_lineCommand_commanded sole alone accepted hok clear each (fun ns nodup => ?_) refused
  have kept := takeLines_keeps (P := fun u => Kept s u ∧ (u.line m).control.state.resting = false) each
    (fun n u line done h => Kept.moves sole mem h (line ▸ starts n done)) ns s nodup (fun _ _ => rfl) (.refl s)
    ⟨.refl s, moves⟩
  exact .inl ⟨kept.1, moving kept.2⟩

/-- QUICK RELEASE changes no line (R140). -/
theorem exec_quickRelease_commanded (sole : Sole g e ws s)
    (alone : ∀ e' ∈ (s.record g).inService, e'.single = true → e' = e) (moves : s.allResting ws = false) {st : Station}
    (mask : Byte) (accepted : s.accepts st = true) (clear : (s.link st).restartInd = false) :
    ∃ t, exec (.quickRelease st mask) s = .next t ∧ Commanded g e ws s t := by
  refine ⟨_, (request_taken accepted rfl).trans (congrArg _ (lineCommand_quickRelease mask clear)), ?_⟩
  have silent := appendQueue_silent (s.quickReleasing st mask) s
  refine recordWatched_commanded sole alone (.inl ⟨silent.kept, (silent.allResting ws).trans moves⟩) st _ _ _ fun rests => ?_
  rw [silent.allResting ws, moves] at rests
  cases rests

end

end Sys2Proof.Machine

/-! PROOFS. Single-command authority at a change of state of a watched line: settles O7. -/

namespace Sys2Proof.Machine

section
variable {g : GroupNo} {e : Entry} {ws : List LineNo} {n : LineNo} {s : State}

/-- What R124 says of an event that is one change of its line, and hands nothing else over. -/
structure OneChange (g : GroupNo) (e : Entry) (ws : List LineNo) (n : LineNo) (ds : List DueEvent) (s t : State) : Prop where
  watched : Watched g e ws n s t
  same : (t.line n).control.state = (s.line n).control.state → t.record g = s.record g
  due : t.due = ds ++ if t.holder g = s.holder g then [] else (s.groupLines g).map DueEvent.halt

theorem onLine_oneChange (sole : Sole g e ws s) (mem : n ∈ ws) (ds : List DueEvent) (f : Line → Line) :
    OneChange g e ws n ds s (State.onLine n f { s with due := ds }) := by
  have kept : Kept s { s with due := ds } := ⟨rfl, fun _ => rfl, rfl, fun _ => rfl⟩
  obtain ⟨watched, same⟩ := onLine_watched sole kept rfl f mem
  exact ⟨watched, same, (sole.of_same (u := { s with due := ds }) rfl rfl fun _ => rfl).onLine_due n f⟩

theorem exec_oneChange (running : s.running = true) (sole : Sole g e ws s) (mem : n ∈ ws) (f : Line → Line) :
    ∃ t, whileRunning (State.onLine n f) s = .next t ∧ OneChange g e ws n s.due s t :=
  ⟨_, whileRunning_running _ running, onLine_oneChange sole mem s.due f⟩

/-- An event that is handed over, or that does not arise (log 5). -/
theorem exec_handed_oneChange (running : s.running = true) (sole : Sole g e ws s) (mem : n ∈ ws) (d : DueEvent) (f : Line → Line) :
    ∃ t, whileRunning (State.takeHanded d (State.onLine n f)) s = .next t ∧ OneChange g e ws n (s.due.erase d) s t := by
  by_cases due : d ∈ s.due
  · exact ⟨_, (whileRunning_running _ running).trans (congrArg _ (takeHanded_due due _)), onLine_oneChange sole mem _ f⟩
  · have absent : s.takeHanded d (State.onLine n f) = s := if_neg fun h => due (List.contains_iff_mem.1 h)
    refine ⟨_, (whileRunning_running _ running).trans (congrArg _ absent), .inl ⟨.refl s, .inl rfl⟩, fun _ => rfl, ?_⟩
    rw [List.erase_of_not_mem due, if_pos rfl, List.append_nil]

end

theorem resetLine_rests (fitted : Bool) (l : Line) : (l.derive fitted).control.state.resting = true := by
  rw [derive_eq_derivedAs]
  unfold Line.derivedAs
  split_ifs <;> rfl

/-! ### What the line commands do to moving lines -/

section
variable {s : State} {st : Station} {n : LineNo}

theorem lockOutcome_done (done : lockOutcome s st n = .done) : (s.line n).control.state = .held := by
  unfold lockOutcome at done
  dsimp only at done
  split_ifs at done with _ _ _ held <;> exact not_not.1 held

theorem rewindOutcome_done (done : rewindOutcome s st n = .done) : (s.line n).control.state = .opened := by
  unfold rewindOutcome at done
  split_ifs at done with _ _ _ opened
  exact opened

theorem markOutcome_done (done : markOutcome s st n = .done) : (s.line n).control.state ∈ [LineState.locked, .held] := by
  unfold markOutcome at done
  split_ifs at done with _ marked
  exact marked

end

end Sys2Proof.Machine

namespace Sys2Proof

open Machine

/-- Settles O7: the events of one line by `Watched.tested`, a calm sample by `sampleEvent_calm`, and the line commands by
`exec_resting_commanded` and `exec_moving_commanded`. -/
theorem singleCommandStateChange : Obligations.SingleCommandStateChange := by
  unfold Obligations.SingleCommandStateChange
  intro n g e ws s moving rest removed halted running sound mem single watched listed only
  have sole : Sole g e ws s := ⟨s.authoritySound_iff.1 sound, mem, single, watched, only⟩
  have resting (t : State) : t.allResting ws = true ↔ rest t := allResting_iff t ws
  have moves (t : State) : t.allResting ws = false ↔ ¬rest t := by rw [← resting, Bool.not_eq_true]
  have tests {t : State} (h : Watched g e ws n s t) :
      s.groupNoticesMarked t ∧ (∀ x, x ≠ g → t.record x = s.record x)
        ∧ ((t.line n).control.state ≠ (s.line n).control.state → rest t → removed t)
        ∧ (¬rest t → t.record g = s.record g) ∧ (t.holder g ≠ s.holder g → ∀ h ∈ halted, h ∈ t.due) := by
    obtain ⟨marks, others, gone, stands, halts⟩ := h.tested sole
    exact ⟨marks, others, fun changed rests => gone changed ((resting t).2 rests), fun moves' => stands ((moves t).2 moves'),
      halts⟩
  refine ⟨?single, ?events, ?commands⟩
  case single =>
    have answer {c : Instr × List DueEvent} (ran : ∃ t, exec c.1 s = .next t ∧ OneChange g e ws n c.2 s t) :
        ∃ t, exec c.1 s = .next t ∧ s.groupNoticesMarked t
          ∧ (∀ x, x ≠ g → t.record x = s.record x)
          ∧ ((t.line n).control.state ≠ (s.line n).control.state → rest t → removed t)
          ∧ ((t.line n).control.state = (s.line n).control.state ∨ ¬rest t → t.record g = s.record g)
          ∧ t.due = c.2 ++ if t.holder g = s.holder g then [] else halted := by
      obtain ⟨t, next, one⟩ := ran
      obtain ⟨marks, others, gone, stands, -⟩ := tests one.watched
      exact ⟨t, next, marks, others, gone, fun h => h.elim one.same stands, one.due⟩
    rw [List.forall_mem_cons, List.forall_mem_cons, List.forall_mem_cons, List.forall_mem_cons, List.forall_mem_singleton]
    exact ⟨answer (exec_oneChange running sole listed _), answer (exec_oneChange running sole listed _),
      answer (exec_handed_oneChange running sole listed _ _), answer (exec_handed_oneChange running sole listed _ _),
      answer (exec_handed_oneChange running sole listed _ _)⟩
  case events =>
    intro sample pins turn others
    rw [List.forall_mem_cons, List.forall_mem_cons, List.forall_mem_singleton]
    refine ⟨fun take => ?_, fun _ => ?_, fun _ => ?_⟩
    · obtain ⟨due, head, -⟩ := take rfl
      obtain ⟨watched', same⟩ := queueTake_watched sole listed (ds := s.due.erase .queueTake) head
      obtain ⟨marks, others', gone, stands, halts⟩ := tests watched'
      exact ⟨_, (whileRunning_running _ running).trans (congrArg _ (takeHanded_due due _)), marks, others', gone, stands,
        fun h _ => same h, halts⟩
    · obtain ⟨watched', same⟩ := countEvent_watched sole listed turn
      obtain ⟨marks, others', gone, stands, halts⟩ := tests watched'
      exact ⟨_, whileRunning_running _ running, marks, others', gone, stands, fun h _ => same h, halts⟩
    · obtain ⟨marks, others', gone, stands, halts⟩ := tests (sampleEvent_watched sole listed sample pins)
      exact ⟨_, whileRunning_running _ running, marks, others', gone, stands,
        fun same calm => (sampleEvent_calm sole (calm rfl).1 same).record g, halts⟩
  case commands =>
    intro st mask option accepted clear hoption alone ⟨m, hm, hmoving⟩ c hc
    have moving' : (s.line m).control.state.resting = false := by
      rw [← Bool.not_eq_true, resting_iff]
      exact not_not.2 hmoving
    have unrested : s.allResting ws = false := (moves s).2 fun rests => rests m hm hmoving
    have ran : ∃ t, exec c s = .next t ∧ Commanded g e ws s t := by
      simp only [List.mem_cons, List.not_mem_nil, or_false] at hc
      obtain rfl | rfl | rfl | rfl | rfl | rfl | rfl | rfl | rfl := hc
      · exact exec_moving_commanded sole alone hm moving' accepted rfl clear (fun n u h => deployLine_eq h)
          (fun n other => if_pos other) fun n _ _ => by rw [enter_state]; rfl
      · exact exec_moving_commanded sole alone hm moving' accepted rfl clear (fun n u h => engageLine_eq h)
          (fun n other => if_pos other) fun n _ _ => by rw [enter_state]; rfl
      · exact exec_moving_commanded sole alone hm moving' accepted rfl clear (fun n u h => lockLine_eq h)
          (fun n other => if_pos other) fun n done moves => by rw [lockOutcome_done done] at moves; cases moves
      · refine exec_resting_commanded sole alone unrested accepted rfl clear (fun n u h => holdLine_eq h)
          (fun n other => if_pos other) fun n _ => ?_
        unfold State.holding
        split <;> exact enter_resting rfl _ _
      · refine exec_resting_commanded sole alone unrested accepted rfl clear (fun n u h => markLine_eq h)
          (fun n other => if_pos other) fun n done => ?_
        have marked := markOutcome_done done
        change (s.line n).control.state.resting = true
        simp only [List.mem_cons, List.not_mem_nil, or_false] at marked
        obtain h | h := marked <;> rw [h] <;> rfl
      · exact exec_moving_commanded sole alone hm moving' accepted hoption clear (fun n u h => releaseLine_eq _ h)
          (fun n other => if_pos other) fun n _ _ => by rw [enter_state]; rfl
      · exact exec_moving_commanded sole alone hm moving' accepted rfl clear (fun n u h => rewindLine_eq h)
          (fun n other => if_pos other) fun n done moves => by rw [rewindOutcome_done done] at moves; cases moves
      · exact exec_quickRelease_commanded sole alone unrested mask accepted clear
      · exact exec_resting_commanded sole alone unrested accepted rfl clear (fun n u h => resetLineOne_eq h)
          (fun n other => if_pos other) fun n _ => resetLine_rests _ _
    obtain ⟨t, next, marks, gone, stands, halts⟩ := ran
    exact ⟨t, next, marks, fun rests => gone ((resting t).2 rests), fun moves' => stands ((moves t).2 moves'), halts⟩

end Sys2Proof
